-- ==== Sys2Proof/Word.lean ====
section
/-!
DEFINITION. The machine's plainest types: the byte, the 64-bit register word (R6), and the outcome of a step.
-/

namespace Sys2Proof

/-- One byte of memory, of a packet or of a message. -/
abbrev Byte := BitVec 8

/-- A register: 64 bits wide, read and written whole (R6). -/
abbrev Word := BitVec 64

/-- A string of bytes in ascending address order. -/
abbrev Bytes := List Byte

end Sys2Proof
end

