-- ==== Sys2Proof/Syntax.lean ====
section
/-!
DEFINITION. The commands the block takes: one constructor per row of the spec's table of operations and events
(opcode_table.json). The table gives no operand; the operands here are what the row's rule needs from outside the
machine: who acts, which unit, and the data that arrives (log entry 3).
-/

namespace Sys2Proof

/-- The engines and ports that issue an access; the codes of MEM_ERR_ADDR.SOURCE (Table 10.14). -/
inductive Agent where
  | steward | dma | mill | stackEngine | drover | sieve
  | host (ld : Fin 16)
  | port (k : Fin 12)
  | text
  deriving DecidableEq, Repr

/-- Who issues an access: the agent, the partition whose work it does, and the tenant of that work.
For a host the tenant is the one bound to its logical device (R487), and this field is not read. -/
structure Issuer where
  agent : Agent
  partition : Fin 4
  tenant : Nat
  deriving DecidableEq, Repr

/-- The messages of the coherence word (Table 16.5). -/
inductive CohMsg where
  | hRd | hWr | hCln | hData | hCmp | biSnp | biRsp | fail
  deriving DecidableEq, Repr

/-- META of the coherence word (Table 16.5). -/
inductive Meta where
  | invalid | any | shared
  deriving DecidableEq, Repr

/-- The messages of a MAP packet (Table 17.6). -/
inductive MapMsg where
  | prep | ack | commit | defer | abort
  deriving DecidableEq, Repr

/-- One entry of a PREP (Table 17.6): KIND 1 EXTENT, 2 SHARD_HOME, 3 ROW_HOME. -/
structure MapEntry where
  kind : Nat
  tenant : Nat
  id : Nat
  value : Nat
  deriving DecidableEq, Repr

/-- A Bell packet's payload (Table 14.9). -/
structure BellInfo where
  frame : Nat
  period : Nat
  applyAt : Nat
  periodNext : Nat
  source : Nat
  bhops : Nat
  due : Nat
  deriving DecidableEq, Repr

/-- What a packet carries after its header, by TYPE (Table 14.5). -/
inductive Payload where
  /-- MEM_RD: [63] HOST, the address, the read length. -/
  | memRd (host : Bool) (addr : Nat) (len : Nat)
  /-- MEM_WR: [63] HOST, the address, the data. -/
  | memWr (host : Bool) (addr : Nat) (data : Bytes)
  /-- COMPL: status code, bytes performed, data. -/
  | compl (status : Nat) (performed : Nat) (data : Bytes)
  /-- CMD: a command packet, header first. -/
  | cmd (packet : Bytes)
  /-- CREDIT: class, KIND (false command, true request), GRANT, partition, count. -/
  | credit (cls : Fin 4) (request : Bool) (grant : Bool) (partition : Fin 4) (count : Nat)
  | bell (b : BellInfo)
  /-- NOTICE: the 64 bytes of Table 18.5. -/
  | notice (body : Bytes)
  /-- MAP: message, SEQ, EPOCH, entries. -/
  | map (msg : MapMsg) (seq : Nat) (epoch : Nat) (entries : List MapEntry)
  /-- COH: message, META, agent index, line address, payload. -/
  | coh (msg : CohMsg) (mt : Meta) (agent : Nat) (line : Nat) (data : Bytes)
  /-- a TYPE outside Table 14.5, a LEN outside its range, a reserved field or an address word that R427 drops -/
  | malformed
  deriving DecidableEq, Repr

/-- A packet of the Alnos fabric (Table 14.4). -/
structure Packet where
  cls : Fin 4
  vl : Fin 4
  dstPartition : Fin 4
  dst : Nat
  src : Nat
  ten : Nat
  ld : Nat
  tag : Nat
  hops : Nat
  hostSrc : Bool
  poison : Bool
  body : Payload
  deriving DecidableEq, Repr

/-- A figure of work in core cycles: the partition, the command's reference where it is an estimate of one, the engine (its
ENGINE_KIND of Table 18.3 and its index) and the cycles. -/
structure Cycles where
  p : Fin 4
  ref : Nat
  kind : Nat
  engine : Nat
  cycles : Nat
  deriving DecidableEq, Repr

/-- What a flash channel measures of its targets (Table 12.10): the hottest one's temperature, program-erase cycles. -/
structure FlashSense where
  chan : Fin 32
  temp : Nat
  peAvg : Nat
  peMax : Nat
  deriving DecidableEq, Repr

/-- What the part measures of the frame just ended, for a Bell step: the hottest junction in °C and the package
power estimate in W (R565), the cycles each engine spends after the Bell on work of that frame (R28), and what the Steward
estimates of the commands that wait: the cycles each needs of each engine it uses (R26). -/
structure FrameSense where
  junction : Nat
  power : Nat
  overruns : List Cycles
  cost : List Cycles
  /-- partitions whose engines had work in the frame (R568) -/
  busy : List (Fin 4)
  flash : List FlashSense
  deriving DecidableEq, Repr

/-- A scored entry presented to the Sorter (R168): FP32 bits and identity. -/
structure Entry where
  score : BitVec 32
  node : Nat
  gen : Nat
  coll : Nat
  shard : Nat
  payload : Option Nat
  deriving DecidableEq, Repr

/-- What a training attempt of a port finds (Table 14.2, R423, R424). -/
structure TrainResult where
  halfRate : Bool
  width4 : Bool
  partnerPart : Nat
  partnerPort : Nat
  partnerRole : Nat
  partnerNParts : Nat
  delay : Nat
  deriving DecidableEq, Repr

/-- What the start-up of a stack finds (Table 11.5): the trained rate code, none when training fails at every rate;
rows that fail the march test, each with whether it can be spared; the core-die temperature. -/
structure StackResult where
  rate : Option (Fin 3)
  failingRows : List Nat
  unspared : Bool
  temp : Nat
  deriving DecidableEq, Repr

/-- What the discovery of a flash target reads of it, with its profile (R378, R379). -/
structure Target where
  /-- whether a profile of the firmware matches READ ID and the parameter page -/
  profile : Bool
  pageBytes : Nat
  spareBytes : Nat
  planes : Nat
  /-- bits per cell in native mode -/
  bits : Nat
  /-- whether the profile gives an SLC mode -/
  slc : Bool
  /-- the rest of the geometry: pages of a block, blocks of a plane -/
  pages : Nat
  blocks : Nat
  /-- the rates of Table 12.1, in MT/s, that the target and its profile allow -/
  rates : List Nat
  /-- rated program-erase cycles of the profile -/
  peRated : Nat
  deriving DecidableEq, Repr

/-- What the start-up of a flash channel finds (Table 12.3). -/
structure ChannelResult where
  /-- the targets that answer, by chip enable -/
  found : List (Nat × Target)
  /-- the rates of Table 12.1, in MT/s, at which the interface trains -/
  trains : List Nat
  /-- native capacity in MiB (R387) -/
  native : Nat
  /-- hottest target, °C -/
  temp : Nat
  /-- whether the reserved region holds a valid journal -/
  journal : Bool
  deriving DecidableEq, Repr

/-- Results of the built-in tests of SELF_TEST (R530): units that failed, by KIND of Table 17.1 and index, and SRAM errors. -/
structure SelfTestResult where
  failed : List (Nat × Nat)
  portsOff : Nat
  sramErrs : Nat
  fatal : Bool
  deriving DecidableEq, Repr

/-- Transports of the SPDM responder (Table 19.4). -/
inductive Transport where
  | sideband | doe
  deriving DecidableEq, Repr

/-- The levels of a pin. -/
inductive Level where
  | low | high
  deriving DecidableEq, Repr

/-- The link state of the host port (HOST_STATUS.LINK). -/
inductive HostLink where
  | down | training | l0
  deriving DecidableEq, Repr

/-- How a flash codeword's decode ends (R383): the stage that decoded it, or none, with the pages of its block that hold valid data
(unit × 256 + page). -/
inductive Decoded where
  | hard | soft | retry
  | failed (pages : List Nat)
  deriving DecidableEq, Repr

/-- A block that failed an erase or a program (R400): its pages that hold valid data (unit × 256 + page). -/
structure BlockFail where
  erase : Bool
  pages : List Nat
  deriving DecidableEq, Repr

/-- The CXL.mem requests of a host, as Table 16.4 names them. -/
inductive HostReq where
  | memRd (mt : Meta)
  | memWr (mt : Meta) (data : Bytes)
  | clnEvct
  /-- an answer to a snoop: the host's remaining state -/
  | snoopAnswer (mt : Meta)
  deriving DecidableEq, Repr

/-- The engines that can hang or be reset; the ENGINE_KIND codes of Table 18.3. -/
inductive EngineKind where
  | mill | stackEngine | flashChannel | textUnit | dmaChannel | laneGroup | droverInput | sorterInput | stewardCore
  deriving DecidableEq, Repr

/-- Every operation and event of the part. -/
inductive Instr where
  -- The Bell
  /-- BELL_STEP (R21). `recv` is the count of a received Bell, none for a Bell the part generates. -/
  | bellStep (recv : Option Nat) (sense : FrameSense)
  /-- COMMAND_TIMEOUT (R25) -/
  | commandTimeout (p : Fin 4) (ref : Nat)
  /-- BELL_PACKET (R440): the packet, its port, and the time it spends in the part in 1/16 ns -/
  | bellPacket (k : Fin 12) (b : BellInfo) (residence : Nat)
  /-- HOLDOVER (R19) -/
  | holdover
  /-- FRAME_CTL_WRITE (R30) -/
  | frameCtlWrite (w : Issuer) (v : Word)
  /-- FRAME_APPLY_WRITE (R32) -/
  | frameApplyWrite (w : Issuer) (v : Word)
  -- Registers, window and packets
  /-- REGISTER_WRITE (R6, R9, R318, R488): a write of any size to a register page -/
  | registerWrite (w : Issuer) (addr : Nat) (data : Bytes)
  /-- SLOT_WRITE (R599): a write into partition p's command window at a window offset -/
  | slotWrite (w : Issuer) (p : Fin 4) (offset : Nat) (data : Bytes)
  /-- PACKET_ACCEPT (R47): ring 0–31; 32 is the Stewards' own ring of the part (log entry 5) -/
  | packetAccept (p : Fin 4) (ring : Fin 33)
  /-- CONSUMED_COUNT_WRITE (R49) -/
  | consumedCountWrite (p : Fin 4) (ring : Fin 32)
  /-- RING_CFG_WRITE (R52, R53) -/
  | ringCfgWrite (w : Issuer) (p : Fin 4) (ring : Fin 32) (v : Word)
  /-- REPLY_COMPL_TIMEOUT (R59): the request tag of the reply write -/
  | replyComplTimeout (tag : Nat)
  -- Administration
  | nop (p : Fin 4) (ref : Nat)
  | identify (p : Fin 4) (ref : Nat)
  | cancel (p : Fin 4) (ref : Nat)
  -- Collections
  | collDefine (p : Fin 4) (ref : Nat)
  | collMap (p : Fin 4) (ref : Nat)
  | shardSet (p : Fin 4) (ref : Nat)
  | collOpen (p : Fin 4) (ref : Nat)
  | collTune (p : Fin 4) (ref : Nat)
  | collClose (p : Fin 4) (ref : Nat)
  /-- COLL_CLOSE_DONE (R95): the last user of the collection has ended -/
  | collCloseDone (coll : Nat)
  | collRead (p : Fin 4) (ref : Nat)
  -- Search
  | search (p : Fin 4) (ref : Nat)
  | searchX (p : Fin 4) (ref : Nat)
  | searchShard (p : Fin 4) (ref : Nat)
  /-- EXPANSION_RETURN (R103): the expansion of `node` by a walk returns -/
  | expansionReturn (p : Fin 4) (walk : Nat) (node : Nat)
  | walkFrameLimit (p : Fin 4) (walk : Nat)
  /-- BATCH_WINDOW_EXPIRE (R110): the held read of a row or page, by its base address -/
  | batchWindowExpire (p : Fin 4) (unit : Nat)
  /-- REFINE_GATHER (R118): the finishing walks gathered into one Mill operation -/
  | refineGather (p : Fin 4) (walks : List Nat)
  /-- FANOUT_REPLY (R601): a write at an offset of a fan-out record's reply area -/
  | fanoutReply (fromPart : Nat) (fromPartition : Fin 4) (p : Fin 4) (record : Nat) (offset : Nat) (data : Bytes)
  | shareDeadline (p : Fin 4) (ref : Nat)
  | partialOkDeadline (p : Fin 4) (ref : Nat)
  -- Updates
  | insert (p : Fin 4) (ref : Nat)
  | delete (p : Fin 4) (ref : Nat)
  | replace (p : Fin 4) (ref : Nat)
  | updateShard (p : Fin 4) (ref : Nat)
  /-- SHARE_COMMIT (R134): the share's last entry is staged -/
  | shareCommit (p : Fin 4) (ref : Nat) (shard : Nat)
  | compact (p : Fin 4) (ref : Nat)
  | shelfBuild (p : Fin 4) (ref : Nat)
  | shelfCopyDone (p : Fin 4) (coll shard : Nat)
  | shelfReplay (p : Fin 4) (coll shard : Nat) (n : Nat)
  | shelfSwap (p : Fin 4) (ref : Nat)
  | shelfRetire (p : Fin 4) (coll shard : Nat)
  | migrate (p : Fin 4) (ref : Nat)
  | migrateCheck (p : Fin 4) (ref : Nat) (ready : Bool)
  | migrateCutover (p : Fin 4) (ref : Nat) (newHomeUp : Bool)
  | migrateRelease (p : Fin 4) (ref : Nat)
  | nodeRead (p : Fin 4) (ref : Nat)
  | repairCtl (p : Fin 4) (ref : Nat)
  | commitRead (p : Fin 4) (ref : Nat)
  /-- REPAIR_ENTRY (R145): the oldest entry of the partition's repair list -/
  | repairEntry (p : Fin 4)
  /-- REPAIR_SWEEP (R146): RATE records of one shard -/
  | repairSweep (p : Fin 4) (coll shard : Nat)
  /-- FREE_LIST_SCAN (R143): the next n slots' tags of a shard -/
  | freeListScan (p : Fin 4) (coll shard : Nat) (n : Nat)
  -- Selection and numbers
  /-- SORTER_BLOCK (R167): a block of up to 32 entries into a selection -/
  | sorterBlock (p : Fin 4) (sel : Nat) (block : List Entry)
  | numClrCounts (w : Issuer) (p : Fin 4) (v : Word)
  | driftCtlWrite (w : Issuer) (p : Fin 4) (tau : Bool) (v : Word)
  -- Tensor programs
  | progLoad (p : Fin 4) (ref : Nat)
  | progUnload (p : Fin 4) (ref : Nat)
  | progUnloadDone (p : Fin 4) (handle : Nat)
  | progRun (p : Fin 4) (ref : Nat)
  | progInfo (p : Fin 4) (ref : Nat)
  -- VTC operations: the current operation of a run
  | matmul (p : Fin 4) (run : Nat)
  | bmatmul (p : Fin 4) (run : Nat)
  | ewise (p : Fin 4) (run : Nat)
  | norm (p : Fin 4) (run : Nat)
  | softmax (p : Fin 4) (run : Nat)
  | reduce (p : Fin 4) (run : Nat)
  | convert (p : Fin 4) (run : Nat)
  | gather (p : Fin 4) (run : Nat)
  | scatterAdd (p : Fin 4) (run : Nat)
  | hamming (p : Fin 4) (run : Nat)
  | topk (p : Fin 4) (run : Nat)
  | merge (p : Fin 4) (run : Nat)
  | kvAppend (p : Fin 4) (run : Nat)
  | detok (p : Fin 4) (run : Nat)
  | copy (p : Fin 4) (run : Nat)
  | tallyWait (p : Fin 4) (run : Nat)
  | tallyWaitRelease (p : Fin 4) (run : Nat)
  | tallyAdd (p : Fin 4) (run : Nat)
  /-- PREFETCH_STREAM (R270): move up to n bytes of a stream into its scratchpad ring, or consume when `feed` -/
  | prefetchStream (p : Fin 4) (stream : Nat) (n : Nat) (feed : Bool)
  -- Text
  | vocabLoad (p : Fin 4) (ref : Nat)
  | streamOpen (p : Fin 4) (ref : Nat)
  | textFeed (p : Fin 4) (ref : Nat)
  | streamRead (p : Fin 4) (ref : Nat)
  | streamClose (p : Fin 4) (ref : Nat)
  | termLookup (p : Fin 4) (ref : Nat)
  | ngramHash (p : Fin 4) (ref : Nat)
  -- Memory and movement
  | memCopy (p : Fin 4) (ref : Nat)
  | tableDefine (p : Fin 4) (ref : Nat)
  | tableDrop (p : Fin 4) (ref : Nat)
  | tableDropDone (p : Fin 4) (table : Nat)
  | rowLookup (p : Fin 4) (ref : Nat)
  | hotSet (p : Fin 4) (ref : Nat)
  | rowFwd (p : Fin 4) (ref : Nat)
  | rowAdd (p : Fin 4) (ref : Nat)
  /-- HOT_REFRESH (R338): at a refresh Bell a copy of the table's hot list begins; `done` ends the copy in progress -/
  | hotRefresh (p : Fin 4) (table : Nat) (done : Bool)
  -- Stack engines
  /-- STACK_COMPARE (R358): the pending comparison request of a walk's expansion on a stack -/
  | stackCompare (k : Fin 24) (p : Fin 4) (walk : Nat) (node : Nat)
  /-- STACK_GATHER (Table 11.3): rows of `len` bytes at the addresses, sent to a local destination -/
  | stackGather (k : Fin 24) (w : Issuer) (rows : List Nat) (len : Nat) (dst : Nat)
  /-- STACK_ADD (R334, R366): FP32 or INT32 adds to consecutive elements at an address -/
  | stackAdd (k : Fin 24) (w : Issuer) (addr : Nat) (fp : Bool) (vals : List (BitVec 32))
  /-- STACK_WRITE (R366) -/
  | stackWrite (k : Fin 24) (w : Issuer) (addr : Nat) (data : Bytes)
  /-- STACK_SCRUB (R369): rows with correctable and with uncorrectable errors found, by line address -/
  | stackScrub (k : Fin 24) (correctable uncorrectable : List Nat)
  /-- STACK_SCAN (Table 11.3): scan the live Utertil codes of a partition -/
  | stackScan (k : Fin 24) (p : Fin 4) (ref : Nat)
  /-- STACK_MOVE (R375): n bytes from one Loft address to another of the same partition -/
  | stackMove (k : Fin 24) (w : Issuer) (src dst n : Nat)
  /-- STACK_ZERO (Table 11.3): whole 1 KiB rows from an address -/
  | stackZero (k : Fin 24) (addr rows : Nat)
  /-- BANK_REFRESH (R368): the temperature of the hottest core die -/
  | bankRefresh (k : Fin 24) (temp : Nat)
  /-- ROW_SPARE (R370): a row of a bank -/
  | rowSpare (k : Fin 24) (row : Nat)
  | stackStartup (k : Fin 24) (r : StackResult)
  | stackSelfRefreshExit (k : Fin 24) (rate : Fin 3)
  | stkFill (w : Issuer) (k : Fin 24) (v : Word)
  | stkTest (w : Issuer) (k : Fin 24) (v : Word)
  | stkFillDone (k : Fin 24) (failed : Bool)
  -- The Cellar
  | channelStartup (c : Fin 32) (r : ChannelResult)
  | flashIngest (p : Fin 4) (ref : Nat)
  | flashRelease (p : Fin 4) (ref : Nat)
  | ingestCommit (p : Fin 4) (ref : Nat)
  | flashInfo (p : Fin 4) (ref : Nat)
  | healthRead (p : Fin 4) (ref : Nat)
  | flashFormat (p : Fin 4) (ref : Nat)
  /-- FOLD (R394): a fine unit of a channel folded into a coarse one -/
  | fold (c : Fin 32) (unit : Nat)
  | garbageCollection (c : Fin 32) (unit : Nat) (page : Nat)
  /-- FLASH_SCRUB (R399): pages found to need stage 2 or 3 -/
  | flashScrub (c : Fin 32) (weak : List Nat)
  /-- FLASH_READ_DONE (R383): the codeword at a window address and how its decode ends -/
  | flashReadDone (c : Fin 32) (reader : Agent) (addr : Nat) (d : Decoded)
  | channelSieveCompare (c : Fin 32) (p : Fin 4) (walk : Nat) (node : Nat)
  /-- BLOCK_RETIRE (R400): how the block failed, its capacity and the spares left -/
  | blockRetire (c : Fin 32) (f : BlockFail) (lostMib : Nat) (spareLeft : Nat)
  | healthLogCopy (c : Fin 32)
  | zqCalibration (c : Fin 32)
  -- DMA
  | dmaStart (w : Issuer) (p : Fin 4) (j : Fin 64) (v : Word)
  | dmaAbort (w : Issuer) (p : Fin 4) (j : Fin 64) (v : Word)
  /-- DMA_COMPLETE (R413, R414): the channel's reads have returned and writes have been issued; `hostData` is the
  data read from a host or a remote part, when the source is not local -/
  | dmaComplete (p : Fin 4) (j : Fin 64) (remoteData : Bytes)
  /-- DMA_FAIL (R416): a remote or host access fails with a status after `moved` bytes -/
  | dmaFail (p : Fin 4) (j : Fin 64) (status : Nat) (moved : Nat)
  -- Alnos
  | portTrain (k : Fin 12) (r : Option TrainResult)
  | linkLoss (k : Fin 12)
  /-- FLIT_RX (R426): CRC good, SEQ, and the packets that complete in the flit -/
  | flitRx (k : Fin 12) (crcOk : Bool) (seq : Nat) (packets : List Packet)
  | replayRequest (k : Fin 12) (lastGood : Nat)
  | flitSend (k : Fin 12)
  | memRd (k : Fin 12) (pkt : Packet)
  | memWr (k : Fin 12) (pkt : Packet)
  | compl (k : Fin 12) (pkt : Packet)
  | cmd (k : Fin 12) (pkt : Packet)
  | credit (k : Fin 12) (pkt : Packet)
  | notice (k : Fin 12) (pkt : Packet)
  | creditReturnUnused (peer : Nat) (request : Bool) (cls : Fin 4) (partition : Fin 4)
  | hostEnWrite (w : Issuer) (v : Word)
  /-- HOST_WINDOW_WRITE (R444): a host write to BAR0 (`bar2` false) or a read of `len` bytes of BAR2 -/
  | hostWindowWrite (ld : Fin 16) (secure : Bool) (bar2 : Bool) (offset : Nat) (len : Nat) (data : Bytes)
  /-- REQUEST_REISSUE (R456) -/
  | requestReissue (tag : Nat)
  -- Coherence
  | hRd (k : Fin 12) (pkt : Packet)
  | hWr (k : Fin 12) (pkt : Packet)
  | hCln (k : Fin 12) (pkt : Packet)
  | hData (k : Fin 12) (pkt : Packet)
  | hCmp (k : Fin 12) (pkt : Packet)
  | biSnp (k : Fin 12) (pkt : Packet)
  | biRsp (k : Fin 12) (pkt : Packet)
  | fail (k : Fin 12) (pkt : Packet)
  /-- BI_TIMEOUT (R470): the snoop of a line to an agent -/
  | biTimeout (line : Nat) (agent : Nat)
  | domDefine (p : Fin 4) (ref : Nat)
  | domFail (p : Fin 4) (ref : Nat)
  | domArm (p : Fin 4) (ref : Nat)
  | domArmComplete (dom : Nat)
  | domRead (p : Fin 4) (ref : Nat)
  | regionDefine (p : Fin 4) (ref : Nat)
  | regionFree (p : Fin 4) (ref : Nat)
  | extAdd (p : Fin 4) (ref : Nat)
  /-- DCD_ADD_RESPONSE: the host of an LD accepts or declines an offered extent -/
  | dcdAddResponse (ld : Fin 16) (ext : Nat) (accept : Bool)
  | extRelease (p : Fin 4) (ref : Nat)
  | hostCapacityRelease (ld : Fin 16) (ext : Nat)
  | extentDrainEnd (ext : Nat)
  | revokeWindowEnd (ext : Nat)
  | extRead (p : Fin 4) (ref : Nat)
  -- Binding and map
  | bind (p : Fin 4) (ref : Nat)
  | bindDrainEnd (p : Fin 4) (ref : Nat)
  /-- UNIT_SCRUB (R492): KIND and index of Table 17.1 -/
  | unitScrub (kind : Nat) (index : Nat)
  | bindEpoch (p : Fin 4) (ref : Nat)
  | bindRead (p : Fin 4) (ref : Nat)
  | ledgerRead (p : Fin 4) (ref : Nat)
  | mapSettle (p : Fin 4) (ref : Nat)
  | prep (k : Fin 12) (pkt : Packet)
  | ack (k : Fin 12) (pkt : Packet)
  | commit (k : Fin 12) (pkt : Packet)
  | defer (k : Fin 12) (pkt : Packet)
  | abort (k : Fin 12) (pkt : Packet)
  | mapUnsettled (keeper : Nat) (seq : Nat)
  -- Faults and resets
  | faultRead (p : Fin 4) (ref : Nat)
  | reset (p : Fin 4) (ref : Nat)
  | engineHang (kind : EngineKind) (index : Nat) (op : Nat) (cycles : Nat)
  | stewardWatchdog (core : Fin 8) (partLevel : Bool) (missed : Nat)
  /-- RESET_ESCALATION (R506): a reset of a level (1 context, 2 engine, 3 partition) has not completed in time -/
  | resetEscalation (level : Nat) (p : Fin 4) (kind : EngineKind) (index : Nat) (began : Nat)
  | firmwareReadyTimeout
  | bootTimeout
  | dumpMirror (p : Fin 4) (done : Bool)
  | dumpRead (p : Fin 4) (ref : Nat)
  | dumpClear (p : Fin 4) (ref : Nat)
  | selfTest (p : Fin 4) (ref : Nat) (r : SelfTestResult)
  | daybookAppend (p : Fin 4) (ref : Nat)
  | daybookProgram (p : Fin 4)
  | daybookInfo (p : Fin 4) (ref : Nat)
  | rejoin (p : Fin 4) (ref : Nat)
  -- Boot and security
  | bootRom
  | bootLoader
  | firmwareStart
  | firmwareReady
  | fwStage (w : Issuer) (v : Word)
  | stagingDone
  | activate (w : Issuer) (v : Word)
  | dbgTokenArm (w : Issuer) (v : Word)
  | getVersion (t : Transport) (msg : Bytes)
  | getCapabilities (t : Transport) (msg : Bytes)
  | negotiateAlgorithms (t : Transport) (msg : Bytes)
  | getDigests (t : Transport) (msg : Bytes)
  | getCertificate (t : Transport) (msg : Bytes)
  | challenge (t : Transport) (msg : Bytes)
  | getMeasurements (t : Transport) (msg : Bytes)
  | keyExchange (t : Transport) (msg : Bytes)
  | finish (t : Transport) (session : Nat) (msg : Bytes)
  | keyUpdate (t : Transport) (session : Nat) (msg : Bytes)
  | heartbeat (t : Transport) (session : Nat) (msg : Bytes)
  | endSession (t : Transport) (session : Nat) (msg : Bytes)
  /-- VENDOR_DEFINED_REQUEST: IDE_KM or CXL IDE key programming of a stream (0 link, 1–4 selective) -/
  | vendorDefinedRequest (t : Transport) (session : Nat) (stream : Fin 5) (key : Bytes) (go : Bool)
  | chunkSend (t : Transport) (handle : Nat) (seqNo : Nat) (last : Bool) (chunk : Bytes)
  | chunkGet (t : Transport) (handle : Nat) (seqNo : Nat)
  | spdmUnsupportedRequest (t : Transport) (code : Nat)
  | ideIntegrityFail (stream : Fin 5)
  -- Pins, power and sideband
  | pwrGoodRise (coldRstHigh : Bool)
  | pwrGoodFall
  /-- COLD_RST_N (R561): the pin was low for a time in ns and is released; `both` when WARM_RST_N was low too -/
  | coldRstN (lowNs : Nat) (both : Bool)
  | warmRstN (lowNs : Nat) (both : Bool)
  | thermalTrip (junction : Nat)
  | stackHotLimit (k : Fin 24) (temp : Nat)
  | enterRest
  | enterDeep
  | deepDrainEnd
  | enterDark
  | exitToRun
  | deepExitComplete
  | bellOutMark
  /-- BELL_IN_EDGE (R574): the 64-bit word that follows the edge; none when no edge came in time -/
  | bellInEdge (word : Option Word)
  | mctpControl (cmd : Nat) (arg : Nat)
  | sbInfo (tag : Nat)
  | sbVid (tag : Nat)
  | sbCmd (tag : Nat) (p : Fin 4) (packet : Bytes)
  | sbCycleAck (tag : Nat) (accept : Bool)
  | sbCycleRetry
  | sbImageWrite (tag : Nat) (slot : Nat) (offset : Nat) (data : Bytes)
  | sbImageDone (tag : Nat) (slot : Nat)
  | sbPstate (tag : Nat) (target : Nat)
  -- Utertil
  | utEnable (w : Issuer) (p : Fin 4) (v : Word)
  | utTailWrite (w : Issuer) (p : Fin 4) (v : Word)
  | utPacketTake (p : Fin 4)
  | utSearch (p : Fin 4) (ref : Nat)
  | utInsert (p : Fin 4) (ref : Nat)
  | utDelete (p : Fin 4) (ref : Nat)
  | utNop (p : Fin 4) (ref : Nat)
  | utPad (p : Fin 4)
  | utClear (p : Fin 4) (ref : Nat)
  -- Host link, on-chip errors and the remaining pins
  | hostLinkChange (link : HostLink) (speed : Fin 3) (width8 : Bool)
  | ldActiveChange (ld : Fin 16) (enabled : Bool)
  | hostCxlMemRequest (ld : Fin 16) (secure : Bool) (req : HostReq) (dpa : Nat)
  | hostPerstN (level : Level)
  /-- SRAM_UNCORRECTABLE (Table 18.4, R503): macro, offset, the engine it belongs to, or partition control state -/
  | sramUncorrectable (p : Fin 4) (macroNo : Nat) (offset : Nat) (engine : Option (EngineKind × Nat))
  | flashTargetTimeout (c : Fin 32) (target : Fin 8) (recovered : Bool)
  | junctionWarn (junction : Nat) (belowForFrame : Bool)
  | vddAuxRise
  | debugPortAccess (ir : Nat) (data : Bytes)
  | i3cAddressAssignment (addr : Nat)
  deriving DecidableEq, Repr

end Sys2Proof
end

