-- ==== Sys2Proof/Decode.lean ====
section
/-!
DEFINITION. The reading of a word as a command. No row of the spec's table of operations and events gives a bit, so no word
spells a command (log entry 3).
-/

namespace Sys2Proof

/-- The command a word of `nbits` bits spells by the table's bits: none, since the table gives no row any bit. -/
def decodeTableWord (_nbits _w : Nat) : Option Instr := none

end Sys2Proof
end

