-- ==== Sys2Proof/Config.lean ====
section
/-!
DEFINITION. What the spec leaves open: free values, as constants with no body. Nothing in the package can evaluate one or
prove a value of it, so a statement holds whatever they are.
-/

namespace Sys2Proof.Config

/-- A fresh value the spec does not state: the n-th one a run uses (the model's counter `Sys.free` gives n). -/
opaque free : Nat → Word

/-- The hash of R422 over a bundle's UP ports: source part, destination part, class. The spec gives no formula. -/
opaque portHash : Nat → Nat → Nat → Nat

/-- The sign of a NaN that arithmetic produces from two operand codes (R198: unspecified). -/
opaque nanSign : Nat → Nat → Bool

/-- An unspecified choice among n > 1 things: the choice of a number of a run, below n after reduction. -/
opaque pick : Nat → Nat → Nat

/-- The free FP32 code of an approximated function's result (R180, R282), by function (0 for the Sorter's exponential, else SUB
of Table 8.11) and operand codes, and whether a result that may reach the end of FP32's range does. The machine keeps the code
only where it lies within the spec's bound. -/
opaque approx : Nat → List Nat → Nat
opaque approxTop : Nat → List Nat → Bool

/-- MASS_REF in EXP mode of a row without a finite score (R178 names none). -/
opaque massRefEmpty : Nat

/-- The FP32 code of the small term a NORM adds to the mean square (the spec gives none). -/
opaque normEps : Nat

/-- STATE of EXT_READ by a state's place in Table 16.6, which gives no code. -/
opaque extStateCode : Nat → Nat

/-- The class of a consumed-count write to another part (R49 gives none). -/
opaque creditClass : Nat

/-- Whether the profile of a target allows a program or erase to be suspended: channel, target (R397). -/
opaque maySuspend : Nat → Nat → Bool

/-- Which of the extents that other parts home for a logical device holds a device physical address: device, address. -/
opaque extAt : Nat → Nat → Nat

/-- The line of a device physical address in an extent that another part homes: keeper, extent ID, address (the messages of
R495 carry neither OFFSET nor DPA). -/
opaque extLine : Nat → Nat → Nat → Nat

/-! The standards that chapters 18 to 20 name and do not give, and the part's own secrets. -/

/-- SM3 (GB/T 32905), HMAC-SM3 under the part's control-record key, and whether an SM2 signature (GB/T 32918, with the identifier
of R535) verifies: public key, bytes signed, signature. -/
opaque sm3 : List (BitVec 8) → List (BitVec 8)
opaque hmac : List (BitVec 8) → List (BitVec 8)
opaque sm2Verify : List (BitVec 8) → List (BitVec 8) → List (BitVec 8) → Bool

/-- The key derivation function of GB/T 32918 with a label, the public key of a private key, a signature by a private key, and the
device secret and the mask ROM. -/
opaque kdf : List (BitVec 8) → List (BitVec 8) → List (BitVec 8)
opaque sm2Public : List (BitVec 8) → List (BitVec 8)
opaque sm2Sign : List (BitVec 8) → List (BitVec 8) → List (BitVec 8)
opaque deviceSecret : List (BitVec 8)
opaque maskRom : List (BitVec 8)

/-- The DER of the alias certificate (R545): issuer's private key, subject's public key, the measurements. -/
opaque aliasCertificate : List (BitVec 8) → List (BitVec 8) → List (List (BitVec 8)) → List (BitVec 8)

/-- Whether the offers of a NEGOTIATE_ALGORITHMS contain one of Table 19.5's algorithms of every kind, whether a message's version
is 1.3, and the fields of DSP0274 requests that a response depends on: certificate portion (offset and length), measurement
index (none for all), whether a signature is asked for. -/
opaque spdmOffersOk : List (BitVec 8) → Bool
opaque spdmPortion : List (BitVec 8) → Nat × Nat
opaque spdmMeasIndex : List (BitVec 8) → Option Nat
opaque spdmSigned : List (BitVec 8) → Bool

/-- The IANA enterprise number of the vendor-defined messages (R577). -/
opaque enterprise : Nat

/-- The IEEE 1149.1 identification code, and what an open debug port answers to an instruction and data. -/
opaque idcode : List (BitVec 8)
opaque debugAnswer : Nat → List (BitVec 8) → List (BitVec 8)

end Sys2Proof.Config
end

