-- ==== Sys2Proof/Machine/Bits.lean ====
section
/-!
DEFINITION. Bit fields of registers, byte order of multi-byte fields (R8), saturating counts.
-/

namespace Sys2Proof.Machine

/-- Field [hi:lo] of a register (the notation of chapter 0). -/
def fld (w : Word) (hi lo : Nat) : Nat := w.toNat / 2 ^ lo % 2 ^ (hi - lo + 1)

/-- One bit of a register. -/
def bit (w : Word) (n : Nat) : Bool := w.getLsbD n

/-- The mask of [hi:lo]. -/
def maskOf (hi lo : Nat) : Word := BitVec.ofNat 64 ((2 ^ (hi - lo + 1) - 1) * 2 ^ lo)

/-- The mask of several fields. -/
def masks : List (Nat × Nat) → Word
  | [] => 0
  | (hi, lo) :: r => maskOf hi lo ||| masks r

/-- A register with [hi:lo] set to a value (its low bits). -/
def setFld (w : Word) (hi lo : Nat) (v : Nat) : Word :=
  (w &&& ~~~(maskOf hi lo)) ||| (BitVec.ofNat 64 (v * 2 ^ lo) &&& maskOf hi lo)

/-- A register with one bit set to a value. -/
def setBit (w : Word) (n : Nat) (b : Bool) : Word := setFld w n n b.toNat

/-- A count that saturates at its field's largest value: `width` bits. -/
def satAdd (width a n : Nat) : Nat := min (a + n) (2 ^ width - 1)

/-- Little-endian bytes to a number (R8). -/
def leNat : Bytes → Nat
  | [] => 0
  | b :: r => b.toNat + 256 * leNat r

/-- A number as `n` little-endian bytes (R8). -/
def natLE : Nat → Nat → Bytes
  | 0, _ => []
  | n + 1, v => BitVec.ofNat 8 v :: natLE n (v / 256)

/-- Big-endian bytes to a number: Utertil streams (R8). -/
def beNat (bs : Bytes) : Nat := bs.foldl (fun a b => a * 256 + b.toNat) 0

/-- A number as `n` big-endian bytes: Utertil streams (R8). -/
def natBE (n v : Nat) : Bytes := (natLE n v).reverse

/-- Little-endian field of `n` bytes at an offset of a byte string; bytes past its end read 0. -/
def leAt (bs : Bytes) (off n : Nat) : Nat := leNat ((bs.drop off).take n)

/-- One byte of a byte string. -/
def byteAt (bs : Bytes) (off : Nat) : Nat := leAt bs off 1

/-- A byte string cut or padded with zeros to `n` bytes. -/
def padTo (n : Nat) (bs : Bytes) : Bytes := (bs ++ List.replicate (n - bs.length) 0).take n

/-- Zero bytes. -/
def zeros (n : Nat) : Bytes := List.replicate n 0

/-- Bit `n` of a number. -/
def nbit (v n : Nat) : Bool := v.testBit n

/-- Bits [hi:lo] of a number. -/
def nfld (v hi lo : Nat) : Nat := v / 2 ^ lo % 2 ^ (hi - lo + 1)

/-- Division rounding up. -/
def ceilDiv (a b : Nat) : Nat := (a + b - 1) / b

/-- `a` rounded up to a multiple of `b`. -/
def roundUp (a b : Nat) : Nat := ceilDiv a b * b

/-- The values 0 to n − 1 of a small index type. -/
def allFin (n : Nat) : List (Fin n) := List.finRange n

/-- The number of 1 bits among the low `n` bits. -/
def onesIn (v : Nat) : Nat → Nat
  | 0 => 0
  | n + 1 => (v % 2) + onesIn (v / 2) n

/-- A fixed-size table with one entry changed. -/
def updAt {α : Type} {n : Nat} (v : Vector α n) (i : Fin n) (f : α → α) : Vector α n := v.set i (f (v.get i))

/-- A tail-free index of a list: each element with its position. -/
def indexed {α : Type} (l : List α) : List (Nat × α) := (List.range l.length).zip l

end Sys2Proof.Machine
end

