-- ==== Sys2Proof/Machine/Assoc.lean ====
section
/-!
DEFINITION. Sparse tables: key and value pairs in one canonical form (keys strictly rising), so that equal tables are
equal data; the part's memories are such tables of bytes.
-/

namespace Sys2Proof.Machine

/-- A sparse table by number. -/
abbrev Assoc (α : Type) := List (Nat × α)

variable {α : Type}

/-- The entry at a key. -/
def aget : Assoc α → Nat → Option α
  | [], _ => none
  | (k, v) :: r, i => if k = i then some v else aget r i

/-- A key's entry set, keys kept rising. -/
def aset : Assoc α → Nat → α → Assoc α
  | [], i, v => [(i, v)]
  | (k, w) :: r, i, v => if i < k then (i, v) :: (k, w) :: r else if i = k then (i, v) :: r else (k, w) :: aset r i v

/-- A key's entry removed. -/
def adel (m : Assoc α) (i : Nat) : Assoc α := m.filter (fun c => c.1 != i)

/-- A key's entry changed, where it has one. -/
def amod (m : Assoc α) (i : Nat) (f : α → α) : Assoc α := m.map (fun c => if c.1 = i then (c.1, f c.2) else c)

/-- Entries that satisfy a test. -/
def akeep (m : Assoc α) (t : Nat → α → Bool) : Assoc α := m.filter (fun c => t c.1 c.2)

/-- Whether a key has an entry. -/
def ahas (m : Assoc α) (i : Nat) : Bool := (aget m i).isSome

/-- The smallest number from `i` up, within `n` tries, with no entry. -/
def afree (m : Assoc α) : Nat → Nat → Option Nat
  | _, 0 => none
  | i, n + 1 => if ahas m i then afree m (i + 1) n else some i

/-- Keys strictly rising. -/
abbrev Rising (m : Assoc α) : Prop := (m.map Prod.fst).Pairwise (· < ·)

theorem aset_mem {m : Assoc α} {i : Nat} {v : α} {c : Nat × α} (h : c ∈ aset m i v) : c = (i, v) ∨ c ∈ m := by
  induction m with
  | nil => simp [aset] at h; exact .inl h
  | cons d r ih =>
    obtain ⟨k, w⟩ := d
    simp only [aset] at h
    split at h
    · simpa using h
    · split at h
      · simp at h; rcases h with h | h
        · exact .inl h
        · exact .inr (by simp [h])
      · simp at h; rcases h with h | h
        · exact .inr (by simp [h])
        · rcases ih h with h | h
          · exact .inl h
          · exact .inr (by simp [h])

theorem aset_rising {m : Assoc α} (h : Rising m) (i : Nat) (v : α) : Rising (aset m i v) := by
  induction m with
  | nil => simp [Rising, aset]
  | cons d r ih =>
    obtain ⟨k, w⟩ := d
    simp only [Rising, List.map_cons, List.pairwise_cons, List.mem_map] at h
    obtain ⟨hk, hr⟩ := h
    simp only [aset]
    split
    · rename_i hik
      simp only [Rising, List.map_cons, List.pairwise_cons, List.mem_cons, List.mem_map]
      refine ⟨?_, ?_, hr⟩
      · rintro a (rfl | ⟨c, hc, rfl⟩)
        · exact hik
        · exact Nat.lt_trans hik (hk _ ⟨c, hc, rfl⟩)
      · rintro a ⟨c, hc, rfl⟩; exact hk _ ⟨c, hc, rfl⟩
    · split
      · rename_i hik
        subst hik
        simp only [Rising, List.map_cons, List.pairwise_cons, List.mem_map]
        exact ⟨fun a ha => hk a ha, hr⟩
      · rename_i h1 h2
        simp only [Rising, List.map_cons, List.pairwise_cons, List.mem_map]
        refine ⟨?_, ih hr⟩
        rintro a ⟨c, hc, rfl⟩
        rcases aset_mem hc with hc | hc
        · subst hc; simp; omega
        · exact hk _ ⟨c, hc, rfl⟩

theorem filter_rising {m : Assoc α} (h : Rising m) (t : Nat × α → Bool) : Rising (m.filter t) := by
  unfold Rising at *
  exact List.Pairwise.sublist (List.Sublist.map _ List.filter_sublist) h

theorem adel_rising {m : Assoc α} (h : Rising m) (i : Nat) : Rising (adel m i) := filter_rising h _

theorem aget_aset_same (m : Assoc α) (i : Nat) (v : α) : aget (aset m i v) i = some v := by
  induction m with
  | nil => simp [aset, aget]
  | cons d r ih =>
    obtain ⟨k, w⟩ := d
    simp only [aset]
    split
    · simp [aget]
    · split
      · simp [aget]
      · rename_i h1 h2
        have : k ≠ i := by omega
        simp [aget, this, ih]

theorem aget_aset_other (m : Assoc α) {i j : Nat} (v : α) (h : j ≠ i) : aget (aset m i v) j = aget m j := by
  induction m with
  | nil => simp [aset, aget, Ne.symm h]
  | cons d r ih =>
    obtain ⟨k, w⟩ := d
    simp only [aset]
    split
    · simp [aget, Ne.symm h]
    · split
      · rename_i h1 h2; subst h2; simp [aget, Ne.symm h]
      · simp only [aget, ih]

theorem aget_adel_same (m : Assoc α) (i : Nat) : aget (adel m i) i = none := by
  induction m with
  | nil => rfl
  | cons d r ih =>
    obtain ⟨k, w⟩ := d
    unfold adel at *
    by_cases hk : k = i
    · simp [hk, ih]
    · simp [hk, aget, ih]

theorem aget_adel_other (m : Assoc α) {i j : Nat} (h : j ≠ i) : aget (adel m i) j = aget m j := by
  induction m with
  | nil => rfl
  | cons d r ih =>
    obtain ⟨k, w⟩ := d
    unfold adel at *
    by_cases hk : k = i
    · subst hk; simp [ih, aget, Ne.symm h]
    · simp [hk, aget, ih]

/-! ### Byte memories: an unlisted address reads 0 -/

/-- A memory of bytes: addresses strictly rising, no listed byte 0. -/
abbrev Mem := Assoc Byte

/-- The byte at an address; an address with no entry reads 0 (log entry 2). -/
def Mem.read (m : Mem) (a : Nat) : Byte := (aget m a).getD 0

/-- A byte written. -/
def Mem.write (m : Mem) (a : Nat) (b : Byte) : Mem := if b = 0 then adel m a else aset m a b

/-- Bytes from an address up. -/
def Mem.readBytes (m : Mem) (a n : Nat) : Bytes := (List.range n).map (fun i => Mem.read m (a + i))

/-- Bytes written from an address up. -/
def Mem.writeBytes : Mem → Nat → Bytes → Mem
  | m, _, [] => m
  | m, a, b :: r => Mem.writeBytes (Mem.write m a b) (a + 1) r

/-- Zeros written over [a, a + n). -/
def Mem.zero (m : Mem) (a n : Nat) : Mem := m.filter (fun c => !(decide (a ≤ c.1) && decide (c.1 < a + n)))

/-- The listed bytes of [a, a + n), by distance from `a`. -/
def Mem.slice (m : Mem) (a n : Nat) : Mem :=
  (m.filter (fun c => decide (a ≤ c.1) && decide (c.1 < a + n))).map (fun c => (c.1 - a, c.2))

/-- Cells written at `a` plus their own address. -/
def Mem.put (m : Mem) (a : Nat) (cells : Mem) : Mem := cells.foldl (fun m c => Mem.write m (a + c.1) c.2) m

/-- [dst, dst + n) of `m` made equal to [src, src + n) of `from`. -/
def Mem.copyFrom (m : Mem) (dst : Nat) (frm : Mem) (src n : Nat) : Mem := Mem.put (Mem.zero m dst n) dst (Mem.slice frm src n)

/-- The canonical form of a memory. -/
abbrev Memory.wf (m : Mem) : Prop := Rising m ∧ ∀ c ∈ m, c.2 ≠ 0

theorem Mem.write_wf {m : Mem} (h : Memory.wf m) (a : Nat) (b : Byte) : Memory.wf (Mem.write m a b) := by
  unfold Mem.write
  split
  · exact ⟨adel_rising h.1 _, fun c hc => h.2 c ((List.mem_filter.mp hc).1)⟩
  · rename_i hb
    refine ⟨aset_rising h.1 _ _, fun c hc => ?_⟩
    rcases aset_mem hc with rfl | hc
    · exact hb
    · exact h.2 c hc

theorem Mem.writeBytes_wf {m : Mem} (h : Memory.wf m) (a : Nat) (bs : Bytes) : Memory.wf (Mem.writeBytes m a bs) := by
  induction bs generalizing m a with
  | nil => exact h
  | cons b r ih => exact ih (Mem.write_wf h a b) (a + 1)

theorem Mem.zero_wf {m : Mem} (h : Memory.wf m) (a n : Nat) : Memory.wf (Mem.zero m a n) :=
  ⟨filter_rising h.1 _, fun c hc => h.2 c ((List.mem_filter.mp hc).1)⟩

theorem Mem.put_wf {m : Mem} (h : Memory.wf m) (a : Nat) (cells : Mem) : Memory.wf (Mem.put m a cells) := by
  unfold Mem.put
  induction cells generalizing m with
  | nil => exact h
  | cons c r ih => exact ih (Mem.write_wf h _ _)

theorem Mem.copyFrom_wf {m : Mem} (h : Memory.wf m) (dst : Nat) (frm : Mem) (src n : Nat) :
    Memory.wf (Mem.copyFrom m dst frm src n) := Mem.put_wf (Mem.zero_wf h dst n) dst _

theorem Mem.read_write_same (m : Mem) (a : Nat) (b : Byte) : Mem.read (Mem.write m a b) a = b := by
  unfold Mem.read Mem.write
  split
  · rename_i hb; simp [aget_adel_same, hb]
  · simp [aget_aset_same]

theorem Mem.read_write_other (m : Mem) {a x : Nat} (b : Byte) (h : x ≠ a) : Mem.read (Mem.write m a b) x = Mem.read m x := by
  unfold Mem.read Mem.write
  split
  · rw [aget_adel_other m h]
  · rw [aget_aset_other m b h]

theorem Mem.read_writeBytes_outside (m : Mem) (a x : Nat) (bs : Bytes) (h : x < a ∨ a + bs.length ≤ x) :
    Mem.read (Mem.writeBytes m a bs) x = Mem.read m x := by
  induction bs generalizing m a with
  | nil => rfl
  | cons b r ih =>
    simp only [List.length_cons] at h
    rw [Mem.writeBytes, ih _ _ (by omega), Mem.read_write_other m b (by omega)]

end Sys2Proof.Machine
end

