-- ==== Sys2Proof/Machine/Regs.lean ====
section
/-!
DEFINITION. The registers of the control space: every register table of the spec as one row of `R.desc` (page, offset,
stride, count, and which bits are RW, W1C, RO, with the reset value), and the register file that holds them.
-/

namespace Sys2Proof.Machine

/-- Every register of the control space, by its name in the spec. -/
inductive R where
  -- page 0x01 (R29)
  | frameCtl | frameApply | frameCount | frameStatus | frameOverrun
  -- page 0x02 (R51)
  | ringCfg | ringCreditAddr | ringCreditDest | ringConsumed | ringStatus | ringErrcount
  -- page 0x03 (R210)
  | numFlags | numCount0 | numCount1 | numCtl
  -- page 0x04 (R246)
  | driftCtl | driftTau | driftStatus | driftCount | driftTotal
  -- pages 0x05 and 0x06 (R285, R286)
  | millCtl | millFront | millStall | batchThresh
  -- page 0x07 (R309)
  | textCount0 | textCount1 | textVocab
  -- page 0x08 (R354)
  | memErrStatus | memErrAddr | memErrCount | memHot
  -- page 0x09 (R377)
  | stkCtl | stkStatus | stkEcc | stkWork
  -- page 0x0A (R407)
  | flCtl | flStatus | flErr | flSlc
  -- page 0x0B (R409)
  | dmaSrc | dmaDst | dmaParts | dmaCount | dmaCtl | dmaStatus | dmaDesc | dmaMoved
  -- page 0x0C (R447)
  | fabId | fabStatus | portCfg | portStatus | portErr | portDelay | routeIdx | routeData | peerIdx | peerData0 | peerData1
  | bellStatus | hostCfg | hostStatus
  -- page 0x0D (R458)
  | tcStatus | portShape1 | portShape2 | portShape3 | portWrr
  -- page 0x0E (R458)
  | polStatus | partShape1 | partShape2 | partShape3 | meterCfg | meterC | meterE | meterCount
  -- page 0x0F (R482)
  | cohCtl | cohStatus | cohCount0 | cohCount1
  -- pages 0x10 to 0x12 (R502)
  | bindStatus | bindCount | mapPending | ledgerSnap | ledgerCtl | ledgerWin | fuseCfg | fuseSku | fuseDigest
  -- pages 0x13 and 0x14 (R533)
  | faultCtl | faultStatus | faultCount | daybookStatus | crierDest | crierRing | crierCfg | crierCount
  -- page 0x15 (R555)
  | secStatus | secCtl | fwStage | fwCtl | dbgToken | dbgNonce
  -- page 0x16 (R582)
  | pwrCtl | pkgStatus | pwrCap | thermCfg | bellpinCfg | bellpinStatus
  -- page 0x17 (R598)
  | utCtl | utBase | utStatus | utCount
  -- page 0x18 (R351)
  | tally
  deriving DecidableEq, Repr

/-- A register's row: its page, the offset of its first copy, the stride and number of its copies, whether it is
part-level (one for all partitions' copies of the control space), its RW, W1C and RO bits and its reset value. Bits in
none of the three masks are reserved or write-only: they read 0 (R7, R9). -/
structure RegDesc where
  page : Nat
  base : Nat
  stride : Nat
  count : Nat
  part : Bool
  rw : Word
  w1c : Word
  ro : Word
  reset : Word
  deriving DecidableEq, Repr

/-- One copy of a register per partition. -/
def perP (page base : Nat) (rw w1c ro : List (Nat × Nat)) (reset : Word) (stride : Nat := 8) (count : Nat := 1) : RegDesc :=
  ⟨page, base, stride, count, false, masks rw, masks w1c, masks ro, reset⟩

/-- A register of a part-level block. -/
def partL (page base : Nat) (rw w1c ro : List (Nat × Nat)) (reset : Word) (stride : Nat := 8) (count : Nat := 1) : RegDesc :=
  ⟨page, base, stride, count, true, masks rw, masks w1c, masks ro, reset⟩

/-- The register tables of the spec. -/
def R.desc : R → RegDesc
  -- Tables 1.4 to 1.8
  | .frameCtl => partL 0x01 0x00 [(24, 24), (8, 0)] [] [] 0x10
  | .frameApply => partL 0x01 0x08 [(47, 0)] [] [] 0
  | .frameCount => partL 0x01 0x10 [] [] [(47, 0)] 0
  | .frameStatus => partL 0x01 0x18 [] [(18, 18), (16, 16)] [(17, 17), (8, 0)] 0x10
  | .frameOverrun => partL 0x01 0x20 [] [] [(31, 0)] 0
  -- Tables 2.1 to 2.6
  | .ringCfg => perP 0x02 0x00 [(63, 63), (59, 58), (57, 54), (43, 32), (24, 16), (3, 0)] [] [] 0 0x40 32
  | .ringCreditAddr => perP 0x02 0x08 [(63, 0)] [] [] 0 0x40 32
  | .ringCreditDest => perP 0x02 0x10 [(23, 23), (19, 0)] [] [] 0 0x40 32
  | .ringConsumed => perP 0x02 0x18 [] [] [(63, 0)] 0 0x40 32
  | .ringStatus => perP 0x02 0x20 [] [(63, 59)] [] 0 0x40 32
  | .ringErrcount => perP 0x02 0x28 [] [] [(63, 0)] 0 0x40 32
  -- Tables 6.11 to 6.14
  | .numFlags => perP 0x03 0x00 [] [(4, 0)] [] 0
  | .numCount0 => perP 0x03 0x08 [] [] [(63, 0)] 0
  | .numCount1 => perP 0x03 0x10 [] [] [(47, 0)] 0
  | .numCtl => perP 0x03 0x18 [(4, 0)] [] [] 0
  -- Tables 7.8 to 7.11
  | .driftCtl => perP 0x04 0x00 [(39, 32), (31, 16), (11, 8), (2, 1), (0, 0)] [] [] 0x0400400800
  | .driftTau => perP 0x04 0x08 [(31, 0)] [] [] 0x3C800000
  | .driftStatus => perP 0x04 0x10 [] [(63, 62)] [(47, 0)] 0
  | .driftCount => perP 0x04 0x18 [] [] [(63, 0)] 0
  | .driftTotal => perP 0x04 0x20 [] [] [(63, 0)] 0
  -- Tables 8.13 to 8.16
  | .millCtl => perP 0x05 0x00 [(0, 0)] [] [] 0
  | .millFront => perP 0x05 0x08 [] [] [(63, 0)] 0
  | .millStall => perP 0x05 0x10 [] [] [(63, 0)] 0
  | .batchThresh => partL 0x06 0x00 [(15, 0)] [] [] 0x20 8 4096
  -- Tables 9.7 to 9.9
  | .textCount0 => perP 0x07 0x00 [] [] [(63, 0)] 0
  | .textCount1 => perP 0x07 0x08 [] [] [(63, 16), (10, 0)] 0
  | .textVocab => perP 0x07 0x10 [] [] [(47, 0)] 0
  -- Tables 10.13 to 10.16
  | .memErrStatus => perP 0x08 0x00 [] [(63, 60)] [] 0
  | .memErrAddr => perP 0x08 0x08 [] [] [(63, 60), (49, 0)] 0
  | .memErrCount => perP 0x08 0x10 [] [] [(63, 0)] 0
  | .memHot => perP 0x08 0x18 [] [] [(63, 16), (4, 0)] 0
  -- Tables 11.7 to 11.10
  | .stkCtl => perP 0x09 0x00 [(39, 32), (31, 16), (8, 8), (4, 0)] [] [] 0x0800100110 0x40 6
  | .stkStatus => perP 0x09 0x08 [] [(63, 61)] [(55, 48), (44, 44), (39, 32), (21, 16), (15, 8)] 0x1000200000 0x40 6
  | .stkEcc => perP 0x09 0x10 [] [] [(63, 0)] 0 0x40 6
  | .stkWork => perP 0x09 0x18 [] [] [(63, 0)] 0 0x40 6
  -- Tables 12.11 to 12.14
  | .flCtl => perP 0x0A 0x00 [(47, 40), (31, 16), (1, 0)] [] [] 0x0A0000400000 0x40 8
  | .flStatus => perP 0x0A 0x08 [] [(63, 60)] [(59, 28), (23, 0)] 0 0x40 8
  | .flErr => perP 0x0A 0x10 [] [] [(63, 0)] 0 0x40 8
  | .flSlc => perP 0x0A 0x18 [] [] [(63, 0)] 0 0x40 8
  -- Tables 13.1 to 13.5
  | .dmaSrc => perP 0x0B 0x00 [(49, 0)] [] [] 0 0x40 64
  | .dmaDst => perP 0x0B 0x08 [(49, 0)] [] [] 0 0x40 64
  | .dmaParts => perP 0x0B 0x10 [(63, 63), (51, 31), (19, 0)] [] [] 0 0x40 64
  | .dmaCount => perP 0x0B 0x18 [(40, 0)] [] [] 0 0x40 64
  | .dmaCtl => perP 0x0B 0x20 [(43, 32), (20, 20), (17, 16), (8, 8), (4, 2)] [] [] 0x20000 0x40 64
  | .dmaStatus => perP 0x0B 0x28 [] [(63, 61)] [(60, 60), (47, 32), (15, 0)] 0 0x40 64
  | .dmaDesc => perP 0x0B 0x30 [(49, 0)] [] [] 0 0x40 64
  | .dmaMoved => perP 0x0B 0x38 [] [] [(40, 0)] 0 0x40 64
  -- Tables 14.12 to 14.20
  | .fabId => partL 0x0C 0x000 [(28, 24), (19, 0)] [] [] 0x10FFFFF
  | .fabStatus => partL 0x0C 0x008 [] [(63, 62)] [] 0
  | .portCfg => partL 0x0C 0x100 [(63, 53)] [] [] 0x8020000000000000 0x20 12
  | .portStatus => partL 0x0C 0x108 [] [(63, 63)] [(62, 62), (59, 54), (51, 48), (39, 20)] 0 0x20 12
  | .portErr => partL 0x0C 0x110 [] [] [(63, 0)] 0 0x20 12
  | .portDelay => partL 0x0C 0x118 [] [] [(31, 0)] 0 0x20 12
  | .routeIdx => partL 0x0C 0x300 [(15, 0)] [] [] 0
  | .routeData => partL 0x0C 0x308 [(63, 63), (7, 4), (1, 0)] [] [] 0
  | .peerIdx => partL 0x0C 0x310 [(11, 0)] [] [] 0
  | .peerData0 => partL 0x0C 0x318 [(63, 63), (19, 0)] [] [] 0
  | .peerData1 => partL 0x0C 0x320 [(63, 60), (47, 0)] [] [] 0
  | .bellStatus => partL 0x0C 0x330 [] [] [(63, 56), (51, 32), (15, 0)] 0
  | .hostCfg => partL 0x0C 0x340 [(63, 63), (36, 32), (31, 16)] [] [] 0x100000000
  | .hostStatus => partL 0x0C 0x348 [] [] [(63, 57), (15, 0)] 0
  -- Tables 15.2 to 15.7
  | .tcStatus => partL 0x0D 0x000 [] [(63, 63)] [] 0
  | .portShape1 => partL 0x0D 0x100 [(63, 62), (39, 0)] [] [(59, 40)] 0x0400004000001000 0x20 12
  | .portShape2 => partL 0x0D 0x108 [(63, 62), (39, 0)] [] [(59, 40)] 0x0400004000001000 0x20 12
  | .portShape3 => partL 0x0D 0x110 [(63, 62), (39, 0)] [] [(59, 40)] 0x0400004000001000 0x20 12
  | .portWrr => partL 0x0D 0x118 [(23, 0)] [] [] 0x10408 0x20 12
  | .polStatus => perP 0x0E 0x000 [] [(63, 62)] [] 0
  | .partShape1 => perP 0x0E 0x008 [(63, 62), (39, 0)] [] [(59, 40)] 0x0200002000002000
  | .partShape2 => perP 0x0E 0x010 [(63, 62), (39, 0)] [] [(59, 40)] 0x0200002000002000
  | .partShape3 => perP 0x0E 0x018 [(63, 62), (39, 0)] [] [(59, 40)] 0x8200002000002000
  | .meterCfg => perP 0x0E 0x100 [(63, 62), (47, 32), (15, 0)] [] [] 0 0x20 64
  | .meterC => perP 0x0E 0x108 [(39, 0)] [] [(59, 40)] 0x0010000010000100 0x20 64
  | .meterE => perP 0x0E 0x110 [(39, 0)] [] [(59, 40)] 0x0010000010000100 0x20 64
  | .meterCount => perP 0x0E 0x118 [] [] [(63, 0)] 0 0x20 64
  -- Tables 16.10 to 16.13
  | .cohCtl => perP 0x0F 0x00 [(7, 0)] [] [] 4
  | .cohStatus => perP 0x0F 0x08 [] [(63, 61)] [(22, 0)] 0
  | .cohCount0 => perP 0x0F 0x10 [] [] [(63, 0)] 0
  | .cohCount1 => perP 0x0F 0x18 [] [] [(63, 0)] 0
  -- Tables 17.9 to 17.13
  | .bindStatus => partL 0x10 0x00 [] [(63, 63)] [(47, 0)] 0
  | .bindCount => partL 0x10 0x08 [] [] [(63, 0)] 0
  | .mapPending => partL 0x10 0x10 [] [] [(31, 0)] 0
  | .ledgerSnap => partL 0x11 0x00 [] [] [(47, 0)] 0
  | .ledgerCtl => partL 0x11 0x08 [(11, 0)] [] [] 0
  | .ledgerWin => partL 0x11 0x100 [] [] [(63, 0)] 0 8 16
  | .fuseCfg => partL 0x12 0x00 [] [] [(33, 32), (18, 16), (12, 0)] 0
  | .fuseSku => partL 0x12 0x08 [] [] [(39, 32), (28, 24), (21, 16), (11, 8)] 0xC018200C00
  | .fuseDigest => partL 0x12 0x10 [] [] [(63, 0)] 0 8 4
  -- Table 18.11
  | .faultCtl => perP 0x13 0x00 [(43, 22), (3, 2)] [] [] 0x10000004
  | .faultStatus => perP 0x13 0x08 [] [(62, 62), (60, 60)] [(63, 63), (61, 61), (31, 0)] 0
  | .faultCount => perP 0x13 0x10 [] [] [(63, 0)] 0
  | .daybookStatus => perP 0x13 0x18 [] [] [(47, 0)] 0
  | .crierDest => partL 0x14 0x00 [(63, 63), (19, 0)] [] [] 0
  | .crierRing => partL 0x14 0x08 [(49, 0)] [] [] 0
  | .crierCfg => partL 0x14 0x10 [(63, 63), (23, 16), (5, 0)] [] [] 0x800000000040000A
  | .crierCount => partL 0x14 0x18 [] [] [(63, 0)] 0
  -- Table 19.8; NONCE has no numbered reset value ("random"): log entry 12
  | .secStatus => partL 0x15 0x00 [] [(63, 62)] [(61, 55), (47, 0)] 0
  | .secCtl => partL 0x15 0x08 [(0, 0)] [] [] 0
  | .fwStage => partL 0x15 0x10 [(49, 0)] [] [] 0
  | .fwCtl => partL 0x15 0x18 [(24, 0)] [] [] 0
  | .dbgToken => partL 0x15 0x20 [(63, 63), (49, 0)] [] [] 0
  | .dbgNonce => partL 0x15 0x40 [] [] [(63, 0)] 0 8 4
  -- Table 20.10
  | .pwrCtl => partL 0x16 0x00 [(10, 10), (8, 8), (2, 0)] [] [] 0x500
  | .pkgStatus => partL 0x16 0x08 [] [(63, 63)] [(62, 57), (51, 48), (42, 40), (31, 12)] 0
  | .pwrCap => partL 0x16 0x10 [(11, 0)] [] [] 0x898
  | .thermCfg => partL 0x16 0x18 [(15, 0)] [] [(23, 16)] 0x6E645F
  | .bellpinCfg => partL 0x16 0x20 [(63, 62), (45, 32), (13, 0)] [] [] 0xC8000000C80
  | .bellpinStatus => partL 0x16 0x28 [] [] [(31, 0)] 0
  -- Table 21.6
  | .utCtl => perP 0x17 0x00 [(63, 63), (56, 56), (43, 32), (15, 0)] [] [] 0
  | .utBase => perP 0x17 0x08 [(49, 30)] [] [] 0
  | .utStatus => perP 0x17 0x10 [] [(63, 62)] [(23, 0)] 0
  | .utCount => perP 0x17 0x18 [] [] [(63, 0)] 0
  -- Table 10.17
  | .tally => perP 0x18 0x00 [] [] [(63, 0)] 0 8 4096

/-- Every register, for a search by address. -/
def R.all : List R :=
  [.frameCtl, .frameApply, .frameCount, .frameStatus, .frameOverrun, .ringCfg, .ringCreditAddr, .ringCreditDest,
   .ringConsumed, .ringStatus, .ringErrcount, .numFlags, .numCount0, .numCount1, .numCtl, .driftCtl, .driftTau,
   .driftStatus, .driftCount, .driftTotal, .millCtl, .millFront, .millStall, .batchThresh, .textCount0, .textCount1,
   .textVocab, .memErrStatus, .memErrAddr, .memErrCount, .memHot, .stkCtl, .stkStatus, .stkEcc, .stkWork] ++
  [.flCtl, .flStatus, .flErr, .flSlc, .dmaSrc, .dmaDst, .dmaParts, .dmaCount, .dmaCtl, .dmaStatus, .dmaDesc, .dmaMoved,
   .fabId, .fabStatus, .portCfg, .portStatus, .portErr, .portDelay, .routeIdx, .routeData, .peerIdx, .peerData0,
   .peerData1, .bellStatus, .hostCfg, .hostStatus, .tcStatus, .portShape1, .portShape2, .portShape3, .portWrr] ++
  [.polStatus, .partShape1, .partShape2, .partShape3, .meterCfg, .meterC, .meterE, .meterCount, .cohCtl, .cohStatus,
   .cohCount0, .cohCount1, .bindStatus, .bindCount, .mapPending, .ledgerSnap, .ledgerCtl, .ledgerWin, .fuseCfg,
   .fuseSku, .fuseDigest, .faultCtl, .faultStatus, .faultCount, .daybookStatus, .crierDest, .crierRing, .crierCfg,
   .crierCount] ++
  [.secStatus, .secCtl, .fwStage, .fwCtl, .dbgToken, .dbgNonce, .pwrCtl, .pkgStatus, .pwrCap, .thermCfg, .bellpinCfg,
   .bellpinStatus, .utCtl, .utBase, .utStatus, .utCount, .tally]

/-- The bits a register holds: the rest are reserved or write-only and read 0. -/
def R.defined (r : R) : Word := r.desc.rw ||| r.desc.w1c ||| r.desc.ro

/-- One register of the part: its kind, the partition's copy (P0 for a part-level block) and the index. -/
structure RegKey where
  r : R
  p : Fin 4
  i : Nat
  deriving DecidableEq, Repr

/-- The register file: the registers that do not hold their reset value, or have held another. -/
abbrev RegFile := List (RegKey × Word)

/-- The key of a register: a part-level register has one copy. -/
def regKey (r : R) (p : Fin 4) (i : Nat) : RegKey := ⟨r, if r.desc.part then 0 else p, i⟩

/-- A key's value. -/
def rfGet : RegFile → RegKey → Option Word
  | [], _ => none
  | (k, v) :: t, q => if k = q then some v else rfGet t q

/-- A key's value replaced, or added. -/
def rfSet : RegFile → RegKey → Word → RegFile
  | [], q, v => [(q, v)]
  | (k, w) :: t, q, v => if k = q then (k, v) :: t else (k, w) :: rfSet t q v

/-- A register as read: its value or its reset value (R9: write-only and reserved bits read 0). -/
def RegFile.get (f : RegFile) (r : R) (p : Fin 4) (i : Nat) : Word := (rfGet f (regKey r p i)).getD r.desc.reset

/-- A register set by the part: reserved bits stay 0 (R7). -/
def RegFile.put (f : RegFile) (r : R) (p : Fin 4) (i : Nat) (v : Word) : RegFile := rfSet f (regKey r p i) (v &&& r.defined)

/-- What a software write of `v` makes of a register (Table 0.6): RW bits from `v`, W1C bits cleared by a 1, RO bits kept. -/
def swWrite (r : R) (old v : Word) : Word :=
  (v &&& r.desc.rw) ||| (old &&& r.desc.ro) ||| (old &&& r.desc.w1c &&& ~~~v)

/-- The reserved bits of every register the file lists are 0. -/
abbrev RegFile.wf (f : RegFile) : Prop := ∀ c ∈ f, c.2 &&& ~~~c.1.r.defined = 0

theorem rfSet_mem {f : RegFile} {k : RegKey} {v : Word} {c : RegKey × Word} (h : c ∈ rfSet f k v) : c = (k, v) ∨ c ∈ f := by
  induction f with
  | nil => simp [rfSet] at h; exact .inl h
  | cons d t ih =>
    obtain ⟨q, w⟩ := d
    simp only [rfSet] at h
    split at h
    · rename_i hq; subst hq
      simp at h; rcases h with h | h
      · exact .inl h
      · exact .inr (by simp [h])
    · simp at h; rcases h with h | h
      · exact .inr (by simp [h])
      · rcases ih h with h | h
        · exact .inl h
        · exact .inr (by simp [h])

theorem RegFile.put_wf {f : RegFile} (h : RegFile.wf f) (r : R) (p : Fin 4) (i : Nat) (v : Word) :
    RegFile.wf (RegFile.put f r p i v) := by
  intro c hc
  rcases rfSet_mem hc with rfl | hc
  · have hk : (regKey r p i).r = r := rfl
    simp only [hk]
    rw [BitVec.and_assoc, BitVec.and_not_self]
    exact BitVec.and_zero
  · exact h c hc

theorem rfGet_rfSet_same (f : RegFile) (k : RegKey) (v : Word) : rfGet (rfSet f k v) k = some v := by
  induction f with
  | nil => simp [rfSet, rfGet]
  | cons d t ih =>
    obtain ⟨q, w⟩ := d
    simp only [rfSet]
    split
    · simp_all [rfGet]
    · simp_all [rfGet]

theorem rfGet_rfSet_other (f : RegFile) {k q : RegKey} (v : Word) (h : q ≠ k) : rfGet (rfSet f k v) q = rfGet f q := by
  induction f with
  | nil => simp [rfSet, rfGet, Ne.symm h]
  | cons d t ih =>
    obtain ⟨j, w⟩ := d
    simp only [rfSet]
    split
    · rename_i hj; subst hj; simp [rfGet, Ne.symm h]
    · simp only [rfGet, ih]

theorem RegFile.get_put_same (f : RegFile) (r : R) (p : Fin 4) (i : Nat) (v : Word) :
    RegFile.get (RegFile.put f r p i v) r p i = v &&& r.defined := by
  simp [RegFile.get, RegFile.put, rfGet_rfSet_same]

theorem RegFile.get_put_other (f : RegFile) {r r' : R} {p p' : Fin 4} {i i' : Nat} (v : Word)
    (h : regKey r' p' i' ≠ regKey r p i) : RegFile.get (RegFile.put f r p i v) r' p' i' = RegFile.get f r' p' i' := by
  simp [RegFile.get, RegFile.put, rfGet_rfSet_other f _ h]

/-- The register at an offset of a partition's copy of the control space. -/
def regAt (offset : Nat) : Option (R × Nat) :=
  R.all.findSome? fun r =>
    let d := r.desc
    let o := offset % 0x10000
    if offset / 0x10000 = d.page ∧ d.base ≤ o ∧ (o - d.base) % d.stride = 0 ∧ (o - d.base) / d.stride < d.count then
      some (r, (o - d.base) / d.stride)
    else none

end Sys2Proof.Machine
end

