-- ==== Sys2Proof/Machine/Types.lean ====
section
/-!
DEFINITION. The data of the Steward, the Drover, the Sorter and the index: accepted commands, shares, walks, selections,
collections, shards, staged updates, shelves and migrations (chapters 2 to 5), as plain data.
-/

namespace Sys2Proof.Machine

/-! ### Commands -/

/-- A slot whose seal has landed and whose packet the Steward has not accepted (R45 to R48). -/
structure Landed where
  slot : Nat
  ring : Nat
  frame : Nat
  /-- its place in the ring's order of acceptance since the ring was enabled (R47), and the ring's configuration when the seal
  landed, through which it is read (R52, R54) -/
  turn : Nat
  cfg : Word
  /-- whether a Steward wrote the seal -/
  steward : Bool
  srcPart : Nat
  srcPartition : Nat
  /-- TEN of the Alnos packet, for a FABRIC ring (R428) -/
  ten : Nat
  deriving DecidableEq, Repr

/-- One result of a share or of a shard walk: status, DETAIL, FAULT_REF and body. -/
structure PieceDone where
  status : Nat
  detail : Nat
  faultRef : Nat
  body : Bytes
  deriving DecidableEq, Repr

/-- One piece of a coordinated command: a shard, or the rows of one home (R122, R131, R332). -/
structure Piece where
  /-- the shard index; for rows, 4 times the home's part plus its partition -/
  unit : Nat
  part : Nat
  partition : Nat
  /-- performed by the accepting partition itself -/
  loc : Bool
  /-- first fan-out record, first 8 KiB reply slot in it and number of slots (R112); meaningless when `loc` -/
  record : Nat
  slot : Nat
  nslots : Nat
  seq : Nat
  sent : Bool
  /-- indices of the command's entries in this piece -/
  entries : List Nat
  /-- reply bytes landed in the reply area (R601) -/
  area : Mem
  done : Option PieceDone
  deriving DecidableEq, Repr

/-- How far a command has come. -/
inductive Phase where
  /-- accepted, waiting for admission (also under FENCE) -/
  | waiting
  /-- admitted in part: some of its work is held for later frames (R26) -/
  | split
  /-- admitted at a Bell; its operation has not started -/
  | admitted
  /-- started; it ends by later events -/
  | running
  deriving DecidableEq, Repr

/-- A command in the command store (R49): header fields, packet, and its progress. -/
structure Cmd where
  ref : Nat
  /-- 0–31 a submission ring; 32 the Stewards of the part; 33 the sideband; 34 the Utertil ring -/
  ring : Nat
  tenant : Nat
  steward : Bool
  srcPart : Nat
  srcPartition : Nat
  opcode : Nat
  flags : Nat
  cls : Nat
  timeout : Nat
  seq : Nat
  replyAddr : Nat
  replyHost : Bool
  replyPart : Nat
  bodyMax : Nat
  tally : Nat
  params : Bytes
  /-- known extension items (R72) -/
  ext : List (Nat × Bytes)
  ignored : Nat
  accFrame : Nat
  admFrame : Nat
  phase : Phase
  pieces : List Piece
  /-- walk-context slots held (R112) -/
  slots : List Nat
  /-- the descriptor of the collection it was last resolved under (R94) -/
  desc : Bytes
  /-- the tenant's batch threshold in force when it was admitted (R39) -/
  thresh : Nat
  /-- a number the operation keeps between its steps (a swap Bell, a handle, bytes done) -/
  aux : Nat
  aux2 : Nat
  /-- TAG of the SB_CMD that brought it (R578) -/
  sbTag : Nat
  /-- its place in the order in which the Steward admitted commands (R291) -/
  order : Nat := 0
  deriving DecidableEq, Repr

/-- A packet a Steward of the part gives to another Steward of the part (log entry 5). -/
structure ShareIn where
  packet : Bytes
  tenant : Nat
  fromPartition : Nat
  frame : Nat
  deriving DecidableEq, Repr

/-- A write of a local share's reply on its way to a fan-out record (R75, R601). -/
structure ShareWrite where
  fromPartition : Nat
  toPartition : Nat
  record : Nat
  offset : Nat
  data : Bytes
  deriving DecidableEq, Repr

/-- An update command of the commit journal (R165). -/
structure JournalEntry where
  ring : Nat
  seq : Nat
  frame : Nat
  results : Bytes
  deriving DecidableEq, Repr

/-! ### Collections and shards -/

/-- A collection as the part knows it (Tables 3.3 and 3.4; R90 to R95). -/
structure Coll where
  id : Nat
  tenant : Nat
  /-- the 32-byte descriptor; `tuned` is the one that takes effect at the next Bell (R94) -/
  desc : Bytes
  tuned : Option Bytes
  /-- map entries by shard index; pending ones at the next Bell (R94) -/
  map : Assoc Word
  mapNext : Assoc Word
  /-- 0 defined, 1 open, 2 closing -/
  state : Nat
  /-- the Bell at which a COLL_OPEN takes effect (R93) -/
  opening : Option Nat
  deriving DecidableEq, Repr

/-- Shelf states of NODE_READ (Table 4.8). -/
inductive ShelfState where
  | none | building | replaying | mirrored | retiring | aborted
  deriving DecidableEq, Repr

/-- Edits and writes held in the stage (R136, R138, Table 4.9), by node of a shard's record. -/
inductive Edit where
  | tag (gen : Nat) (live tomb : Bool)
  | usn (v : Nat)
  | add (t g : Nat)
  | remove (t g : Nat)
  | swap (t g t' g' : Nat)
  | setList (edges : List (Nat × Nat))
  | payload (v : Bytes)
  | code (v : Bytes)
  | refine (v : Bytes)
  /-- EDGES set to 0 with a reclaim (R141) -/
  | clearEdges
  /-- the node placed on the relink list when the replace becomes visible (Table 4.7) -/
  | relink
  deriving DecidableEq, Repr

/-- One entry of a committed share, as kept by a delta list, the Daybook or a pending-add buffer. -/
structure Delta where
  opcode : Nat
  commit : Nat
  node : Nat
  gen : Nat
  usn : Nat
  /-- payload, code and refine data as stored, for an insert or replace; FIELDS -/
  fields : Nat
  payload : Bytes
  code : Bytes
  refine : Bytes
  /-- every edit the entry staged, by node -/
  edits : List (Nat × Edit)
  deriving DecidableEq, Repr

/-- A shard held by a partition: its current and next record, free list, sweep and shelf (R92, R143, R146, R151). -/
structure Shard where
  coll : Nat
  idx : Nat
  /-- whether a current record is set: one set in an open collection is a next shelf until its swap Bell (R92) -/
  held : Bool
  cur : Bytes
  next : Option Bytes
  /-- the SHARD_SET of an open collection that set the next record (R84) -/
  setBy : Option Nat
  /-- 0 or 1: which shelf is current (Table 4.8) -/
  shelf : Nat
  free : List Nat
  scanPos : Nat
  rate : Nat
  sweeps : Nat
  sweepPos : Nat
  sweepFrame : Nat
  /-- frames at whose Bell tombstones became visible, by slot (R142) -/
  tombs : Assoc Nat
  /-- slots eligible for reclaim: (began, ended) of the last whole sweep -/
  lastSweepBegan : Nat
  lastSweepEnded : Nat
  shelfState : ShelfState
  startFrame : Nat
  mode : Nat
  /-- slots of a MODE 1 copy made so far (R151, R157) -/
  copyPos : Nat
  copied : Bool
  delta : List Delta
  /-- the swap Bell of the shelf now current -/
  swapFrame : Nat
  old : Option Bytes
  /-- the latest commit frame a partner's copy has applied in full (R526) -/
  appliedFrame : Nat
  deriving DecidableEq, Repr

/-! ### Walks -/

/-- A candidate of a walk's queue. -/
structure Cand where
  node : Nat
  dist : Nat
  expanded : Bool
  transit : Bool
  deriving DecidableEq, Repr

/-- An expansion in flight: pairs sent and not yet compared, and the results so far. -/
structure Flight where
  node : Nat
  /-- which expansion of the walk it is, from 1: a node can be expanded again (R104) -/
  no : Nat
  /-- the slots of the comparison queues that its neighbour lists hold: Sieve cluster, and whether of the class-0 reserve -/
  held : List (Nat × Bool)
  /-- node ID, generation and place in the edge list -/
  pend : List (Nat × Nat × Nat)
  results : List (Nat × Nat × Bool)
  /-- its place in the order in which the partition's expansions started: a channel serves the oldest first (R397) -/
  age : Nat
  /-- flash pages of its block whose read has not started (R451) -/
  pages : Nat
  deriving DecidableEq, Repr

/-- What a walk is for. -/
inductive WalkFor where
  | search
  | insert (entry : Nat)
  | relink (node : Nat)
  deriving DecidableEq, Repr

/-- Walk-context states in use (Table 3.12; a free slot has no walk). -/
inductive WalkState where
  | queued | active | parked | finishing
  deriving DecidableEq, Repr

/-- Where a queued walk's descriptor is (Table 1.9): still at the Steward, on the walk admission queue (in an unreserved slot or
one of the class-0 reserve), or taken by the Drover. -/
inductive Spot where
  | steward
  | queue (reserve : Bool)
  | drover
  deriving DecidableEq, Repr

/-- A walk context (Tables 3.11 and 3.12). -/
structure Walk where
  id : Nat
  why : WalkFor
  ref : Nat
  state : WalkState
  spot : Spot
  /-- seeded (R101) -/
  started : Bool
  cls : Nat
  tenant : Nat
  coll : Nat
  shard : Nat
  /-- the record walked on: the shelf the context names (R154) -/
  rcd : Bytes
  shelf : Nat
  width : Nat
  beam : Nat
  maxExpand : Nat
  maxFrames : Nat
  entryBeam : Nat
  batchWin : Nat
  pageWin : Nat
  hub : Bool
  seeds : List (Nat × Nat)
  query : Bytes
  queue : List Cand
  filter : List (Nat × Nat)
  flight : List Flight
  /-- the entry-layer queue while the entry layer is walked (R101), with the layer's record -/
  layer : Option Bytes
  stop : Nat
  accFrame : Nat
  admFrame : Nat
  slots : List Nat
  expansions : Nat
  compared : Nat
  suppressed : Nat
  stale : Nat
  transit : Nat
  parks : Nat
  degree : Nat
  codeBytes : Nat
  refine : Bool
  refineDepth : Nat
  refineFmt : Nat
  refineGroup : Nat
  refineDim : Nat
  metric : Nat
  k : Nat
  payload : Bool
  qrefine : Bytes
  deriving DecidableEq, Repr

/-- A selection in the Sorter: the row still to come, the register, and its settings (R166 to R182). -/
structure Selection where
  id : Nat
  walk : Nat
  cls : Nat
  dirHigh : Bool
  k : Nat
  payload : Bool
  /-- entries not yet presented -/
  row : List Entry
  /-- entries presented so far -/
  seen : List Entry
  /-- whether it holds one of the partition's registers -/
  held : Bool
  /-- its blocks on the partition's scan-result queue (Table 1.9): whether each lies in the class-0 reserve -/
  placed : List Bool
  deriving DecidableEq, Repr

/-! ### Updates -/

/-- One staged write: the shard and node it is for, on which shelf, and its commit frame once committed. -/
structure Staged where
  coll : Nat
  shard : Nat
  shelf : Nat
  node : Nat
  edit : Edit
  /-- the share that staged it: command reference and piece -/
  ref : Nat
  commit : Option Nat
  deriving DecidableEq, Repr

/-- An entry of an update share at its home (Tables 4.2, 4.5 and 4.6). -/
structure UpdEntry where
  status : Nat
  node : Nat
  gen : Nat
  fields : Nat
  payload : Bytes
  code : Bytes
  refine : Bytes
  /-- staged (or refused), so nothing more is to come -/
  ready : Bool
  /-- its edits, by node, before R139 drops any -/
  edits : List (Nat × Edit)
  usn : Nat
  deriving DecidableEq, Repr

/-- Where a share comes from: an update command or UPDATE_SHARD, a Daybook record a partner applies (R526), a parked
buffer drained at a cut-over (R161). -/
inductive ShareKind where
  | command | daybook | drained
  deriving DecidableEq, Repr

/-- An update share at its home partition (R134). -/
structure UpdShare where
  ref : Nat
  kind : ShareKind
  coll : Nat
  shard : Nat
  opcode : Nat
  tenant : Nat
  usn : Nat
  insBeam : Nat
  prune : Bool
  reverseMax : Nat
  entries : List UpdEntry
  /-- whether its staging has ended and its edges have been judged (R139) -/
  judged : Bool
  /-- the coordinating part and partition, the command's CMD_SEQ and its entries' bytes, for the Daybook (Table 18.8) -/
  src : Nat
  srcPartition : Nat
  cmdSeq : Nat
  raw : Bytes
  /-- the partition that holds the command -/
  owner : Nat
  /-- the commit frame of the Daybook record it applies (R526), or of a drained share (R161) -/
  dayCommit : Nat
  deriving DecidableEq, Repr

/-- An entry of the repair list (R145): of a shard's graph, or (`layer`) of its entry layer. -/
inductive RepairItem where
  | stale (coll shard : Nat) (layer : Bool) (v u g : Nat)
  | relink (coll shard : Nat) (layer : Bool) (node : Nat)
  deriving DecidableEq, Repr

/-- A parked update of a migrating unit (R161, R162). -/
structure Parked where
  /-- source partition, command store reference and entry index (R162) -/
  partition : Nat
  ref : Nat
  entry : Nat
  opcode : Nat
  node : Nat
  gen : Nat
  usn : Nat
  fields : Nat
  payload : Bytes
  code : Bytes
  refine : Bytes
  deriving DecidableEq, Repr

/-- A migration at the old home (Table 4.13, R159 to R163, R531). -/
structure Migration where
  ref : Nat
  kind : Nat
  id : Nat
  shard : Nat
  first : Nat
  rows : Nat
  newPart : Nat
  newPartition : Nat
  cut : Nat
  moves : Nat
  rejoin : Bool
  checked : Bool
  cutDone : Bool
  parked : List Parked
  parkedBytes : Nat
  overflow : Nat
  /-- deltas forwarded and not yet acknowledged: commit frame, then source partition, command reference and entry (R162) -/
  unacked : List (Nat × Nat × Nat × Nat)
  deriving DecidableEq, Repr

end Sys2Proof.Machine
end

