-- ==== Sys2Proof/Machine/TypesPart.lean ====
section
/-!
DEFINITION. The data of the part-level blocks: fabric, binding, map, Ledger, faults and notices (chapters 14, 17 and 18).
-/

namespace Sys2Proof.Machine

/-! ### Fabric -/

/-- Why a request was sent, so that its completion finds its way (R429, R59, R60, R416, R446). -/
inductive Why where
  | reply (p : Fin 4) (ring : Nat) (ref : Nat)
  | credit (p : Fin 4) (ring : Nat)
  | dmaWrite (p : Fin 4) (j : Nat) (no : Nat)
  | dmaRead (p : Fin 4) (j : Nat)
  | hostWindow (ld : Nat)
  deriving DecidableEq, Repr

/-- A request of the part whose COMPL is awaited (R429), with the frame it was sent in; `again`: refused by a meter, to be issued
again (R456). -/
structure Outst where
  tag : Nat
  why : Why
  frame : Nat
  dst : Nat
  pkt : Packet
  again : Bool
  deriving DecidableEq, Repr

/-- A count of end-to-end credits held at a sender, with the frame of last use (R438, R439). -/
structure Credit where
  peer : Nat
  request : Bool
  cls : Nat
  partition : Nat
  count : Nat
  used : Nat
  deriving DecidableEq, Repr

/-- An ask for credit, oldest first (R438). -/
structure Ask where
  peer : Nat
  request : Bool
  cls : Nat
  partition : Nat
  count : Nat
  deriving DecidableEq, Repr

/-- One Alnos port's link layer (R423, R426, R436). -/
structure Port where
  nextSeq : Nat
  lastGood : Nat
  awaitReplay : Bool
  replays : Nat
  /-- the flit that the last replay began with -/
  replaySeq : Nat
  /-- the last flits sent, newest first: sequence number and packets -/
  sent : List (Nat × List Packet)
  /-- packets held for the port, by order of arrival; true: forwarded -/
  tx : List (Bool × Packet)
  /-- blocks sent so far of the first packet of a class, VL and kind (8 × class + 2 × VL, one more when forwarded) -/
  prog : Assoc Nat
  /-- link credits used, by class and VL (16-byte blocks) -/
  used : Assoc Nat
  /-- whether the last local/forwarded turn was a forwarded one, by class (R434) -/
  turn : Assoc Bool
  /-- the weighted round-robin position: flits sent of classes 1 to 3 in this round (R449) -/
  wrr : Assoc Nat
  deriving DecidableEq, Repr

/-- The fabric (chapter 14). -/
structure FabricSt where
  ports : Vector Port 12
  /-- route table by group; peer table by index: written, and in force (R433, R447) -/
  routes : Assoc Word
  routesLive : Assoc Word
  peers0 : Assoc Word
  peers1 : Assoc Word
  peers0Live : Assoc Word
  peers1Live : Assoc Word
  /-- packets delivered to the part and not yet acted on -/
  rx : List (Nat × Packet)
  outst : List Outst
  nextTag : Nat
  /-- packets that wait for an end-to-end credit (R438) -/
  held : List Packet
  /-- packets of the Stewards and the DMA that wait for a slot of a send queue (R34, Table 1.9) -/
  waiting : List Packet
  /-- the last write of a reply, sent when the completions of the others have come (R75) -/
  lastParts : List (Why × Packet)
  credits : List Credit
  /-- credits this part has lent out and not had back -/
  lent : List Credit
  asks : List Ask
  deriving DecidableEq, Repr

/-! ### The Bell -/

/-- The Bell (chapter 1; R440 of chapter 14). -/
structure BellSt where
  /-- announced Bells received: packet, port and DUE less PORT_DELAY on arrival -/
  announced : List (BellInfo × Nat × Nat)
  /-- the source followed (R18) -/
  source : Option Nat
  /-- whether a Bell has come since the last reset that restarted the count (R33) -/
  adopted : Bool
  /-- whether the write of FRAME_APPLY armed a period change (R32) -/
  armed : Bool
  /-- whether the BELL_IN word of the next Bell has come (R574) -/
  pin : Option Word
  deriving DecidableEq, Repr

/-! ### Binding, map and Ledger -/

/-- Unit states of BIND_READ (Table 17.2). -/
inductive UnitState where
  | unbound | bound | draining | scrubbing | disabled
  deriving DecidableEq, Repr

/-- A bindable unit (Table 17.1). -/
structure BUnit where
  state : UnitState
  tenant : Nat
  since : Nat
  /-- the partition a Pantry way is bound to -/
  partition : Nat
  deriving DecidableEq, Repr

/-- A re-binding in progress (Table 17.4). -/
structure Rebind where
  p : Fin 4
  ref : Nat
  unbind : Bool
  tenant : Nat
  units : List (Nat × Nat × Nat)
  unbindFrame : Nat
  drainEnd : Nat
  drained : Bool
  ended : Nat
  deriving DecidableEq, Repr

/-- A map change this part keeps (R495 to R497). -/
structure Keeping where
  seq : Nat
  entries : List MapEntry
  audience : List Nat
  acks : List Nat
  lastAck : Nat
  epoch : Nat
  defers : Nat
  /-- a MIGRATE's change, whose frames Table 4.13 gives -/
  driven : Bool
  /-- the command that waits on it, none for a change of the part's own -/
  cmd : Option (Fin 4 × Nat)
  deriving DecidableEq, Repr

/-- A map change another part keeps, held here since its PREP (R496, R498). -/
structure HeldMap where
  keeper : Nat
  seq : Nat
  entries : List MapEntry
  arrived : Nat
  epoch : Option Nat
  committed : Bool
  unsettled : Bool
  deriving DecidableEq, Repr

/-- Binding, map and Ledger (chapter 17). -/
structure BindSt where
  units : Assoc BUnit
  rebinds : List Rebind
  keeping : List Keeping
  heldMaps : List HeldMap
  nextSeq : Nat
  /-- running counters by 16 × tenant + counter, and the snapshot -/
  ledger : Assoc Nat
  snapshot : Assoc Nat
  deriving DecidableEq, Repr

/-! ### Faults -/

/-- A fault record (Table 18.3). -/
structure FaultRec where
  index : Nat
  cause : Nat
  level : Nat
  dumped : Bool
  notified : Bool
  partLevel : Bool
  frame : Nat
  tenant : Nat
  engineKind : Nat
  engine : Nat
  ctxKind : Nat
  ctxId : Nat
  opcode : Nat
  ring : Nat
  source : Nat
  cmdSeq : Nat
  addr : Nat
  count : Nat
  detail : Bytes
  deriving DecidableEq, Repr

/-- A Loft dump or its mirror (Table 18.6): the header's facts, the sections copied. -/
structure Dump where
  cause : Nat
  frame : Nat
  faultRef : Nat
  mode : Nat
  sampleOff : Nat
  sampleKib : Nat
  partId : Nat
  records : List FaultRec
  tallies : List (Nat × Word)
  /-- whether DEBUG_LOCK was 1: the samples are zeros -/
  locked : Bool
  /-- the model's number that the bytes the spec does not fix count from: queues, engine state, samples -/
  free : Nat
  deriving DecidableEq, Repr

/-- A Daybook record (Table 18.8). -/
structure DayRec where
  lsn : Nat
  commit : Nat
  opcode : Nat
  tenant : Nat
  id : Nat
  shard : Nat
  cmdSeq : Nat
  src : Nat
  srcPartition : Nat
  usn : Nat
  results : Bytes
  entries : Bytes
  n : Nat
  durable : Bool
  /-- the partner it is sent to, whether it has been sent, and whether the partner has acknowledged it (R526, R527) -/
  partner : Option (Nat × Nat)
  sent : Bool
  partnerDurable : Bool
  deriving DecidableEq, Repr

/-- What a partition keeps of faults, dumps and the Daybook (chapter 18). -/
structure FaultSt where
  records : List FaultRec
  nextSeq : Nat
  dump : Option Dump
  mirror : Option Dump
  mirroring : Bool
  day : List DayRec
  nextLsn : Nat
  deriving DecidableEq, Repr

/-- Why the SPDM responder answers ERROR (R547; the last two by the standard's rules). -/
inductive SpdmError where
  | unsupportedRequest | invalidRequest | unexpectedRequest | sessionLimit
  deriving DecidableEq, Repr

/-- Responses of the SPDM responder, with what the spec says each carries (Table 19.5, R547 to R549); `sig` is the signature by
the alias key over the connection's transcript up to the response. -/
inductive SpdmResp where
  | version (v : Nat)
  | capabilities (ctExponent dataTransfer maxMsg : Nat)
  | algorithms
  | digests (slot0 : Bytes)
  | certificate (chain : Bytes)
  | challengeAuth (sig : Bytes)
  | measurements (blocks : List (Nat × Bytes)) (sig : Bytes)
  | keyExchangeRsp (session : Nat) (sig : Bytes)
  | finishRsp (session : Nat)
  | keyUpdateAck (session : Nat)
  | heartbeatAck (session : Nat)
  | endSessionAck (session : Nat)
  | vendorDefined (session stream : Nat)
  | chunkSendAck (handle seqNo : Nat)
  | chunkResponse (handle seqNo : Nat) (last : Bool) (chunk : Bytes)
  /-- the response is larger than DataTransferSize: to be read by CHUNK_GET -/
  | large (handle : Nat)
  | error (e : SpdmError)
  deriving DecidableEq, Repr

/-- What leaves the part other than by memory and registers: packets given to the links, upstream host writes, sideband
messages, the pins' events. -/
inductive Out where
  | flit (k : Nat) (seq : Nat) (packets : List Packet)
  | replayReq (k : Nat) (lastGood : Nat)
  | bell (k : Nat) (b : BellInfo)
  | hostWrite (ld : Nat) (addr : Nat) (data : Bytes)
  | hostRead (ld : Nat) (tag : Nat) (addr : Nat) (len : Nat)
  | hostData (ld : Nat) (tag : Nat) (poison : Bool) (data : Bytes)
  | hostSnoop (ld : Nat) (line : Nat) (toShared : Bool)
  /-- an Ouvelaeg message of Table 20.9: CODE, TAG (none for a message the part begins), payload -/
  | sideband (code : Nat) (tag : Option Nat) (payload : Bytes)
  /-- an MCTP control response: command and its value -/
  | mctp (cmd value : Nat)
  | spdm (t : Transport) (r : SpdmResp)
  /-- an answer of the debug port: instruction and whether the part serves it beyond IDCODE and BYPASS -/
  | debug (ir : Nat) (body : Bytes)
  | dcdEvent (ld : Nat) (ext : Nat) (kind : Nat)
  | bellPin (word : Word)
  deriving DecidableEq, Repr

end Sys2Proof.Machine
end

