-- ==== Sys2Proof/Machine/TypesUnits.lean ====
section
/-!
DEFINITION. The data of the text units and the Mills (chapters 8 and 9).
-/

namespace Sys2Proof.Machine

/-! ### The text unit -/

/-- Stream states (Table 9.3); a failed stream: whether REJECT failed it, and the record of a reset that did (R301). -/
inductive StreamState where
  | opened | ended | draining
  | failed (reject : Bool) (faultRef : Nat)
  deriving DecidableEq, Repr

/-- A stream context (R290 to R299). -/
structure TextStream where
  handle : Nat
  tenant : Nat
  /-- 0 DETOK, 1 BYTES, 2 ENCODE -/
  mode : Nat
  options : Nat
  stops : List Bytes
  /-- whether ENCODE has emitted its BOS -/
  begun : Bool
  pending : Bytes
  held : Bytes
  /-- the last bytes of the validated output, for the matcher -/
  recent : Bytes
  queue : Bytes
  state : StreamState
  /-- END and STOP_INDEX of Table 9.4 -/
  endCode : Nat
  stopIndex : Nat
  deriving DecidableEq, Repr

/-- A text unit: its streams, the vocabulary table in force, and one written that takes effect at the next Bell (R303). -/
structure TextSt where
  streams : List TextStream
  vocab : Mem
  vocabNext : Option Mem
  deriving DecidableEq, Repr

/-- A text unit after reset. -/
def TextSt.reset : TextSt := { streams := [], vocab := [], vocabNext := none }

/-! ### Flags of elements (Table 6.10) -/

/-- Elements that raised each flag of Table 6.10. -/
structure FlagN where
  sat : Nat := 0
  flush : Nat := 0
  nanLost : Nat := 0
  bad : Nat := 0
  scale : Nat := 0
  deriving DecidableEq, Repr

/-- No element raised a flag. -/
def FlagN.none : FlagN := {}

/-- Counts of two groups of elements together. -/
def FlagN.add (a b : FlagN) : FlagN :=
  ⟨a.sat + b.sat, a.flush + b.flush, a.nanLost + b.nanLost, a.bad + b.bad, a.scale + b.scale⟩

/-- The flag word (bits of Table 6.10). -/
def FlagN.word (f : FlagN) : Nat :=
  (if f.sat = 0 then 0 else 1) + (if f.flush = 0 then 0 else 2) + (if f.nanLost = 0 then 0 else 4) +
  (if f.bad = 0 then 0 else 8) + (if f.scale = 0 then 0 else 16)

/-! ### The Mill -/

/-- A tensor descriptor (Table 8.5). -/
structure Tensor where
  id : Nat
  fmt : Nat
  u : Bool
  layout : Nat
  group : Nat
  role : Nat
  flags : Nat
  dims : List Nat
  data : Nat
  scale1 : Nat
  scale2 : Nat
  side : Nat
  sideN : Nat
  deriving DecidableEq, Repr

/-- An operation entry (Table 8.6). -/
structure VOp where
  vop : Nat
  sub : Nat
  a : Nat
  b : Nat
  out : Nat
  aux : Nat
  dir : Nat
  deriving DecidableEq, Repr

/-- A shadow record (Table 8.7): tensor, row, group, shadow scale, FP8A codes. -/
structure Shadow where
  tensor : Nat
  row : Nat
  group : Nat
  scale : Nat
  vals : List Nat
  deriving DecidableEq, Repr

/-- A loaded object (R273, R276): what load copied. -/
structure VObj where
  handle : Nat
  tenant : Nat
  addr : Nat
  window : Nat
  mills : List Nat
  tensors : List Tensor
  ops : List VOp
  /-- side lists by tensor: row, column, BF16 code -/
  sides : List (Nat × List (Nat × Nat × Nat))
  shadows : List Shadow
  unloading : Bool
  deriving DecidableEq, Repr

/-- One row of a tensor in a run, as codes and scales (R219, R223). -/
structure TRow where
  codes : List Nat
  s1 : List Nat
  s2 : List Nat
  deriving DecidableEq, Repr

/-- A tensor's contents: its rows, rows per matrix, and the tensor scale of layout TENSOR. -/
structure TVal where
  per : Nat
  rows : List TRow
  st : Nat
  deriving DecidableEq, Repr

/-- What a calibration run keeps of a marked tensor (R248). -/
structure Calib where
  tensor : Nat
  /-- group magnitudes as FP32 codes, in row and group order -/
  amax : List Nat
  hist : List Nat
  elements : Nat
  ties : Nat
  /-- FP32 sum of the signed encoding errors -/
  err : Nat
  deriving DecidableEq, Repr

/-- A stream of a run (R270): the operation and tensor it serves, the bytes moved into its ring so far, and how many of
them the feeder has consumed. -/
structure Prefetch where
  id : Nat
  run : Nat
  op : Nat
  tensor : Nat
  total : Nat
  data : Bytes
  fed : Nat
  /-- whether the ring holds weight sets in front layout -/
  front : Bool
  /-- the Mills that use the tensor, each of which reads every byte of it once (R271) -/
  uses : Nat
  /-- the Mill one of whose prefetchers runs it -/
  on : Option Nat
  deriving DecidableEq, Repr

/-- A selection of a tensor program in hand (R176, R177): the result blocks of the rows before, and of the row it is on the
passes made, the entries they chose, the best finite score and the entries without mass, and the flags so far. -/
structure Passes where
  cls : Nat
  blocks : List Bytes
  pass : Nat
  picked : List Entry
  best : Nat
  nonfinite : Nat
  flags : FlagN
  deriving DecidableEq, Repr

/-- A run context (R275). -/
structure VRun where
  id : Nat
  ref : Nat
  handle : Nat
  tenant : Nat
  rows : Nat
  binds : List (Nat × Nat)
  /-- the next operation -/
  op : Nat
  /-- flag words of the operations done -/
  words : List Nat
  /-- intermediate tensors -/
  inter : List (Nat × TVal)
  /-- shapes of the outputs written: rows per matrix and matrices -/
  shapes : List (Nat × Nat × Nat)
  cycles : Nat
  fallbacks : Nat
  drift : Nat
  calib : List Calib
  /-- a TALLY_WAIT holds it: the target -/
  waiting : Option Nat
  /-- the tenant's batch threshold when the run was admitted (R38, R39) -/
  thresh : Nat
  /-- side lists that its CONVERT operations wrote: row, column, BF16 code (R241) -/
  sides : List (Nat × List (Nat × Nat × Nat))
  /-- a selection in hand -/
  sel : Option Passes
  /-- the memory it has written, and that written by runs of its object that were in flight with it and have ended (R280) -/
  wrote : List (Nat × Nat)
  peers : List (Nat × Nat)
  deriving DecidableEq, Repr

/-- What a Mill holds between operations (Table 8.1): the runs whose operation waits in its dispatch queue, and the physical
columns of the segments its row buses were last cut into (R260). Its rings are the streams'; its carry file holds nothing between
operations (R259). -/
structure Mill where
  queue : List Nat
  segments : List Nat
  deriving DecidableEq, Repr

/-- The Mills of a partition. -/
structure MillSt where
  objs : List VObj
  runs : List VRun
  streams : List Prefetch
  /-- the partition's 48 Mills -/
  units : List Mill
  /-- the frame's drift-guard samples, those that exceeded, the largest finite d (FP32 code), exceeding samples by object
  and operation, and the commands with one (R245) -/
  samples : Nat
  exceed : Nat
  worst : Nat
  byOp : List (Nat × Nat × Nat)
  refs : List Nat
  deriving DecidableEq, Repr

/-- The Mills after reset. -/
def MillSt.reset : MillSt := { objs := [], runs := [], streams := [], units := List.replicate 48 ⟨[], [8]⟩, samples := 0, exceed := 0, worst := 0, byOp := [], refs := [] }

end Sys2Proof.Machine
end

