-- ==== Sys2Proof/Machine/TypesMem.lean ====
section
/-!
DEFINITION. The data of tables, DMA channels, memory stacks and flash channels (chapters 10 to 13).
-/

namespace Sys2Proof.Machine

/-! ### Tables (R328 to R340) -/

/-- A range of rows and its home; for a range homed here, the place of its first row among the partition's rows. -/
structure RowRange where
  first : Nat
  part : Nat
  partition : Nat
  place : Nat
  deriving DecidableEq, Repr

/-- A table definition of a partition (Tables 10.8 and 10.9) and its hot-row set. -/
structure Table where
  id : Nat
  tenant : Nat
  desc : Bytes
  ranges : List RowRange
  /-- the Bell from which it is defined; none: in force -/
  opening : Option Nat
  closing : Bool
  hot : List Nat
  hotNext : Option (List Nat)
  /-- rows in the two halves of the hot area, by slot -/
  half0 : List Nat
  half1 : List Nat
  active : Option Nat
  /-- a copy in progress: the half it fills and the number its free choices count from -/
  copying : Option (Nat × Nat)
  /-- the refresh Bell last acted on -/
  refreshed : Option Nat
  /-- a half filled and waiting for the next Bell -/
  ready : Option Nat
  deriving DecidableEq, Repr

/-! ### DMA (chapter 13) -/

/-- How a transfer ends that has failed (R416): the status, the bytes written, the poisoned line, the fault record. -/
structure DmaFail where
  status : Nat
  moved : Nat
  line : Nat
  faultRef : Nat
  deriving DecidableEq, Repr

/-- A transfer of a channel (R408, Table 13.6). -/
structure DmaRun where
  j : Nat
  /-- number of the transfer among those of the channel with accesses in flight -/
  no : Nat
  tenant : Nat
  cls : Nat
  src : Nat
  dst : Nat
  count : Nat
  srcPart : Nat
  dstPart : Nat
  srcHost : Bool
  dstHost : Bool
  barrier : Bool
  tallyEn : Bool
  swap : Nat
  tally : Nat
  chain : Bool
  last : Bool
  next : Nat
  /-- bytes that have come from another part, by offset -/
  got : Mem
  /-- every read has returned and every write has been issued -/
  issued : Bool
  /-- the MEM_COPY it serves -/
  ref : Option Nat
  /-- it has failed and waits for its accesses in flight (R416) -/
  fail : Option DmaFail
  deriving DecidableEq, Repr

/-! ### Stacks (chapter 11) -/

/-- What a memory stack keeps besides its bytes. -/
structure StackSt where
  /-- the ECC mode in force (R364) -/
  eccMode : Nat
  /-- corrected errors by row since the last cold reset (R370) -/
  errs : Assoc Nat
  /-- rows mapped to a spare row: the base die's non-volatile map (R371) -/
  spared : List Nat
  /-- rows kept in place since the last cold reset, their bank having no free spare -/
  kept : List Nat
  /-- the next row of the scrub walk (R369) -/
  scrub : Nat
  /-- a FILL (false) or TEST (true) that runs -/
  fill : Option Bool
  deriving DecidableEq, Repr

/-- A stack after reset. -/
def StackSt.reset : StackSt := { eccMode := 1, errs := [], spared := [], kept := [], scrub := 0, fill := none }

/-! ### Flash (chapter 12) -/

/-- A mapped unit of 4 MiB (R386): coarse or fine, its mapped pages and the target each lies on, HOT, and the order of its
last ingest. -/
structure FlashUnit where
  coarse : Bool
  pages : Assoc Nat
  hot : Bool
  order : Nat
  /-- bytes of it in the SLC buffer, yet to be folded -/
  slc : Nat
  deriving DecidableEq, Repr

/-- The health log (Table 12.10); counts of bytes are kept in bytes. -/
structure Health where
  targets : Nat
  bits : Nat
  spareLeft : Nat
  peAvg : Nat
  peMax : Nat
  peRated : Nat
  retired : Nat
  corrected : Nat
  soft : Nat
  uncorr : Nat
  progFails : Nat
  eraseFails : Nat
  ingested : Nat
  programmed : Nat
  readBytes : Nat
  tempNow : Nat
  tempMax : Nat
  /-- time spent at each range of TEMP_HOURS, µs -/
  hours : List Nat
  logFrame : Nat
  deriving DecidableEq, Repr

/-- A health log with nothing in it. -/
def Health.empty : Health :=
  { targets := 0, bits := 0, spareLeft := 100, peAvg := 0, peMax := 0, peRated := 0, retired := 0, corrected := 0, soft := 0,
    uncorr := 0, progFails := 0, eraseFails := 0, ingested := 0, programmed := 0, readBytes := 0, tempNow := 0, tempMax := 0,
    hours := List.replicate 8 0, logFrame := 0 }

/-- A flash channel: its map, capacity, interleave, health log and the copy of the log in flash. -/
structure Channel where
  /-- w of the channel's set (R385) -/
  w : Nat
  units : Assoc FlashUnit
  /-- native capacity, MiB -/
  native : Nat
  log : Health
  saved : Health
  /-- next page of the scrub in map order, and the frame of the last ZQ calibration -/
  scrub : Nat
  zq : Nat
  /-- the programs of ingests under way, each on a target: command, target, and how often it has been suspended (R397) -/
  busy : List (Nat × Nat × Nat)
  deriving DecidableEq, Repr

/-- A channel that holds nothing. -/
def Channel.empty : Channel :=
  { w := 1, units := [], native := 0, log := Health.empty, saved := Health.empty, scrub := 0, zq := 0, busy := [] }

/-- An ingest or release that has started (R390): its range, its bytes, and its commit frame once committed. -/
structure Ingest where
  ref : Nat
  release : Bool
  tenant : Nat
  dst : Nat
  bytes : Nat
  hot : Bool
  data : Mem
  commit : Option Nat
  deriving DecidableEq, Repr

end Sys2Proof.Machine
end

