-- ==== Sys2Proof/Machine/TypesCoh.lean ====
section
/-!
DEFINITION. The data of coherent domains, regions, extents and the directory (chapter 16).
-/

namespace Sys2Proof.Machine

/-- The state of a line with an entry (Table 16.3); a line without one is in state I. -/
inductive DirState where
  | shared (holders : List Nat)
  | owned (o : Nat)
  | lost
  deriving DecidableEq, Repr

/-- A directory entry: its state and its place in the order of entries, oldest first. -/
structure DirEntry where
  st : DirState
  order : Nat
  deriving DecidableEq, Repr

/-- A domain (R462): its agents by index, none for one that DOM_ARM dropped. -/
structure Domain where
  id : Nat
  tenant : Nat
  agents : List (Option Nat)
  /-- the Bell from which it is defined; none: in force -/
  opening : Option Nat
  failed : Bool
  cause : Nat
  agent : Nat
  dirCleared : Bool
  failFrame : Nat
  dead : List Nat
  /-- a DOM_ARM whose zeroing is done or under way: its command, the agents kept, LOST and ZEROED -/
  arming : Option (Fin 4 × Nat)
  keep : Nat
  armLost : Nat
  armZeroed : Nat
  deriving DecidableEq, Repr

/-- A coherent region (R463). -/
structure Region' where
  id : Nat
  p : Fin 4
  dom : Nat
  tenant : Nat
  base : Nat
  bytes : Nat
  larder : Bool
  opening : Option Nat
  /-- the REGION_FREE that waits for it, and whether it goes at the next Bell -/
  freeing : Option Nat
  /-- every line is LOST: the directory was cleared (R477) -/
  allLost : Bool
  deriving DecidableEq, Repr

/-- Extent states (Table 16.6); `revoked`: freed by force in a frame (R475). -/
inductive ExtState where
  | pending | offered | active | releasing | leaving
  | revoked (frame : Nat)
  deriving DecidableEq, Repr

/-- An extent at its home. -/
structure Ext where
  id : Nat
  region : Nat
  holder : Nat
  rw : Bool
  offset : Nat
  bytes : Nat
  dpa : Nat
  st : ExtState
  /-- the host has given the capacity back (step 2 of R473) -/
  released : Bool
  /-- the command that waits on it -/
  cmd : Option (Fin 4 × Nat)
  /-- its domain and the address where it begins, which a revocation outlives its region with (R475) -/
  dom : Nat
  base : Nat
  deriving DecidableEq, Repr

/-- A snoop to a host agent: BISnpInv or BISnpData, and the frame it was sent in; none while it waits for a snoop credit. -/
structure Snoop where
  agent : Nat
  inv : Bool
  sent : Option Nat
  deriving DecidableEq, Repr

/-- What a transaction on a line is for. -/
inductive CohReq where
  | hostRd (mt : Meta) (agent tag : Nat)
  | hostWr (mt : Meta) (agent tag : Nat) (data : Bytes)
  /-- a recall for a part's or an engine's access, a release, a failure, or (`cap`) for room in the directory -/
  | recall (inv cap : Bool)
  deriving DecidableEq, Repr

/-- A transaction on a line, in order of arrival (R466); `after`: the line whose recall it waits for (R465). -/
structure Txn where
  line : Nat
  req : CohReq
  begun : Bool
  snoops : List Snoop
  after : Option Nat
  deriving DecidableEq, Repr

/-- The part's coherence state. -/
structure CohSt where
  doms : List Domain
  regions : List Region'
  exts : List Ext
  dir : Assoc DirEntry
  nextOrder : Nat
  txns : List Txn
  /-- peers' requests that wait for recalls: port and packet, in order of arrival -/
  waits : List (Nat × Packet)
  /-- at a bridge: extents that other parts home and whose holder is an LD of this part, by keeper, extent ID and LD (R495);
  the DCD events an LD has not answered; snoops delivered to a host and unanswered: home part, agent, line, LD -/
  hostExts : List (Nat × Nat × Nat)
  /-- the event logs of the logical devices: LD, kind (0 add, 1 release, 2 forced removal, 3 EXTENT_REVOKED), extent, count -/
  events : List (Nat × Nat × Nat × Nat)
  offers : List (Nat × Nat)
  asked : List (Nat × Nat × Nat × Nat)
  deriving DecidableEq, Repr

/-- No domain, no region, an empty directory. -/
def CohSt.reset : CohSt :=
  { doms := [], regions := [], exts := [], dir := [], nextOrder := 0, txns := [], waits := [], hostExts := [], events := [], offers := [], asked := [] }

end Sys2Proof.Machine
end

