-- ==== Sys2Proof/Machine/TypesSec.lean ====
section
/-!
DEFINITION. The data of the security block, the pins, power and the sideband, and Utertil mode (chapters 19 to 21).
-/

namespace Sys2Proof.Machine

/-! ### Security block -/

/-- What a verified image's header says: SVN, RAISE_FLOOR, VERSION (Table 19.2). -/
structure ImageFacts where
  svn : Nat
  raise : Bool
  version : Nat
  deriving DecidableEq, Repr

/-- The arming record of DBG_TOKEN (R550): the nonce and the token address. -/
structure ArmRecord where
  nonce : List Word
  addr : Nat
  deriving DecidableEq, Repr

/-- The states of an IDE stream (R552 to R554): no key, keys programmed and not yet started, Secure, Insecure. -/
inductive IdeState where
  | off | keyed | secure | insecure
  deriving DecidableEq, Repr

/-- An IDE stream of the host port and the key programmed into it. -/
structure IdeStream where
  state : IdeState
  key : Bytes
  deriving DecidableEq, Repr

/-- How far an SPDM connection has come (R547). -/
inductive SpdmConn where
  | none | version | capabilities | ready
  deriving DecidableEq, Repr

/-- A secured session: its ID, whether FINISH has come, key updates so far. -/
structure SpdmSession where
  t : Transport
  id : Nat
  open' : Bool
  updates : Nat
  deriving DecidableEq, Repr

/-- A large SPDM request being collected from chunks: handle, next sequence number, bytes. -/
structure SpdmChunk where
  t : Transport
  handle : Nat
  next : Nat
  data : Bytes
  deriving DecidableEq, Repr

/-- The security block's own state. -/
structure SecSt where
  /-- the boot store (Table 19.1), by offset -/
  store : Mem
  /-- the slot the boot under way tries, and whether it is the second one tried (R538) -/
  slot : Bool
  second : Bool
  /-- the booted loader, firmware and profile images -/
  booted : List ImageFacts
  /-- the measurement blocks 1 to 7 (Table 19.6) -/
  meas : List Bytes
  aliasCert : Bytes
  /-- SM3 of the applied debug token, or zeros -/
  token : Bytes
  armed : Option ArmRecord
  /-- whether the reset under way is cold, and whether the firmware has reported ready since it -/
  cold : Bool
  ready : Bool
  /-- events of kind SECURITY that wait for the Crier: event and slot or stream -/
  notes : List (Nat × Nat)
  /-- the staging under way: bundle address and length (R541) -/
  staging : Option (Nat × Nat)
  /-- an image written over the sideband is complete; the part waits for a power cycle (R580) -/
  imageDone : Bool
  ide : Vector IdeStream 5
  connSb : SpdmConn
  connDoe : SpdmConn
  sessions : List SpdmSession
  nextSession : Nat
  chunks : List SpdmChunk
  /-- large responses to be read by CHUNK_GET -/
  large : List SpdmChunk
  deriving DecidableEq, Repr

/-- The security block after reset, with an empty boot store. -/
def SecSt.reset : SecSt :=
  { store := [], slot := false, second := false, booted := [], meas := [], aliasCert := [], token := List.replicate 32 0,
    armed := none, cold := true, ready := false, notes := [], staging := none, imageDone := false,
    ide := Vector.replicate 5 ⟨.off, []⟩, connSb := .none, connDoe := .none, sessions := [], nextSession := 0, chunks := [],
    large := [] }

/-! ### Pins, power and sideband -/

/-- The pins of Tables 20.2 and 20.5, the sideband's addresses, and whether the main rails' clocks run. -/
structure PinSt where
  auxUp : Bool
  pwrGood : Bool
  /-- the two reset pins' and HOST_PERST_N's levels -/
  coldRst : Level
  warmRst : Level
  hostPerst : Level
  /-- FATAL_N and THERM_N pulled low -/
  fatalLow : Bool
  thermLow : Bool
  /-- every clock of the main rails is stopped (R560, R566) -/
  stopped : Bool
  /-- the straps SB_ADDR[2:0], the dynamic address assigned (R576) and the MCTP endpoint ID -/
  sbAddr : Nat
  i3c : Option Nat
  eid : Nat
  /-- the instruction last scanned into the debug port -/
  debugIr : Nat
  deriving DecidableEq, Repr

/-- The pins right after reset: VDD_AUX and PWR_GOOD up, nothing asserted, no address assigned. -/
def PinSt.reset : PinSt :=
  { auxUp := true, pwrGood := true, coldRst := .high, warmRst := .high, hostPerst := .high, fatalLow := false, thermLow := false,
    stopped := false, sbAddr := 0, i3c := none, eid := 0, debugIr := 0 }

/-- A power-cycle request over the sideband (R579): its reason, how often it has been sent, the RESET that waits for it. -/
structure CycleReq where
  reason : Nat
  sent : Nat
  cmd : Option (Fin 4 × Nat)
  deriving DecidableEq, Repr

/-- Power states and part-level conditions. -/
structure PwrSt where
  /-- the power state in force or being left (0 Run, 1 Rest, 2 Deep), and the target of a change under way -/
  state : Nat
  going : Option Nat
  /-- a request not yet acted on (R571): the latest -/
  want : Option Nat
  /-- Dark is wanted once Deep is entered (R572) -/
  dark : Bool
  cycle : Option CycleReq
  /-- a part-level fault holds the part: no further work is admitted (R507) -/
  halted : Bool
  /-- a SELF_TEST has posted with RESULT 0 or 1 since the last cold part reset (R529), and its RESULT -/
  tested : Bool
  /-- stacks under the grant limit of R567 -/
  hot : List Nat
  deriving DecidableEq, Repr

/-- In Run, nothing asked for. -/
def PwrSt.reset : PwrSt :=
  { state := 0, going := none, want := none, dark := false, cycle := none, halted := false, tested := false, hot := [] }

/-! ### Utertil mode -/

/-- A write of the Utertil table: ID, its state (1 live, 2 tombstoned), and BIAS and code of an insert. -/
structure UtWrite where
  id : Nat
  state : Nat
  body : Option (Nat × Bytes)
  deriving DecidableEq, Repr

/-- A partition's Utertil ring (chapter 21). -/
structure UtSt where
  /-- a bad packet has stopped the ring (R589) -/
  stopped : Bool
  /-- a write of TAIL has woken the Steward (R587) -/
  awake : Bool
  /-- a write has left TAIL or RHEAD past the end of its ring (R588) -/
  beyond : Bool
  /-- replies that wait for earlier ones (R590): command references and reply bytes -/
  held : List (Nat × Bytes)
  /-- entries committed, by commit frame, and not yet visible -/
  stage : List (Nat × List UtWrite)
  /-- a UT_CLEAR that posts at the next Bell -/
  clearing : Option Nat
  /-- the distances a SCAN has returned for a SEARCH: its reference, and ID and distance of each live ID (R592) -/
  scan : Option (Nat × List (Nat × Nat))
  deriving DecidableEq, Repr

/-- Nothing waiting. -/
def UtSt.reset : UtSt := { stopped := false, awake := false, beyond := false, held := [], stage := [], clearing := none, scan := none }

end Sys2Proof.Machine
end

