-- ==== Sys2Proof/Machine/State.lean ====
section
/-!
DEFINITION. The state of the part: registers, memories and every subsystem's data, the queue of waiting commands, and the
state right after a cold part reset.
-/

namespace Sys2Proof.Machine

/-- What one partition's Steward, Drover, Sorter and index hold. -/
structure PSys where
  /-- the command store, oldest first (R49) -/
  cmds : List Cmd
  nextRef : Nat
  landed : List Landed
  /-- by ring: packets accepted modulo the ring size give the next slot (R47) -/
  ringNext : Assoc Nat
  /-- by ring: the consumed count last written (R49) -/
  ringReported : Assoc Nat
  /-- posted commands whose changes are not all visible yet: ring, reference, and the Bell at which they are (R84) -/
  ringEffect : List (Nat × Nat × Nat)
  shareIn : List ShareIn
  shareWrites : List ShareWrite
  /-- results discarded under R79 and R601 -/
  discarded : Nat
  journal : List JournalEntry
  /-- CMD_SEQ the Steward gives its next share -/
  shareSeq : Nat
  shards : List Shard
  walks : List Walk
  sels : List Selection
  /-- expansions started in this frame: of the partition's own starts, and of starts that others passed on (R115) -/
  starts : Nat
  passed : Nat
  /-- by engine (1,024 × ENGINE_KIND + index): cycles of the frame's budget already spent or promised (R26, R28) -/
  charged : Assoc Nat
  /-- work of split commands not yet admitted: command, engine, cycles (R26) -/
  rest : List (Nat × Nat × Nat)
  stage : List Staged
  shares : List UpdShare
  /-- entries committed in this frame, and k of R129; those of ended frames that a cut-over still commits in (R161) -/
  committedN : Nat
  pastN : Assoc Nat
  /-- commands admitted so far: the next one's place in the order of admission (R291) -/
  admits : Nat
  /-- expansions started so far: the next one's age (R397) -/
  reads : Nat
  /-- records the repair sweep has read in this frame (R146) -/
  swept : Nat
  repair : List RepairItem
  repairDropped : Nat
  migs : List Migration
  faults : FaultSt
  text : TextSt
  mill : MillSt
  tables : List Table
  /-- transfers that run, and tallies that wait for the writes of earlier transfers of a channel (R414) -/
  dma : List DmaRun
  dmaTally : List (Nat × Nat × Nat)
  ingests : List Ingest
  ut : UtSt
  deriving DecidableEq, Repr

/-- Everything but the memories, the registers, the fuses and the queue. -/
structure Sys where
  bell : BellSt
  part : Vector PSys 4
  colls : List Coll
  fab : FabricSt
  coh : CohSt
  bind : BindSt
  /-- Crier: next SEQ, notices sent this frame, notices left out this frame and the first kind left out (R513, R514) -/
  crierSeq : Nat
  noticesSent : Nat
  noticesOut : Nat
  noticesFirst : Nat
  /-- poisoned 64-byte lines of Loft and Pantry and poisoned codewords of the Cellar window, by first byte (R352, R384) -/
  poison : List Nat
  stks : Vector StackSt 24
  chans : Vector Channel 32
  sec : SecSt
  pin : PinSt
  pwr : PwrSt
  /-- by stack: pairs compared and lines written since the counts of STK_WORK last rose (units of 1,024) -/
  pairsRem : Assoc Nat
  linesRem : Assoc Nat
  /-- shapers and meters written since the last Bell step (R452) -/
  touched : List RegKey
  /-- bytes of committed updates that a warm part reset caught before they were applied; they are at the next Bell step
  (Table 18.7) -/
  late : List (Nat × Byte)
  /-- what has left the part, newest first -/
  out : List Out
  /-- the model's own counter of free values used (log entry 4) -/
  free : Nat
  deriving DecidableEq, Repr

/-- The fuse array (R501): the settings of Table 17.8, fixed for the part's life. -/
structure Fuses where
  isolation : Nat
  utertilAllow : Bool
  debugLock : Bool
  hostAllow : Bool
  maxTenants : Nat
  /-- the root key digest, four words (Table 17.13) -/
  digest : List Word
  /-- units the unit-disable map takes away: KIND and index of Table 17.1 -/
  disabled : List (Nat × Nat)
  /-- the set points of the VID rails in mV: VDD_BASE, VDD_HUB, VDD_MILL0, VDD_MILL1 (R558) -/
  vid : List Nat
  deriving DecidableEq, Repr

/-- The state of the machine. -/
structure State where
  /-- the commands that wait, first in, first out -/
  pending : List Instr
  fuse : Fuses
  /-- Loft and Pantry, by local address -/
  mem : Mem
  /-- command windows, by partition × 4 MiB + window offset -/
  win : Mem
  /-- the Cellar window's data, by local address -/
  cellar : Mem
  /-- registers as they read -/
  regs : RegFile
  /-- registers in force, where a write takes effect at the next Bell -/
  live : RegFile
  sys : Sys
  deriving DecidableEq, Repr

/-- No fault stops this block: it has no instruction stream of its own. Nothing raises one (safe). -/
inductive Fault where
  /-- never raised -/
  | unused
  deriving DecidableEq, Repr

/-- Why a command is not run. -/
inductive Refusal where
  /-- raised by a `Dispatch.lean` arm of a command that has no meaning yet (safe: the machine stops) -/
  | notModelled (mnemonic : String)
  deriving DecidableEq, Repr

/-- A partition's data right after reset: empty (Table 18.7). -/
def PSys.reset : PSys :=
  { cmds := [], nextRef := 0, landed := [], ringNext := [], ringReported := [], ringEffect := [], shareIn := [],
    shareWrites := [], discarded := 0, journal := [], shareSeq := 0, shards := [], walks := [], sels := [], starts := 0, passed := 0, charged := [], rest := [],
    stage := [], shares := [], committedN := 0, pastN := [], admits := 0, reads := 0, swept := 0, repair := [], repairDropped := 0, migs := [],
    faults := { records := [], nextSeq := 1, dump := none, mirror := none, mirroring := false, day := [], nextLsn := 1 },
    text := TextSt.reset, mill := MillSt.reset, tables := [], dma := [], dmaTally := [], ingests := [], ut := UtSt.reset }

/-- A port after reset: nothing held. -/
def Port.reset : Port :=
  { nextSeq := 0, lastGood := 0, awaitReplay := false, replays := 0, replaySeq := 0, sent := [], tx := [], prog := [], used := [], turn := [], wrr := [] }

/-- The fabric after reset. -/
def FabricSt.reset : FabricSt :=
  { ports := Vector.replicate 12 Port.reset, routes := [], routesLive := [], peers0 := [], peers1 := [], peers0Live := [],
    peers1Live := [], rx := [], outst := [], nextTag := 0, held := [], waiting := [], lastParts := [], credits := [], lent := [], asks := [] }

/-- Everything right after a cold part reset. -/
def Sys.reset : Sys :=
  { bell := { announced := [], source := none, adopted := false, armed := false, pin := none },
    part := Vector.replicate 4 PSys.reset, colls := [], fab := FabricSt.reset, coh := CohSt.reset,
    bind := { units := [], rebinds := [], keeping := [], heldMaps := [], nextSeq := 0, ledger := [], snapshot := [] },
    crierSeq := 1, noticesSent := 0, noticesOut := 0, noticesFirst := 0, poison := [], stks := Vector.replicate 24 StackSt.reset,
    chans := Vector.replicate 32 Channel.empty, sec := SecSt.reset, pin := PinSt.reset, pwr := PwrSt.reset, pairsRem := [], linesRem := [], touched := [], late := [], out := [], free := 0 }

/-- The fuses of the machine that `State.reset` describes (DESIGN CHOICE, log entry 1: the spec says "fused"). -/
def Fuses.reset : Fuses :=
  { isolation := 0, utertilAllow := false, debugLock := true, hostAllow := true, maxTenants := 4096, digest := [0, 0, 0, 0],
    disabled := [], vid := [750, 750, 750, 750] }

/-- The part right after a cold part reset, PWR_GOOD high, before the ROM stage. -/
def State.reset : State :=
  { pending := [], fuse := Fuses.reset, mem := [], win := [], cellar := [], regs := [], live := [], sys := Sys.reset }

end Sys2Proof.Machine
end

