-- ==== Sys2Proof/Machine/Upd.lean ====
section
/-!
DEFINITION. The invariant of the state and the ways a command may change it. An `Upd` is a function on states together
with the proof that it keeps the invariant, the fuses (R501) and the queue; every meaning is built from these few.
-/

namespace Sys2Proof.Machine

/-- The memories keep their canonical form; reserved and write-only bits of every register are 0 (R7). -/
structure Inv (s : State) : Prop where
  mem : Memory.wf s.mem
  win : Memory.wf s.win
  cellar : Memory.wf s.cellar
  regs : RegFile.wf s.regs
  live : RegFile.wf s.live

/-- What every change by a command respects. -/
structure Keeps (s t : State) : Prop where
  inv : Inv s → Inv t
  fuse : t.fuse = s.fuse
  pending : t.pending = s.pending

/-- A change of the state by a command. -/
structure Upd where
  run : State → State
  keeps : ∀ s, Keeps s (run s)

theorem Keeps.refl (s : State) : Keeps s s := ⟨id, rfl, rfl⟩

theorem Keeps.trans {a b c : State} (h : Keeps a b) (k : Keeps b c) : Keeps a c :=
  ⟨fun i => k.inv (h.inv i), k.fuse.trans h.fuse, k.pending.trans h.pending⟩

namespace Upd

/-- No change. -/
def skip : Upd := ⟨id, Keeps.refl⟩

/-- One change after another. -/
def andThen (a b : Upd) : Upd := ⟨fun s => b.run (a.run s), fun s => (a.keeps s).trans (b.keeps (a.run s))⟩

/-- A change chosen by the state it acts on. -/
def read (g : State → Upd) : Upd := ⟨fun s => (g s).run s, fun s => (g s).keeps s⟩

/-- Several changes, first to last. -/
def seq : List Upd → Upd
  | [] => skip
  | [a] => a
  | a :: r => andThen a (seq r)

/-- A change for each element of a list, first to last. -/
def each {α : Type} : List α → (α → Upd) → Upd
  | [], _ => skip
  | x :: r, f => andThen (f x) (each r f)

/-- A change made only under a condition. -/
def when (c : Bool) (a : Upd) : Upd := if c then a else skip

/-- A change of the subsystems' data. -/
def sys (f : Sys → Sys) : Upd :=
  ⟨fun s => { s with sys := f s.sys }, fun _ => ⟨fun i => ⟨i.mem, i.win, i.cellar, i.regs, i.live⟩, rfl, rfl⟩⟩

/-- A change of one partition's data. -/
def part (p : Fin 4) (f : PSys → PSys) : Upd := sys fun y => { y with part := updAt y.part p f }

/-- Bytes written to the Loft or the Pantry. -/
def memWrite (a : Nat) (bs : Bytes) : Upd :=
  ⟨fun s => { s with mem := Mem.writeBytes s.mem a bs },
   fun _ => ⟨fun i => ⟨Mem.writeBytes_wf i.mem _ _, i.win, i.cellar, i.regs, i.live⟩, rfl, rfl⟩⟩

/-- Zeros over a range of the Loft or the Pantry. -/
def memZero (a n : Nat) : Upd :=
  ⟨fun s => { s with mem := Mem.zero s.mem a n },
   fun _ => ⟨fun i => ⟨Mem.zero_wf i.mem _ _, i.win, i.cellar, i.regs, i.live⟩, rfl, rfl⟩⟩

/-- A range of the Loft or the Pantry made equal to a range of a memory read from the state before. -/
def memCopy (dst : Nat) (frm : State → Mem) (src n : Nat) : Upd :=
  ⟨fun s => { s with mem := Mem.copyFrom s.mem dst (frm s) src n },
   fun _ => ⟨fun i => ⟨Mem.copyFrom_wf i.mem _ _ _ _, i.win, i.cellar, i.regs, i.live⟩, rfl, rfl⟩⟩

/-- Bytes written to the command windows. -/
def winWrite (a : Nat) (bs : Bytes) : Upd :=
  ⟨fun s => { s with win := Mem.writeBytes s.win a bs },
   fun _ => ⟨fun i => ⟨i.mem, Mem.writeBytes_wf i.win _ _, i.cellar, i.regs, i.live⟩, rfl, rfl⟩⟩

/-- Zeros over a range of the command windows. -/
def winZero (a n : Nat) : Upd :=
  ⟨fun s => { s with win := Mem.zero s.win a n },
   fun _ => ⟨fun i => ⟨i.mem, Mem.zero_wf i.win _ _, i.cellar, i.regs, i.live⟩, rfl, rfl⟩⟩

/-- Flash data placed at a window range. -/
def cellarCopy (dst : Nat) (frm : State → Mem) (src n : Nat) : Upd :=
  ⟨fun s => { s with cellar := Mem.copyFrom s.cellar dst (frm s) src n },
   fun _ => ⟨fun i => ⟨i.mem, i.win, Mem.copyFrom_wf i.cellar _ _ _ _, i.regs, i.live⟩, rfl, rfl⟩⟩

/-- Flash data of a window range taken away. -/
def cellarZero (a n : Nat) : Upd :=
  ⟨fun s => { s with cellar := Mem.zero s.cellar a n },
   fun _ => ⟨fun i => ⟨i.mem, i.win, Mem.zero_wf i.cellar _ _, i.regs, i.live⟩, rfl, rfl⟩⟩

/-- A register set, reserved bits staying 0. -/
def reg (r : R) (p : Fin 4) (i : Nat) (v : Word) : Upd :=
  ⟨fun s => { s with regs := RegFile.put s.regs r p i v },
   fun _ => ⟨fun h => ⟨h.mem, h.win, h.cellar, RegFile.put_wf h.regs _ _ _ _, h.live⟩, rfl, rfl⟩⟩

/-- A register's value in force set to its value. -/
def goLive (r : R) (p : Fin 4) (i : Nat) : Upd :=
  ⟨fun s => { s with live := RegFile.put s.live r p i (RegFile.get s.regs r p i) },
   fun _ => ⟨fun h => ⟨h.mem, h.win, h.cellar, h.regs, RegFile.put_wf h.live _ _ _ _⟩, rfl, rfl⟩⟩

/-- Every register's value in force set to its value. -/
def allLive : Upd :=
  ⟨fun s => { s with live := s.regs }, fun _ => ⟨fun h => ⟨h.mem, h.win, h.cellar, h.regs, h.regs⟩, rfl, rfl⟩⟩

/-- Registers that satisfy a test returned to their reset values, in both files. -/
def regReset (t : RegKey → Bool) : Upd :=
  ⟨fun s => { s with regs := s.regs.filter (fun c => !(t c.1)), live := s.live.filter (fun c => !(t c.1)) },
   fun _ => ⟨fun h => ⟨h.mem, h.win, h.cellar, fun c hc => h.regs c (List.mem_filter.mp hc).1,
      fun c hc => h.live c (List.mem_filter.mp hc).1⟩, rfl, rfl⟩⟩

/-- The Loft's bytes that satisfy a test lost: they read 0. -/
def memDrop (t : Nat → Bool) : Upd :=
  ⟨fun s => { s with mem := s.mem.filter (fun c => !(t c.1)) },
   fun _ => ⟨fun i => ⟨⟨filter_rising i.mem.1 _, fun c hc => i.mem.2 c (List.mem_filter.mp hc).1⟩, i.win, i.cellar,
      i.regs, i.live⟩, rfl, rfl⟩⟩

/-- The next free value, given to what follows. -/
def fresh (g : Word → Upd) : Upd :=
  read fun s => andThen (sys fun y => { y with free := y.free + 1 }) (g (Config.free s.sys.free))

/-- The outcome of a command of the main rails: the next state; nothing happens while their clocks are stopped (R560, R566). -/
def go (u : Upd) (s : State) : Host.Outcome State Fault Refusal := .next (if s.sys.pin.stopped then s else u.run s)

/-- The outcome of a command of what VDD_AUX feeds: pins, sideband, security block. -/
def goAux (u : Upd) (s : State) : Host.Outcome State Fault Refusal := .next (u.run s)

@[simp] theorem skip_run (s : State) : skip.run s = s := rfl
@[simp] theorem andThen_run (a b : Upd) (s : State) : (andThen a b).run s = b.run (a.run s) := rfl
@[simp] theorem read_run (g : State → Upd) (s : State) : (read g).run s = (g s).run s := rfl
@[simp] theorem seq_nil (s : State) : (seq []).run s = s := rfl
@[simp] theorem seq_one (a : Upd) (s : State) : (seq [a]).run s = a.run s := rfl
@[simp] theorem seq_cons (a b : Upd) (r : List Upd) (s : State) :
    (seq (a :: b :: r)).run s = (seq (b :: r)).run (a.run s) := rfl
@[simp] theorem each_nil {α : Type} (f : α → Upd) (s : State) : (each [] f).run s = s := rfl
@[simp] theorem each_cons {α : Type} (x : α) (r : List α) (f : α → Upd) (s : State) :
    (each (x :: r) f).run s = (each r f).run ((f x).run s) := rfl
@[simp] theorem when_true (a : Upd) (s : State) : (when true a).run s = a.run s := rfl
@[simp] theorem when_false (a : Upd) (s : State) : (when false a).run s = s := rfl
theorem go_eq (u : Upd) (s : State) : go u s = .next (if s.sys.pin.stopped then s else u.run s) := rfl
@[simp] theorem goAux_eq (u : Upd) (s : State) : goAux u s = .next (u.run s) := rfl

end Upd

end Sys2Proof.Machine
end

