-- ==== Sys2Proof/Machine/Ops.lean ====
section
/-!
DEFINITION. The operations every command shares: register reads and writes, the address map and who may reach it, memory
reads and writes with poison, memory errors, fault records and notices.
-/

namespace Sys2Proof.Machine

/-! ### Registers -/

/-- A register as it reads. -/
def rd (s : State) (r : R) (p : Fin 4) (i : Nat := 0) : Word := RegFile.get s.regs r p i

/-- A register in force. -/
def lv (s : State) (r : R) (p : Fin 4) (i : Nat := 0) : Word := RegFile.get s.live r p i

/-- A register changed by a function of its value. -/
def regMod (r : R) (p : Fin 4) (i : Nat) (f : Word → Word) : Upd := .read fun s => .reg r p i (f (rd s r p i))

/-- A register set and in force at once. -/
def regNow (r : R) (p : Fin 4) (i : Nat) (f : Word → Word) : Upd := .seq [regMod r p i f, .goLive r p i]

/-- A field of a register raised by n, saturating. -/
def regCount (r : R) (p : Fin 4) (i hi lo n : Nat) : Upd :=
  regMod r p i fun w => setFld w hi lo (satAdd (hi - lo + 1) (fld w hi lo) n)

/-- A bit of a register set. -/
def regSetBit (r : R) (p : Fin 4) (i b : Nat) : Upd := regMod r p i fun w => setBit w b true

/-- The partitions. -/
def allP : List (Fin 4) := [0, 1, 2, 3]

/-- A number as a partition. -/
def toP (n : Nat) : Fin 4 := Fin.ofNat 4 n

/-- The frame count n (R10). -/
def frameNow (s : State) : Nat := fld (rd s .frameCount 0) 47 0

/-- The Bell period in force, µs. -/
def bellUs (s : State) : Nat := fld (rd s .frameStatus 0) 8 0

/-- The part's ID (0xF_FFFF: unassigned, R425). -/
def partId (s : State) : Nat := fld (rd s .fabId 0) 19 0

/-- One partition's data. -/
def psys (s : State) (p : Fin 4) : PSys := s.sys.part.get p

/-! ### Status codes (Table 2.14) -/

def stOk : Nat := 0x0000
def stShort : Nat := 0x0001
def stSuperseded : Nat := 0x0002
def stRetry : Nat := 0x0010
def stTimeout : Nat := 0x0011
def stRevoked : Nat := 0x0012
def stPoisoned : Nat := 0x0013
def stBadOpcode : Nat := 0x0020
def stBadParam : Nat := 0x0021
def stNotBound : Nat := 0x0022
def stContextReset : Nat := 0x0030
def stEngineReset : Nat := 0x0031
def stPartitionReset : Nat := 0x0032
def stDomainFailed : Nat := 0x00F0

/-- The codes of Table 2.14, in order of precedence. -/
def statusOrder : List Nat :=
  [stPartitionReset, stEngineReset, stContextReset, stTimeout, stDomainFailed, stRevoked, stPoisoned, stBadOpcode,
   stNotBound, stBadParam, stRetry, stSuperseded, stShort, stOk]

/-- A status's place in Table 2.14; a code outside it comes last. -/
def statusRank (c : Nat) : Nat := (statusOrder.findIdx? (· == c)).getD 14

/-- Whether a status precedes OK_SHORT in Table 2.14 (R124). -/
def statusFails (c : Nat) : Bool := statusRank c < 12

/-! ### Units and tenants (Table 17.1, R485) -/

/-- The key of a unit: its KIND and index. -/
def unitKey (kind idx : Nat) : Nat := kind * 1048576 + idx

/-- How many units of a KIND the part has, by index. -/
def unitCount (kind : Nat) : Nat :=
  match kind with
  | 1 => 192 | 2 => 64 | 3 => 3072 | 4 => 32 | 5 => 16 | 6 => 4 | 7 => 48 | 8 => 16 | 9 => 256 | 10 => 128 | 11 => 16
  | _ => 0

/-- Whether an index names a unit of a KIND: a Loft grain is one of 127 of its stack, a port class 1 to 3. -/
def unitExists (kind idx : Nat) : Bool :=
  idx < unitCount kind && (kind != 3 || idx % 128 != 127) && (kind != 7 || idx % 4 != 0)

/-- A unit. Unlisted: unbound, but rings and host logical devices bound to tenant 0 (R489); fused off: DISABLED. -/
def unit (s : State) (kind idx : Nat) : BUnit :=
  if s.fuse.disabled.contains (kind, idx) then ⟨.disabled, 0, 0, 0⟩
  else (aget s.sys.bind.units (unitKey kind idx)).getD
    (if kind = 10 ∨ kind = 11 then ⟨.bound, 0, 0, 0⟩ else ⟨.unbound, 0, 0, 0⟩)

/-- Whether a unit serves a tenant now. -/
def unitServes (s : State) (kind idx tenant : Nat) : Bool :=
  let u := unit s kind idx
  u.state == .bound && u.tenant == tenant

/-- Whether a unit serves the work of a tenant that runs: bound to it, or drained of its work with the drain not yet at its end
(Table 17.4). -/
def unitHolds (s : State) (kind idx tenant : Nat) : Bool :=
  let u := unit s kind idx
  u.tenant == tenant && (u.state == .bound ||
    (u.state == .draining && !(s.sys.bind.rebinds.any fun r => r.drained && r.units.any fun x => x.1 == kind && x.2.1 == idx)))

/-- Whether a hub Sieve lane group of a partition serves a tenant (R485, R487). -/
def lanesServe (s : State) (p : Fin 4) (tenant : Nat) : Bool := (List.range 4).any fun l => unitServes s 5 (4 * p.val + l) tenant

/-- The partition a unit belongs to (R486); part-level units answer 0. -/
def unitPartition (s : State) (kind idx : Nat) : Nat :=
  match kind with
  | 1 => idx / 48 | 2 => idx / 16 | 3 => idx / 128 / 6 | 4 => idx / 8 | 5 => idx / 4 | 6 => idx | 8 => (unit s 8 idx).partition
  | 9 => idx / 64 | 10 => idx / 32 | _ => 0

/-- The indices of the units of a KIND in a partition that are bound to a tenant. -/
def unitsBound (s : State) (kind : Nat) (p : Fin 4) (tenant : Nat) : List Nat :=
  (List.range (unitCount kind)).filter fun i =>
    unitExists kind i && unitServes s kind i tenant && unitPartition s kind i == p.val

/-- Whether a tenant has any unit bound in a partition. -/
def tenantIn (s : State) (p : Fin 4) (tenant : Nat) : Bool :=
  s.sys.bind.units.any (fun c =>
    c.2.state == .bound && c.2.tenant == tenant && unitPartition s (c.1 / 1048576) (c.1 % 1048576) == p.val) ||
  (List.range 32).any (fun r => unitServes s 10 (32 * p.val + r) tenant)

/-! ### The address map (Table 10.1) -/

/-- The rows of Table 10.1 that hold something. -/
inductive Region where
  | loft | utertil | pantry | control | cellar | none
  deriving DecidableEq, Repr

/-- Row boundaries of Table 10.1: first address and length. -/
def regionOf (a : Nat) : Region :=
  if a < 0x18000000000 then .loft
  else if 0x1F000000000 ≤ a ∧ a < 0x1F100000000 then .utertil
  else if 0x20000000000 ≤ a ∧ a < 0x20008000000 then .pantry
  else if 0x30000000000 ≤ a ∧ a < 0x30004000000 then .control
  else if 0x1000000000000 ≤ a ∧ a < 0x2000000000000 then .cellar
  else .none

/-- The number of an address's row of Table 10.1: two addresses of one row agree. -/
def rowOf (a : Nat) : Nat :=
  match regionOf a with
  | .loft => 0 | .utertil => 1 | .pantry => 2 | .control => 3 | .cellar => 4
  | .none =>
    if a < 0x1F000000000 then 5 else if a < 0x20000000000 then 6 else if a < 0x20020000000 then 7
    else if a < 0x30000000000 then 8 else if a < 0x1000000000000 then 9 else 10

/-- Whether a range stays in one row of Table 10.1 (R311). -/
def oneRow (a n : Nat) : Bool := n == 0 || rowOf a == rowOf (a + n - 1)

/-- The backing address of a Utertil window address while its partition has ENABLE set (R315, R584); others unchanged. -/
def unalias (s : State) (a : Nat) : Nat :=
  if regionOf a = .utertil then
    let p := toP ((a - 0x1F000000000) / 0x40000000)
    if bit (lv s .utCtl p) 63 then fld (lv s .utBase p) 49 30 * 0x40000000 + a % 0x40000000 else a
  else a

/-- Stack of a Loft address (R313). -/
def stackOf (a : Nat) : Nat := a / 0x1000000000

/-- Whether a Loft address lies in the top 512 MiB of its stack (R314). -/
def isReserved (a : Nat) : Bool := regionOf a == .loft && 0xFE0000000 ≤ a % 0x1000000000

/-- The way of a Pantry address (R316). -/
def wayOf (a : Nat) : Nat := (a - 0x20000000000) / 0x800000

/-- The flash set of a Cellar window address: the number of its lowest channel (R385, Table 17.1). -/
def flashSetOf (s : State) (a : Nat) : Nat :=
  let p := (a - 0x1000000000000) / 0x400000000000
  let j := a % 0x400000000000 / 0x80000000000
  let w := (s.sys.chans.get (Fin.ofNat 32 (8 * p + j))).w
  8 * p + j / w * w

/-- The channel of a Cellar window address (R385). -/
def channelOf (s : State) (a : Nat) : Nat :=
  let k := flashSetOf s a
  let w := (s.sys.chans.get (Fin.ofNat 32 k)).w
  k + a % 0x400000000000 % (w * 0x80000000000) / 0x400000 % w

/-- The channel's unit index of a Cellar window address (R385). -/
def unitIdxOf (s : State) (a : Nat) : Nat :=
  let w := (s.sys.chans.get (Fin.ofNat 32 (flashSetOf s a))).w
  a % 0x400000000000 % (w * 0x80000000000) / 0x400000 / w

/-- STK_STATUS.STATE of a stack and FL_STATUS.STATE of a channel. -/
def stackState (s : State) (k : Nat) : Nat := fld (rd s .stkStatus (toP (k / 6)) (k % 6)) 55 52
def chanState (s : State) (c : Nat) : Nat := fld (rd s .flStatus (toP (c / 8)) (c % 8)) 59 56

/-- Whether a stack's tenant-usable memory is populated: not FAILED, and no FILL or TEST runs (R356, R374). -/
def stackUp (s : State) (k : Nat) : Bool := stackState s k != 5 && (s.sys.stks.get (Fin.ofNat 24 k)).fill.isNone

/-- Whether a channel's window addresses are populated: not UNFORMATTED or FAILED (R382). -/
def chanUp (s : State) (c : Nat) : Bool := chanState s c != 3 && chanState s c != 4

/-- Whether the channels of a Cellar range are populated: a range takes its set's channels in turn. -/
def cellarUp (s : State) (a n : Nat) : Bool :=
  (List.range (min 8 ((a + n - 1) / 0x400000 - a / 0x400000 + 1))).all fun i => chanUp s (channelOf s (a + i * 0x400000))

/-- The partition that owns an address (Table 10.3, R316): none for control space, an unbound way or no memory. -/
def ownerOf (s : State) (a : Nat) : Option (Fin 4) :=
  match regionOf a with
  | .loft => some (toP (stackOf a / 6))
  | .pantry => let u := unit s 8 (wayOf a); if u.state = .bound ∨ u.state = .draining then some (toP u.partition) else none
  | .cellar => some (toP ((a - 0x1000000000000) / 0x400000000000))
  | _ => none

/-- Whether the unit that holds an address serves: not part-reserved, populated, and serving by `serves` of KIND and index. -/
def cellBy (s : State) (serves : Nat → Nat → Bool) (a : Nat) : Bool :=
  match regionOf a with
  | .loft => !(isReserved a) && stackUp s (stackOf a) && serves 3 (128 * stackOf a + a % 0x1000000000 / 0x20000000)
  | .pantry => serves 8 (wayOf a)
  | .cellar => serves 4 (flashSetOf s a)
  | _ => false

/-- Whether an address is bound to a tenant (R353, R485), for work that begins. -/
def cellBound (s : State) (tenant a : Nat) : Bool := cellBy s (fun k i => unitServes s k i tenant) a

/-- Whether an address serves a tenant's work that runs (Table 17.4). -/
def cellHolds (s : State) (tenant a : Nat) : Bool := cellBy s (fun k i => unitHolds s k i tenant) a

/-- The bytes of an address's bindable unit: a range is bound when each unit it touches is. -/
def grainBytes (a : Nat) : Nat :=
  match regionOf a with
  | .loft => 0x20000000 | .pantry => 0x800000 | .cellar => 0x400000 | _ => 0x800000

/-- Whether a whole range serves: one row, and every unit it touches (the range's units are walked by their size; a range in the Cellar window of one set is one step per set). -/
def rangeBy (s : State) (cell : Nat → Bool) (a n : Nat) : Bool :=
  if n = 0 then cell a
  else
    let g := if regionOf a = .cellar then 0x80000000000 else grainBytes a
    oneRow a n && (regionOf a != .cellar || cellarUp s a n) && (List.range ((a + n - 1) / g - a / g + 1)).all fun i =>
      cell (if i = 0 then a else (a / g + i) * g)

/-- Whether a whole range is bound to a tenant, and whether it serves a tenant's work that runs. -/
def rangeBound (s : State) (tenant a n : Nat) : Bool := rangeBy s (cellBound s tenant) a n
def rangeHolds (s : State) (tenant a n : Nat) : Bool := rangeBy s (cellHolds s tenant) a n

/-- Whether partition p's engines may reach memory of the owner of an address for a tenant (R15): its own, or, when the
ISOLATION fuse is TENANT, another partition's that is bound to the same tenant. -/
def crossOk (s : State) (p : Fin 4) (a : Nat) : Bool :=
  match ownerOf s a with
  | some q => q == p || s.fuse.isolation == 1
  | none => false

/-! ### Memory -/

/-- Bytes of the Loft, the Pantry or the Cellar window (R320: unmapped flash reads 0). -/
def memBytes (s : State) (a n : Nat) : Bytes :=
  let b := unalias s a
  if regionOf b = .cellar then Mem.readBytes s.cellar b n else Mem.readBytes s.mem b n

/-- A little-endian number read from memory. -/
def memLE (s : State) (a n : Nat) : Nat := leNat (memBytes s a n)

/-- Lines a range touches. -/
def linesOf (unit a n : Nat) : List Nat :=
  if n = 0 then [] else (List.range ((a + n - 1) / unit - a / unit + 1)).map fun i => (a / unit + i) * unit

/-- The first poisoned line (or Cellar codeword) a range touches (R352, R384). -/
def poisonIn (s : State) (a n : Nat) : Option Nat :=
  let b := unalias s a
  let u := if regionOf b = .cellar then 512 else 64
  if n = 0 then none else s.sys.poison.find? fun l => b / u * u ≤ l && l < b + n

/-- Lines read-modified-written by a stack's engine counted. -/
def stackLines (k n : Nat) : Upd :=
  .read fun s =>
    let r := (aget s.sys.linesRem k).getD 0 + n
    .when (n != 0) (.seq [.sys fun y => { y with linesRem := aset y.linesRem k (r % 1024) },
      regCount .stkWork (toP (k / 6)) (k % 6) 31 0 (r / 1024)])

/-- Lines of 64 bytes that a write of n bytes touches in part: the stack engine's WRITE (Table 11.3). -/
def partLines (a n : Nat) : Nat :=
  if n = 0 then 0
  else if a / 64 = (a + n - 1) / 64 then (if n = 64 then 0 else 1)
  else (if a % 64 = 0 then 0 else 1) + (if (a + n) % 64 = 0 then 0 else 1)

/-- The Loft address that backs a partition's quarter of the Utertil window (R584). -/
def utBaseOf (s : State) (p : Fin 4) : Nat := fld (lv s .utBase p) 49 30 * 0x40000000

/-- A ring word of a quarter: 8 bytes, big-endian (Table 21.2). -/
def utWord (s : State) (p : Fin 4) (off : Nat) : Nat := beNat (Mem.readBytes s.mem (utBaseOf s p + off) 8)

/-- What a write performed to the Loft does to the Utertil rings (R587, R588): one of TAIL wakes the Steward; one that leaves TAIL or
RHEAD beyond its ring is noted. -/
def utTouch (a n : Nat) : Upd :=
  .read fun s => .each (allP.filter fun p => bit (lv s .utCtl p) 63 && decide (a < utBaseOf s p + 32) && decide (utBaseOf s p < a + n)) fun p =>
    let b := utBaseOf s p
    let tail := decide (a < b + 8) && decide (b < a + n)
    let rhead := decide (a < b + 32) && decide (b + 24 < a + n)
    let beyond := (tail && decide (131072 ≤ utWord s p 0)) || (rhead && decide (131072 ≤ utWord s p 24))
    .part p fun y => { y with ut := { y.ut with awake := y.ut.awake || tail, beyond := y.ut.beyond || beyond } }

/-- Bytes placed in the Loft or the Pantry; a line written whole loses its poison (R352). -/
def memPut (a : Nat) (bs : Bytes) : Upd :=
  .read fun s =>
    let b := unalias s a
    .seq [.memWrite b bs, utTouch b bs.length,
      .when (s.sys.poison.any fun l => b ≤ l && l + 64 ≤ b + bs.length)
        (.sys fun y => { y with poison := y.poison.filter fun l => !(b ≤ l && l + 64 ≤ b + bs.length) })]

/-- Bytes stored in the Loft or the Pantry; the stack engine's part-line writes count (R366, Table 11.10). -/
def memStore (a : Nat) (bs : Bytes) : Upd :=
  .seq [memPut a bs,
    .read fun s => .when (regionOf (unalias s a) == .loft) (stackLines (stackOf (unalias s a)) (partLines (unalias s a) bs.length))]

/-- Bytes of unspecified contents: free values numbered from `seed`. -/
def freeBytes (n seed : Nat) : Bytes := (List.range n).map fun i => BitVec.ofNat 8 (Config.pick (seed + i) 256)

/-- A line poisoned. -/
def poisonLine (l : Nat) : Upd :=
  .sys fun y => if y.poison.contains l then y else { y with poison := l :: y.poison }

/-- SOURCE codes of MEM_ERR_ADDR (Table 10.14). -/
def sourceCode : Agent → Nat
  | .steward => 0 | .dma => 1 | .mill => 2 | .stackEngine => 3 | .drover => 4 | .sieve => 5 | .host _ => 6 | .port _ => 7
  | .text => 8

/-- The kinds of error the memory block records (Tables 10.13 and 10.15). -/
inductive MemErr where
  | poison | cellarWrite | unmapped | ctlSize
  deriving DecidableEq, Repr

/-- An error recorded in a partition's memory block: flag, count, address and source (R352, R353, R354). -/
def memErr (e : MemErr) (p : Fin 4) (source addr : Nat) : Upd :=
  let (b, hi, lo) := match e with
    | .poison => (63, 63, 48) | .cellarWrite => (62, 47, 32) | .unmapped => (61, 31, 16) | .ctlSize => (60, 15, 0)
  .seq [regSetBit .memErrStatus p 0 b, regCount .memErrCount p 0 hi lo 1,
    regMod .memErrAddr p 0 fun w => setFld (setFld w 63 60 source) 49 0 addr]

/-- The block that records an error of a host or a peer: the partition that owns the address, or P0 (chapter 10). -/
def errBlock (s : State) (w : Issuer) (a : Nat) : Fin 4 :=
  match w.agent with
  | .host _ | .port _ => (ownerOf s a).getD 0
  | _ => w.partition

/-- How an access by the work of a tenant in a partition is met (R15, R311, R319, R353). -/
inductive Access where
  | ok | unmapped | cellarWrite
  deriving DecidableEq, Repr

def accessBy (s : State) (p : Fin 4) (serves : Nat → Nat → Bool) (a n : Nat) (write : Bool) : Access :=
  let b := unalias s a
  if write ∧ regionOf b = .cellar ∧ oneRow b n then .cellarWrite
  else if oneRow b n ∧ serves b n ∧ crossOk s p b then .ok
  else .unmapped

/-- The check of a local access of an engine whose work runs. -/
def access (s : State) (p : Fin 4) (tenant a n : Nat) (write : Bool) : Access := accessBy s p (rangeHolds s tenant) a n write

/-- The check of memory that work which begins is to use: a unit that drains does not serve it (Table 17.4). -/
def accessNew (s : State) (p : Fin 4) (tenant a n : Nat) (write : Bool) : Access := accessBy s p (rangeBound s tenant) a n write

/-- The Ledger's running counter i of a tenant raised (R499). -/
def ledger (tenant i n : Nat) : Upd :=
  if n = 0 then .skip
  else .sys fun y => { y with bind := { y.bind with
    ledger := aset y.bind.ledger (16 * tenant + i) (((aget y.bind.ledger (16 * tenant + i)).getD 0 + n) % 2 ^ 64) } }

/-- 64-byte units a range touches. -/
def units64 (a n : Nat) : Nat := if n = 0 then 0 else (a + n - 1) / 64 - a / 64 + 1

/-- A range read by a tenant's work is charged (LOFT_RD, CELLAR_RD). -/
def chargeRead (s : State) (tenant a n : Nat) : Upd :=
  match regionOf (unalias s a) with
  | .loft => ledger tenant 6 (units64 a n)
  | .cellar => ledger tenant 8 (if n = 0 then 0 else (a + n - 1) / 512 - a / 512 + 1)
  | _ => .skip

/-- A range written by a tenant's work is charged (LOFT_WR). -/
def chargeWrite (s : State) (tenant a n : Nat) : Upd :=
  if regionOf (unalias s a) = .loft then ledger tenant 7 (units64 a n) else .skip

/-! ### Output -/

/-- Something leaves the part. -/
def emit (o : Out) : Upd := .sys fun y => { y with out := o :: y.out }

/-! ### Fault records and notices (R511 to R515) -/

/-- The FAULT_REF of the next record of a partition. -/
def nextFaultRef (s : State) (p : Fin 4) : Nat := p.val * 2 ^ 30 + (psys s p).faults.nextSeq

/-- A record with nothing filled in but its cause. -/
def faultBase (cause level : Nat) : FaultRec :=
  { index := 0, cause, level, dumped := false, notified := false, partLevel := false, frame := 0, tenant := 0,
    engineKind := 0, engine := 0, ctxKind := 0, ctxId := 0, opcode := 0, ring := 0, source := 0, cmdSeq := 0, addr := 0,
    count := 0, detail := [] }

/-- The record with what it takes from the command concerned. -/
def faultOf (s : State) (p : Fin 4) (c : Cmd) (r : FaultRec) : FaultRec :=
  { r with tenant := c.tenant, opcode := c.opcode, ring := c.ring % 32 + 32 * p.val, cmdSeq := c.seq,
           source := if c.steward then c.srcPart else partId s }

/-- The bytes of a record (Table 18.3). -/
def faultBytes (r : FaultRec) : Bytes :=
  natLE 4 r.index ++ natLE 2 r.cause ++ natLE 1 r.level ++
  natLE 1 (r.dumped.toNat + 2 * r.notified.toNat + 4 * r.partLevel.toNat) ++ natLE 6 r.frame ++ natLE 2 r.tenant ++
  natLE 1 r.engineKind ++ zeros 1 ++ natLE 2 r.engine ++ natLE 1 r.ctxKind ++ zeros 3 ++ natLE 8 r.ctxId ++
  natLE 2 r.opcode ++ natLE 1 r.ring ++ zeros 1 ++ natLE 4 r.source ++ natLE 8 r.cmdSeq ++ natLE 8 r.addr ++
  natLE 8 r.count ++ padTo 64 r.detail

/-- The causes and kinds that send a notice (Table 18.4). -/
def causeNotifies (cause : Nat) : Bool :=
  !([0x01, 0x06, 0x0C, 0x11, 0x14].contains cause)

/-- The bytes of a notice (Table 18.5). -/
def noticeBytes (s : State) (kind partition level tenant ref : Nat) (detail : Bytes) : Bytes :=
  natLE 8 s.sys.crierSeq ++ natLE 6 (frameNow s) ++ natLE 2 kind ++ natLE 3 (partId s) ++ natLE 1 partition ++
  natLE 1 level ++ zeros 1 ++ natLE 2 tenant ++ natLE 4 ref ++ zeros 4 ++ padTo 32 detail

/-- A record written into a partition's fault ring (R511): 65,536 records, the newest overwriting the oldest. -/
def writeFault (p : Fin 4) (r : FaultRec) : Upd :=
  .read fun s =>
    let q := (psys s p).faults.nextSeq
    let rec' := { r with index := p.val * 2 ^ 30 + q, frame := frameNow s }
    .seq [.part p fun y => { y with faults := { y.faults with
            records := (rec' :: y.faults.records).take 65536,
            nextSeq := if q + 1 = 2 ^ 30 then 1 else q + 1 } },
      regCount .faultCount p 0 63 32 1,
      regMod .faultStatus p 0 fun w => setFld w 31 0 rec'.index]

end Sys2Proof.Machine
end

