-- ==== Sys2Proof/Machine/Send.lean ====
section
/-!
DEFINITION. Sending: routes and ports (R422, R430, R431), end-to-end credits (R438), requests awaiting completion,
notices (R513 to R515), and the delivery of a status reply (R58, R59, R61, R75).
-/

namespace Sys2Proof.Machine

/-! ### Routes and ports -/

/-- Whether a port is up and carries packets: UP, not miswired, with a role (R424), and not lent to the host (R442). -/
def portUp (s : State) (k : Nat) : Bool :=
  fld (rd s .portStatus 0 k) 59 56 == 5 && !(bit (rd s .portStatus 0 k) 62) && fld (lv s .portCfg 0 k) 62 60 != 0 &&
  !(k < 2 && bit (rd s .hostCfg 0) 63)

/-- The ports of a bundle: a torus role, or OUTER (5) with a bundle number (R421). -/
def bundlePorts (s : State) (role bundle : Nat) : List Nat :=
  (List.range 12).filter fun k =>
    let c := lv s .portCfg 0 k
    fld c 62 60 == role && (role != 5 || fld c 56 55 == bundle) && !(k < 2 && bit (rd s .hostCfg 0) 63)

/-- Parts of the group, and the size of its Y ring. -/
def groupSize (s : State) : Nat := fld (rd s .fabId 0) 28 24

/-- The bundle of the next link toward a part, as (role, outer bundle); none: unroutable (R430). -/
def nextBundle (s : State) (dst : Nat) : Option (Nat × Nat) :=
  let own := partId s
  let n := groupSize s
  let m := n / 4
  let step (t : Nat) : Option (Nat × Nat) :=
    let dx := (t % 4 + 4 - own % 4) % 4
    if dx ≠ 0 then some (if dx ≤ 4 - dx then 1 else 2, 0)
    else
      let m' := if m = 0 then 1 else m
      let dy := (t % 16 / 4 + m' - own % 16 / 4 % m') % m'
      if dy = 0 then none else some (if dy ≤ m' - dy then 3 else 4, 0)
  if own = 0xFFFFF ∨ dst = own then none
  else if dst / 16 ≠ own / 16 then
    match aget s.sys.fab.routesLive (dst / 16) with
    | some w =>
      if bit w 63 then (if fld w 7 4 = own % 16 then some (5, fld w 1 0) else step (fld w 7 4)) else none
    | none => none
  else if dst % 16 < n then step (dst % 16) else none

/-- The UP ports of a bundle that a tenant's own packets of a class may use (R487): its own port classes where it holds
any there, else those bound to nobody. Forwarded packets use every UP port. -/
def usablePorts (s : State) (role bundle cls tenant : Nat) (fwd : Bool) : List Nat :=
  let all := bundlePorts s role bundle
  let up := all.filter (portUp s)
  if fwd ∨ cls = 0 then up
  else if all.any (fun k => unitServes s 7 (4 * k + cls) tenant) then up.filter fun k => unitServes s 7 (4 * k + cls) tenant
  else up.filter fun k => (unit s 7 (4 * k + cls)).state == .unbound

/-- The port a packet leaves by (R422): the hash of source, destination and class over the usable ports. -/
def portFor (s : State) (pkt : Packet) (fwd : Bool) : Option Nat :=
  match nextBundle s pkt.dst with
  | none => none
  | some (role, b) =>
    let ps := usablePorts s role b pkt.cls.val pkt.ten fwd
    match ps with
    | [] => none
    | [k] => some k
    | k :: _ => some (ps.getD (Config.portHash pkt.src pkt.dst pkt.cls.val % ps.length) k)

/-- The virtual lane after crossing a port (R431): from the port a forwarded packet came in by, none for a local one. -/
def laneAcross (s : State) (pkt : Packet) (role k : Nat) (inRole : Nat) : Fin 4 :=
  let own := partId s
  let x := own % 4
  let y := own % 16 / 4
  let m := groupSize s / 4
  let v0 := pkt.vl.val % 2
  let v1 := pkt.vl.val / 2
  let v0 := if (role = 3 ∨ role = 4) ∧ (inRole = 1 ∨ inRole = 2) then 0 else v0
  let wrap := (role = 1 ∧ x = 3) ∨ (role = 2 ∧ x = 0) ∨ (role = 3 ∧ y + 1 = m) ∨ (role = 4 ∧ y = 0)
  let v0 := if wrap then 1 else v0
  let v0 := if role = 5 then 0 else v0
  let v1 := if role = 5 ∧ bit (lv s .portCfg 0 k) 59 then 1 else v1
  Fin.ofNat 4 (v0 + 2 * v1)

/-- Bytes of a packet's payload field LEN (Table 14.4). -/
def payloadLen : Payload → Nat
  | .memRd _ _ _ => 0 | .memWr _ _ d => d.length | .compl _ _ d => d.length | .cmd p => p.length | .credit _ _ _ _ _ => 8
  | .bell _ => 32 | .notice _ => 64 | .map _ _ _ es => 16 + 16 * es.length | .coh _ _ _ _ d => d.length | .malformed => 0

/-- 16-byte blocks of a packet: header, address or status or coherence word, payload. -/
def packetBlocks (pkt : Packet) : Nat :=
  let w := match pkt.body with
    | .memRd _ _ _ | .memWr _ _ _ | .compl _ _ _ | .coh _ _ _ _ _ => 8
    | _ => 0
  ceilDiv (16 + w + payloadLen pkt.body) 16

/-- Whether a packet is one of the Stewards or the DMA, which pass through the fabric send queue of Table 1.9: a command, or a memory
request that no host originated. -/
def queuedSend (pkt : Packet) : Bool :=
  match pkt.body with
  | .memRd _ _ _ | .memWr _ _ _ => !pkt.hostSrc
  | .cmd _ => true
  | _ => false

/-- Whether a port's send queue has a slot for a class: 64 per port per class (R34, Table 1.9). -/
def sendRoom (s : State) (k cls : Nat) : Bool :=
  decide (((s.sys.fab.ports.get (Fin.ofNat 12 k)).tx.countP fun x => !x.1 && x.2.cls.val == cls && queuedSend x.2) < 64)

/-- A packet placed in the send queue of the port it leaves by; nothing where it cannot be routed. -/
def enqueue (pkt : Packet) (fwd : Bool) (inRole : Nat) : Upd :=
  .read fun s =>
    match portFor s pkt fwd, nextBundle s pkt.dst with
    | some k, some (role, _) =>
      let q := { pkt with vl := laneAcross s pkt role k inRole, hops := pkt.hops + 1 }
      .seq [.sys fun y => { y with fab := { y.fab with
              ports := updAt y.fab.ports (Fin.ofNat 12 k) fun t => { t with tx := t.tx ++ [(fwd, q)] } } },
        .when (!fwd) (ledger pkt.ten 10 (packetBlocks pkt))]
    | _, _ => .skip

/-- The time of a request that now leaves: its 64 frames count from here (R59). -/
def sentNow (pkt : Packet) : Upd :=
  .read fun s =>
    let f (x : Outst) : Outst := if x.pkt = pkt then { x with frame := frameNow s } else x
    .sys fun y => { y with fab := { y.fab with outst := y.fab.outst.map f } }

/-- A packet of a Steward or the DMA sent: into the queue while it has a slot and none ahead of it waits for one, else held at its
producer (R34). -/
def sendOwn (pkt : Packet) : Upd :=
  .read fun s =>
    match portFor s pkt false with
    | none => .skip
    | some k =>
      let ahead := s.sys.fab.waiting.any fun w => w.cls == pkt.cls && portFor s w false == some k
      if queuedSend pkt ∧ (ahead ∨ !(sendRoom s k pkt.cls.val)) then
        .sys fun y => { y with fab := { y.fab with waiting := y.fab.waiting ++ [pkt] } }
      else .seq [sentNow pkt, enqueue pkt false 0]

/-- Whether a packet of the part's own can go: an assigned part ID (R425) and a route (R432). -/
def canSend (s : State) (pkt : Packet) : Bool := partId s != 0xFFFFF && (portFor s pkt false).isSome

/-- A packet with the part as its source. -/
def mkPacket (s : State) (cls : Nat) (dst ten : Nat) (dp : Nat) (body : Payload) : Packet :=
  { cls := Fin.ofNat 4 cls, vl := 0, dstPartition := toP dp, dst, src := partId s, ten, ld := 0, tag := 0, hops := 0,
    hostSrc := false, poison := false, body }

/-! ### Peers and credits -/

/-- The peer index of a part, by the peer table in force (R437). -/
def peerOf (s : State) (part : Nat) : Option Nat :=
  (s.sys.fab.peers0Live.find? fun c => bit c.2 63 && fld c.2 19 0 == part).map (·.1)

/-- Whether a peer's entry lists a tenant (Table 14.18). -/
def peerLists (s : State) (peer tenant : Nat) : Bool :=
  let w := (aget s.sys.fab.peers1Live peer).getD 0
  (List.range 4).any fun i => bit w (60 + i) && fld w (12 * i + 11) (12 * i) == tenant

/-- Whether two credit counts are of one kind: peer, request or command, class, and partition for commands. -/
def creditIs (c : Credit) (peer : Nat) (request : Bool) (cls partition : Nat) : Bool :=
  c.peer == peer && c.request == request && c.cls == cls && (request || c.partition == partition)

/-- Credits held. -/
def creditsHeld (s : State) (peer : Nat) (request : Bool) (cls partition : Nat) : Nat :=
  ((s.sys.fab.credits.find? fun c => creditIs c peer request cls partition).map (·.count)).getD 0

/-- A list of credit counts with one count changed. -/
def creditMod (l : List Credit) (peer : Nat) (request : Bool) (cls partition frame : Nat) (f : Nat → Nat) : List Credit :=
  if l.any (fun c => creditIs c peer request cls partition) then
    (l.map fun c => if creditIs c peer request cls partition then { c with count := f c.count, used := frame } else c).filter
      (·.count != 0)
  else if f 0 = 0 then l else ⟨peer, request, cls, partition, f 0, frame⟩ :: l

/-- Whether a packet needs an end-to-end credit, and of which kind: some true for a request, some false for a command. -/
def creditKind (b : Payload) : Option Bool :=
  match b with
  | .memRd _ _ _ | .memWr _ _ _ => some true
  | .cmd _ => some false
  | .coh .hRd _ _ _ _ | .coh .hWr _ _ _ _ | .coh .hCln _ _ _ _ => some true
  | _ => none

/-- A CMD, MEM_RD or MEM_WR sent when its credit is held, or held back behind a CREDIT ask (R438). -/
def sendCredited (pkt : Packet) : Upd :=
  .read fun s =>
    match creditKind pkt.body, peerOf s pkt.dst with
    | some rq, some i =>
      let dp := pkt.dstPartition.val
      let waiting := s.sys.fab.held.any fun h =>
        h.dst == pkt.dst && creditKind h.body == some rq && h.cls == pkt.cls && (rq || h.dstPartition == pkt.dstPartition)
      if creditsHeld s i rq pkt.cls.val dp ≠ 0 ∧ ¬waiting then
        .seq [.sys fun y => { y with fab := { y.fab with
                credits := creditMod y.fab.credits i rq pkt.cls.val dp (frameNow s) (· - 1) } },
          sendOwn pkt]
      else
        .seq [.sys fun y => { y with fab := { y.fab with held := y.fab.held ++ [pkt] } },
          enqueue (mkPacket s pkt.cls.val pkt.dst 0 dp (.credit pkt.cls rq false pkt.dstPartition 1)) false 0]
    | _, _ => sendOwn pkt

/-- Whether a request or command can be sent at all: a route, and a destination in the peer table (R432, R437). -/
def canRequest (s : State) (pkt : Packet) : Bool := canSend s pkt && (peerOf s pkt.dst).isSome

/-- A request sent with a fresh tag, its completion awaited (R429). -/
def request (pkt : Packet) (why : Why) : Upd :=
  .read fun s =>
    let q := { pkt with tag := s.sys.fab.nextTag }
    .seq [.sys fun y => { y with fab := { y.fab with
            nextTag := (y.fab.nextTag + 1) % 65536,
            outst := ⟨q.tag, why, frameNow s, q.dst, q, false⟩ :: y.fab.outst } },
      sendCredited q]

/-! ### The host port of the part -/

/-- The LD that carries a tenant's host accesses: bound to it and enabled by its host (R446). -/
def hostLd (s : State) (tenant : Nat) : Option Nat :=
  (List.range 16).find? fun l =>
    unitServes s 11 l tenant && bit (rd s .hostStatus 0) l && l < fld (rd s .hostCfg 0) 36 32

/-- Whether the host port may issue upstream as far as IDE is concerned (R553, R554): no stream is Insecure, and while IDE_REQUIRED
is 1 one is Secure. -/
def ideUp (s : State) : Bool :=
  (List.range 5).all (fun i => (s.sys.sec.ide.get (Fin.ofNat 5 i)).state != .insecure) &&
  (!(bit (lv s .secCtl 0) 0) || (List.range 5).any fun i => (s.sys.sec.ide.get (Fin.ofNat 5 i)).state == .secure)

/-- How a write or read of a host address through the part's own host port ends (R445, R446). -/
def hostStatusOf (s : State) (tenant : Nat) : Nat :=
  if !(bit (rd s .hostCfg 0) 63) then stNotBound
  else match hostLd s tenant with
    | none => stNotBound
    | some _ => if fld (rd s .hostStatus 0) 63 60 = 2 ∧ ideUp s then stOk else stPoisoned

/-- A posted write issued upstream. -/
def hostWriteUp (tenant addr : Nat) (data : Bytes) : Upd :=
  .read fun s => match hostLd s tenant with
    | some l => .seq [emit (.hostWrite l addr data), ledger tenant 10 (ceilDiv (24 + data.length) 16)]
    | none => .skip

/-! ### Notices -/

/-- A notice written into the part's notice ring (R513). -/
def noticeToRing (body : Bytes) : Upd :=
  .read fun s =>
    let seq := leAt body 0 8
    let a := fld (lv s .crierRing 0) 49 0 + seq % 2 ^ (fld (lv s .crierCfg 0) 4 0) * 64
    let lost := regCount .crierCount 0 0 31 16 1
    let done := regCount .crierCount 0 0 15 0 1
    if bit (lv s .crierCfg 0) 5 then
      if hostStatusOf s 0 = stOk then .seq [hostWriteUp 0 (a + 8) (body.drop 8), hostWriteUp 0 a (body.take 8), done] else lost
    else
      let b := unalias s a
      if (regionOf b = .loft ∨ regionOf b = .pantry) ∧ rangeBound s 0 b 64 then .seq [memStore b body, done]
      else if regionOf b = .cellar ∧ oneRow b 64 then .seq [memErr .cellarWrite 0 0 a, lost]
      else .seq [memErr .unmapped 0 0 a, lost]

/-- A record's NOTIFIED or DUMPED flag set. -/
def markRecord (ref : Nat) (f : FaultRec → FaultRec) : Upd :=
  .part (toP (ref / 2 ^ 30)) fun y => { y with faults := { y.faults with
    records := y.faults.records.map fun r => if r.index = ref then f r else r } }

/-- A notice raised: sent within RATE of the frame, to CRIER_DEST, to the part's own ring, or as a fault summary over the
sideband (R513 to R515). -/
def crier (kind partition level tenant ref : Nat) (detail : Bytes) : Upd :=
  .read fun s =>
    if fld (lv s .crierCfg 0) 23 16 ≤ s.sys.noticesSent then
      .seq [.sys fun y => { y with noticesOut := y.noticesOut + 1,
                                   noticesFirst := if y.noticesOut = 0 then kind else y.noticesFirst },
        regCount .crierCount 0 0 31 16 1]
    else
      let body := noticeBytes s kind partition level tenant ref detail
      let dest := lv s .crierDest 0
      let pkt := mkPacket s 0 (fld dest 19 0) 0 0 (.notice body)
      .seq [.sys fun y => { y with crierSeq := y.crierSeq + 1, noticesSent := y.noticesSent + 1 },
        regCount .crierCount 0 0 63 32 1,
        .when (ref != 0) (markRecord ref fun r => { r with notified := true }),
        if bit dest 63 && fld dest 19 0 == partId s && partId s != 0xFFFFF then noticeToRing body
        else if bit dest 63 && canSend s pkt then enqueue pkt false 0
        else emit (.sideband 0x20 none body)]

/-- A fault met: the record, then the notice where its cause sends one. `answer` gets the record's FAULT_REF. -/
def fault (p : Fin 4) (r : FaultRec) : Upd :=
  .read fun s =>
    .seq [writeFault p r,
      .when (causeNotifies r.cause)
        (crier r.cause (if r.partLevel then 0xFF else p.val) r.level r.tenant (nextFaultRef s p) (r.detail.take 32))]

/-! ### Fan-out reply areas (R112, R601, log entry 6) -/

/-- Base of the reply areas of a partition's 4,096 fan-out records, 128 KiB each: the part-reserved top of its first stack. -/
def fanBase (p : Nat) : Nat := 6 * p * 0x1000000000 + 0xFE0000000

/-- The reply address of a record. -/
def fanAddr (p record : Nat) : Nat := fanBase p + record * 0x20000

/-- The partition, record and offset of an address in a reply area. -/
def fanAt (a : Nat) : Option (Fin 4 × Nat × Nat) :=
  let k := stackOf a
  if regionOf a = .loft ∧ k % 6 = 0 ∧ fanBase (k / 6) ≤ a ∧ a < fanBase (k / 6) + 0x20000000 then
    some (toP (k / 6), (a - fanBase (k / 6)) / 0x20000, (a - fanBase (k / 6)) % 0x20000)
  else none

/-! ### Replies -/

/-- Whether a local reply address may be written for a tenant (R58); a Steward's may be a reply slot of a record. -/
def replyAddrBy (s : State) (serves : Nat → Nat → Bool) (steward : Bool) (a n : Nat) : Bool :=
  a % 64 == 0 &&
  ((steward && (fanAt a).isSome) ||
   (let b := unalias s a
    (regionOf b == .loft || regionOf b == .pantry) && serves b n))

/-- The check at acceptance, and that for the reply of a command that runs. -/
def replyAddrNew (s : State) (steward : Bool) (tenant a n : Nat) : Bool := replyAddrBy s (rangeBound s tenant) steward a n
def replyAddrOk (s : State) (steward : Bool) (tenant a n : Nat) : Bool := replyAddrBy s (rangeHolds s tenant) steward a n

/-- The bytes of a status reply (Table 2.13). -/
def replyBytes (s : State) (p : Fin 4) (c : Cmd) (status detail faultRef : Nat) (body : Bytes) : Bytes :=
  natLE 2 status ++ natLE 2 c.opcode ++ natLE 4 body.length ++ natLE 8 c.seq ++ natLE 6 (frameNow s) ++
  natLE 1 ((if c.ring < 32 then c.ring else 0) + 32 * p.val) ++ natLE 1 (min c.ignored 255) ++ natLE 4 detail ++
  natLE 4 faultRef ++ body

/-- A reply that could not be delivered (R59). -/
def replyLost (p : Fin 4) (ring : Nat) : Upd :=
  .when (ring < 32) (.seq [regSetBit .ringStatus p ring 60, regCount .ringErrcount p ring 47 32 1])

/-- A consumed-count write that could not be delivered (R60). -/
def creditLost (p : Fin 4) (ring : Nat) : Upd :=
  .seq [regSetBit .ringStatus p ring 59, regCount .ringErrcount p ring 47 32 1]

/-- The writes of one purpose no longer awaited, and its last one not sent. -/
def FabricSt.dropWrites (f : FabricSt) (why : Why) : FabricSt :=
  { f with outst := f.outst.filter (·.why != why), lastParts := f.lastParts.filter (·.1 != why) }

/-- A write of the part that will not be performed, its completion no longer awaited: a reply is counted once, whichever of its
writes failed (R59, R60). -/
def writeLost (o : Outst) : Upd :=
  match o.why with
  | .reply p ring _ => .seq [.sys fun y => { y with fab := y.fab.dropWrites o.why }, replyLost p ring]
  | .credit p ring => .seq [.sys fun y => { y with fab := { y.fab with outst := y.fab.outst.erase o } }, creditLost p ring]
  | _ => .skip

/-- Packets of the part's own discarded (R34): the replies and counts they carried are lost. -/
def discarded (pkts : List Packet) : Upd :=
  .each pkts fun q => .read fun s => match s.sys.fab.outst.find? fun o => o.tag == q.tag && o.dst == q.dst && o.pkt.body == q.body with
    | some o => writeLost o
    | none => .skip

/-- The packets that wait for a send queue tried again, in order: each goes if a slot is free, and one that no longer has a route is
discarded (R34, R59). -/
def sendWaiting : Upd :=
  .read fun s =>
    let all := s.sys.fab.waiting
    .when (!all.isEmpty) (.seq [.sys fun y => { y with fab := { y.fab with waiting := [] } },
      .each all fun q => .read fun s =>
        if (portFor s q false).isSome then sendOwn q else .seq [regSetBit .fabStatus 0 0 62, discarded [q]]])

/-- Bytes cut into pieces of at most n. -/
def chunks (n : Nat) (bs : Bytes) : List Bytes :=
  (List.range (ceilDiv bs.length n)).map fun i => (bs.drop (i * n)).take n

/-- Writes of a byte string to a remote or host address as MEM_WR packets of at most 1,024 bytes (Table 14.5). -/
def remoteWrite (cls dst ten : Nat) (host : Bool) (addr : Nat) (bs : Bytes) (why : Why) : Upd :=
  .each (indexed (chunks 1024 bs)) fun c =>
    .read fun s => request (mkPacket s cls dst ten 0 (.memWr host (addr + 1024 * c.1) c.2)) why

/-- The three writes of a reply in the order of R75: body, header bytes 8 to 31, header bytes 0 to 7. -/
def replyParts (r : Bytes) : List (Nat × Bytes) :=
  (if r.length ≤ 32 then [] else [(32, r.drop 32)]) ++ [(8, (r.take 32).drop 8), (0, r.take 8)]

/-- A reply delivered, or counted as not delivered (R58, R59, R75). Of a reply to another part the write of STATUS waits for the
completions of the others, which a meter there can put off (R456; DEDUCED, log entry 114). -/
def deliver (p : Fin 4) (c : Cmd) (r : Bytes) : Upd :=
  .read fun s =>
    if c.ring = 33 then emit (.sideband 0x11 (some c.sbTag) r)
    else if !c.replyHost && c.replyPart == partId s then
      match (if c.steward then fanAt c.replyAddr else none) with
      | some (q, record, off) =>
        .part q fun y => { y with shareWrites := y.shareWrites ++
          ((replyParts r).map (fun x => ShareWrite.mk p.val q.val record (off + x.1) x.2)) }
      | none =>
        if replyAddrOk s c.steward c.tenant c.replyAddr r.length then
          .seq [memStore c.replyAddr r, chargeWrite s c.tenant c.replyAddr r.length]
        else replyLost p c.ring
    else if c.replyHost && c.replyPart == partId s then
      if hostStatusOf s c.tenant = stOk then
        .each (replyParts r) fun x => hostWriteUp c.tenant (c.replyAddr + x.1) x.2
      else replyLost p c.ring
    else
      let last := mkPacket s c.cls c.replyPart c.tenant 0 (.memWr c.replyHost c.replyAddr (r.take 8))
      if canRequest s last then
        .seq [.each (replyParts r).dropLast fun x =>
            remoteWrite c.cls c.replyPart c.tenant c.replyHost (c.replyAddr + x.1) x.2 (.reply p c.ring c.ref),
          .sys fun y => { y with fab := { y.fab with lastParts := y.fab.lastParts ++ [(.reply p c.ring c.ref, last)] } }]
      else replyLost p c.ring

/-- The last write of a reply sent, once no other write of it is awaited (R75). -/
def replyRest (why : Why) : Upd :=
  .read fun s =>
    match why, s.sys.fab.lastParts.find? (·.1 == why) with
    | .reply p ring _, some x =>
      .when (!(s.sys.fab.outst.any (·.why == why))) (.seq [
        .sys fun y => { y with fab := { y.fab with lastParts := y.fab.lastParts.erase x } },
        if canRequest s x.2 then request x.2 why else replyLost p ring])
    | _, _ => .skip

/-! ### Utertil replies (R590) -/

/-- Bytes of a Utertil reply (Table 21.3): header and body, in whole 8-byte units. -/
def utReplyBytes (c : Cmd) (status detail : Nat) (body : Bytes) : Bytes :=
  let n := ceilDiv (16 + body.length) 8
  padTo (8 * n) (natBE 2 n ++ natLE 1 (c.opcode % 256) ++ zeros 1 ++ natBE 4 c.seq ++ natBE 2 status ++ zeros 2 ++ natBE 4 detail ++ body)

/-- A reply written at RTAIL, a PAD first where it does not fit before the end of the ring; RTAIL advances past it. -/
def utWriteReply (p : Fin 4) (r : Bytes) : Upd :=
  .read fun s =>
    let b := utBaseOf s p
    let pos := utWord s p 16 % 131072
    let n := r.length / 8
    let ring := b + 0x101000
    let at' := if 131072 < pos + n then 0 else pos
    let pad := natBE 2 (131072 - pos) ++ zeros (min 14 (8 * (131072 - pos) - 2))
    .seq [.when (decide (131072 < pos + n)) (memStore (ring + 8 * pos) pad),
      memStore (ring + 8 * at' + 16) (r.drop 16), memStore (ring + 8 * at' + 2) ((r.take 16).drop 2),
      memStore (ring + 8 * at') (r.take 2), memStore (b + 16) (natBE 8 ((at' + n) % 131072))]

/-- Held replies written as far as no earlier command is unanswered. -/
def utFlush (p : Fin 4) : Upd :=
  .read fun s =>
    let open' := ((psys s p).cmds.filter (·.ring == 34)).map (·.ref)
    let due := (psys s p).ut.held.filter fun h => open'.all (h.1 < ·)
    .seq [.part p fun y => { y with ut := { y.ut with held := y.ut.held.filter fun h => !(open'.all (h.1 < ·)) } },
      .each due fun h => utWriteReply p h.2]

/-- A list with a reply put in order of its command. -/
def heldIn (h : Nat × Bytes) : List (Nat × Bytes) → List (Nat × Bytes)
  | [] => [h]
  | x :: r => if h.1 < x.1 then h :: x :: r else x :: heldIn h r

/-- A Utertil command's reply, in ring order; one that timed out is counted (Table 21.6). -/
def utReply (p : Fin 4) (c : Cmd) (status detail : Nat) (body : Bytes) : Upd :=
  .seq [.part p fun y => { y with ut := { y.ut with held := heldIn (c.ref, utReplyBytes c status detail body) y.ut.held } },
    .when (status == stTimeout) (regCount .utCount p 0 15 0 1), utFlush p]

/-- A tally incremented by 1 modulo 2⁶⁴ (R348). -/
def tallyInc (p : Fin 4) (t : Nat) : Upd := regNow .tally p t fun w => w + 1

/-- A status posted: the command leaves the store, its changes are visible by Bell `effect` (R84), the reply is written
unless QUIET suppresses it, and the tally is incremented (R59, R61, R75, R77), one of the tenant's own rings (R349). -/
def postReply (p : Fin 4) (c : Cmd) (status detail : Nat) (body : Bytes) (faultRef : Nat := 0) (effect : Nat := 0) : Upd :=
  .read fun s =>
    .seq [
      .part p fun y => { y with
        cmds := y.cmds.filter (·.ref != c.ref),
        ringEffect := if effect = 0 then y.ringEffect else (c.ring, c.ref, effect) :: y.ringEffect },
      .when (status == stRetry) (ledger c.tenant 2 1),
      if c.ring = 34 then utReply p c status detail body
      else .when (!(nbit c.flags 2 && status == stOk)) (deliver p c (replyBytes s p c status detail faultRef body)),
      .when (nbit c.flags 3 && unitHolds s 10 (32 * p.val + c.tally % 4096 / 128) c.tenant) (tallyInc p (c.tally % 4096))]

/-- The command of a reference. -/
def cmdOf (s : State) (p : Fin 4) (ref : Nat) : Option Cmd := (psys s p).cmds.find? (·.ref == ref)

/-- A command of the store changed. -/
def cmdMod (p : Fin 4) (ref : Nat) (f : Cmd → Cmd) : Upd :=
  .part p fun y => { y with cmds := y.cmds.map fun c => if c.ref = ref then f c else c }

/-- The admitted command of a reference and opcode, for the operation's own event; nothing where there is none (log
entry 7). -/
def withCmd (p : Fin 4) (ref opcode : Nat) (f : Cmd → Upd) : Upd :=
  .read fun s =>
    match cmdOf s p ref with
    | some c => if c.opcode = opcode ∧ c.phase = .admitted then f c else .skip
    | none => .skip

/-- A command that ends with a status and nothing else. -/
def postPlain (p : Fin 4) (c : Cmd) (status detail : Nat) : Upd := postReply p c status detail []

/-- A parameter field of a command: `n` bytes at a parameter offset. -/
def par (c : Cmd) (off n : Nat) : Nat := leAt c.params off n

end Sys2Proof.Machine
end

