-- ==== Sys2Proof/Machine/Operands.lean ====
section
/-!
DEFINITION. Operand forms: the command header (Table 2.7), the parameter block and its extension list (Table 2.12), and
the validation order of Table 2.11 over what each opcode's chapter gives.
-/

namespace Sys2Proof.Machine

/-- Step 1 of Table 2.11: a packet consumed without execution or reply (R57). -/
def headerBad (pkt : Bytes) : Bool :=
  byteAt pkt 2 != 1 || leAt pkt 62 2 != 0x5658 || byteAt pkt 5 != 0 || byteAt pkt 27 != 0 || leAt pkt 36 26 != 0 ||
  nfld (leAt pkt 24 3) 22 20 != 0 || 4096 < leAt pkt 32 2

/-- A command read from a packet: header fields and the PARAM_LEN bytes of the parameter block (R56). -/
def cmdFrom (pkt : Bytes) (ref ring tenant frame : Nat) (steward : Bool) (srcPart srcPartition : Nat) : Cmd :=
  { ref, ring, tenant, steward, srcPart, srcPartition,
    opcode := leAt pkt 0 2, flags := byteAt pkt 3, cls := byteAt pkt 4,
    timeout := if leAt pkt 6 2 = 0 then 64 else leAt pkt 6 2,
    seq := leAt pkt 8 8, replyAddr := leAt pkt 16 8, replyHost := nbit (leAt pkt 24 3) 23,
    replyPart := nfld (leAt pkt 24 3) 19 0, bodyMax := leAt pkt 28 4, tally := leAt pkt 34 2,
    params := (pkt.drop 64).take (leAt pkt 32 2), ext := [], ignored := 0, accFrame := frame, admFrame := 0,
    phase := .waiting, pieces := [], slots := [], desc := [], thresh := 0, aux := 0, aux2 := 0, sbTag := 0 }

/-- The bytes of a command packet with a given header and parameter block, sealed (Table 2.7). -/
def packetBytes (opcode flags cls timeout seq replyAddr replyPart bodyMax : Nat) (params : Bytes) : Bytes :=
  natLE 2 opcode ++ natLE 1 1 ++ natLE 1 flags ++ natLE 1 cls ++ zeros 1 ++ natLE 2 timeout ++ natLE 8 seq ++
  natLE 8 replyAddr ++ natLE 3 replyPart ++ zeros 1 ++ natLE 4 bodyMax ++ natLE 2 params.length ++ zeros 2 ++ zeros 26 ++
  natLE 2 0x5658 ++ params

/-- FLAGS bits (Table 2.7). -/
def Cmd.hasExt (c : Cmd) : Bool := nbit c.flags 0
def Cmd.hasFence (c : Cmd) : Bool := nbit c.flags 1

/-- What an extension list comes to: an error at a packet offset, or the known items and the count of ignored ones. -/
inductive ExtList where
  | bad (offset ignored : Nat)
  | ok (items : List (Nat × Bytes)) (ignored : Nat)
  deriving DecidableEq, Repr

/-- The extension list from a parameter offset on (R72 to R74): `tags` gives each known tag's length. DETAIL of every error is the packet
offset of the item's TAG, and an item's padding counts in its running past PARAM_LEN (DESIGN CHOICE, log entry 108). -/
def extItems (tags : List (Nat × Nat)) (params : Bytes) : Nat → Nat → List Nat → List (Nat × Bytes) → Nat → ExtList
  | 0, _, _, items, ign => .ok items.reverse ign
  | fuel + 1, off, seen, items, ign =>
    if params.length ≤ off then .ok items.reverse ign
    else
      let raw := leAt params off 2
      let tag := raw % 0x8000
      let len := leAt params (off + 2) 2
      let nxt := off + 8 + roundUp len 8
      if params.length < off + 8 ∨ 4088 < len ∨ params.length < nxt ∨ seen.contains tag then .bad (64 + off) ign
      else match tags.find? (·.1 == tag) with
        | some t =>
          if t.2 = len then
            extItems tags params fuel nxt (tag :: seen) ((tag, (params.drop (off + 8)).take len) :: items) ign
          else .bad (64 + off) ign
        | none =>
          if raw < 0x8000 then .bad (64 + off) ign else extItems tags params fuel nxt (tag :: seen) items (ign + 1)

/-- The value of an extension item, or a default. -/
def extVal (c : Cmd) (tag dflt : Nat) : Nat := ((c.ext.find? (·.1 == tag)).map (leNat ·.2)).getD dflt

/-- The packet offset of the value of an extension item with a tag, in the list from a parameter offset on. -/
def extPos (tag : Nat) (params : Bytes) : Nat → Nat → Nat
  | 0, off => 64 + off
  | fuel + 1, off =>
    if params.length ≤ off ∨ leAt params off 2 % 0x8000 = tag then 72 + off
    else extPos tag params fuel (off + 8 + roundUp (leAt params (off + 2) 2) 8)

/-- What an opcode's chapter says of its validation. -/
structure OpSpec where
  /-- extension tags and their lengths; none: the opcode takes no extension items -/
  tags : Option (List (Nat × Nat)) := none
  /-- step 4: who may use it -/
  permit : State → Fin 4 → Cmd → Bool := fun _ _ _ => true
  /-- the length of the block its fields give -/
  len : State → Fin 4 → Cmd → Nat := fun _ _ _ => 0
  /-- PARAM_LEN is exactly that length (R82); else at least -/
  exact : State → Fin 4 → Cmd → Bool := fun _ _ _ => false
  /-- step 6: the packet offset of the first field in error -/
  range : State → Fin 4 → Cmd → Option Nat := fun _ _ _ => none
  /-- step 7 -/
  bound : State → Fin 4 → Cmd → Bool := fun _ _ _ => true
  /-- step 8: the largest body the parameters can produce -/
  body : State → Fin 4 → Cmd → Nat := fun _ _ _ => 0
  /-- step 9: the code of a pool with no free entry -/
  pool : State → Fin 4 → Cmd → Option Nat := fun _ _ _ => none
  /-- step 10: the body of a zero count -/
  zero : State → Fin 4 → Cmd → Option Bytes := fun _ _ _ => none

/-- The fabric manager's commands (R483). -/
def fmOnly : State → Fin 4 → Cmd → Bool := fun _ _ c => c.tenant == 0

/-- Commands of a Steward (R119, R128, R328). -/
def stewardOnly : State → Fin 4 → Cmd → Bool := fun _ _ c => c.steward

/-- The first failing check of a list of (failed?, packet offset). -/
def firstBad : List (Bool × Nat) → Option Nat
  | [] => none
  | (b, d) :: r => if b then some d else firstBad r

/-- What validation says. -/
inductive Verdict where
  | fail (status detail : Nat)
  | zero (body : Bytes)
  | ok
  deriving DecidableEq, Repr

/-- Step 5: class, reserved bits, flags, PARAM_LEN and the extension list (R57, R64, R72, R82); the offset in error
with the optional items ignored before it, or the command with its extension items. -/
def step5 (s : State) (p : Fin 4) (c : Cmd) (o : OpSpec) : Sum (Nat × Nat) Cmd :=
  let cl := c.opcode / 256
  let n := o.len s p c
  let plen := c.params.length
  if c.cls % 4 = 0 ∧ cl ≠ 3 ∧ cl ≠ 8 then .inl (4, 0)
  else if 4 ≤ c.cls then .inl (4, 0)
  else if 16 ≤ c.flags then .inl (3, 0)
  else if 4096 ≤ c.tally then .inl (35, 0)
  else if c.hasExt ∧ o.tags.isNone then .inl (3, 0)
  else if plen < n then .inl (32, 0)
  else if c.hasExt then
    match extItems (o.tags.getD []) c.params 512 (roundUp n 8) [] [] 0 with
    | .bad d ign => .inl (d, ign)
    | .ok items ign => .inr { c with ext := items, ignored := ign }
  else if (o.exact s p c ∨ n = 0) ∧ plen ≠ n then .inl (32, 0)
  else .inr c

/-- Whether the tally a command names serves its tenant (R349). -/
def tallyOk (s : State) (p : Fin 4) (c : Cmd) : Bool :=
  !(nbit c.flags 3) || unitServes s 10 (32 * p.val + c.tally / 128) c.tenant

/-- Steps 6 to 8, made at acceptance and again at admission (R68). -/
def steps678 (s : State) (p : Fin 4) (c : Cmd) (o : OpSpec) : Option (Nat × Nat) :=
  match o.range s p c with
  | some d => some (stBadParam, d)
  | none =>
    if !(o.bound s p c) || !(tallyOk s p c) then some (stNotBound, 0)
    else if c.bodyMax < o.body s p c then some (stBadParam, 28)
    else none

/-- Steps 6 to 10. -/
def steps6to10 (s : State) (p : Fin 4) (c : Cmd) (o : OpSpec) : Verdict :=
  match steps678 s p c o with
  | some (st, d) => .fail st d
  | none =>
    match o.pool s p c with
    | some code => .fail stRetry code
    | none => match o.zero s p c with | some b => .zero b | none => .ok

end Sys2Proof.Machine
end

