-- ==== Sys2Proof/Machine/Admin.lean ====
section
/-!
DEFINITION. The commands NOP and IDENTIFY (Table 2.9); CANCEL stands with the ends of commands in `Contexts.lean`.
-/

namespace Sys2Proof.Machine

/-- NOP (0x0101). -/
def specNop : OpSpec := { exact := fun _ _ _ => true }

/-- NOP (R84): FENCE alone delays it, at admission. -/
def cmdNop (p : Fin 4) (ref : Nat) : Upd := withCmd p ref 0x0101 fun c => postPlain p c stOk 0

/-- IDENTIFY (0x0102). -/
def specIdentify : OpSpec := { exact := fun _ _ _ => true, body := fun _ _ _ => 32 }

/-- The body of Table 2.10. -/
def identifyBytes (s : State) (p : Fin 4) (c : Cmd) : Bytes :=
  [0x56, 0x58, 0x38, 0x2D, 0x41, 0x32, 0x34, 0x4C, 0xA1] ++ natLE 1 p.val ++ natLE 3 (partId s) ++ zeros 1 ++
  natLE 2 (bellUs s) ++ natLE 6 (frameNow s) ++ natLE 2 (if c.ring < 32 then c.ring else 0) ++
  natLE 4 (((s.sys.sec.booted[1]?).map (·.version)).getD 0) ++ natLE 2 c.tenant ++ zeros 2

/-- IDENTIFY (R66). -/
def cmdIdentify (p : Fin 4) (ref : Nat) : Upd :=
  withCmd p ref 0x0102 fun c => .read fun s => postReply p c stOk 0 (identifyBytes s p c)

def execNop (p : Fin 4) (ref : Nat) (s : State) : Host.Outcome State Fault Refusal := (cmdNop p ref).go s
def execIdentify (p : Fin 4) (ref : Nat) (s : State) : Host.Outcome State Fault Refusal := (cmdIdentify p ref).go s

end Sys2Proof.Machine
end

