-- ==== Sys2Proof/Machine/Credit.lean ====
section
/-!
DEFINITION. End-to-end credits at both ends (R438, R439): grants, their return, and the packets they release.
-/

namespace Sys2Proof.Machine

/-- The FABRIC ring of a partition, by its registers. -/
def fabricRing (s : State) (p : Fin 4) : Option Nat :=
  (List.range 32).find? fun r => bit (rd s .ringCfg p r) 63 && fld (rd s .ringCfg p r) 59 58 == 2

/-- Credits lent: for requests of a class, or for commands to a partition. -/
def lentOut (s : State) (request : Bool) (cls partition : Nat) : Nat :=
  ((s.sys.fab.lent.filter fun c => c.request == request && (if request then c.cls == cls else c.partition == partition)).map (·.count)).foldl (· + ·) 0

/-- Slots a destination may still lend: a quarter is kept for class 0 (R439). -/
def lendable (s : State) (request : Bool) (cls partition : Nat) : Nat :=
  let all := if request then 4096
    else match fabricRing s (toP partition) with | some r => 2 ^ fld (rd s .ringCfg (toP partition) r) 3 0 | none => 0
  (if cls = 0 then all else all - all / 4) - lentOut s request cls partition

/-- Asks in the order they are served: class 0 first, then the oldest. -/
def asksInOrder (l : List Ask) : List Ask := l.filter (·.cls == 0) ++ l.filter (·.cls != 0)

/-- Grants in batches of up to 4 for the asks that free slots allow. -/
def serveAsks : Upd :=
  .read fun s =>
    .each (asksInOrder s.sys.fab.asks) fun a =>
      .read fun s =>
        let n := min (min a.count 4) (lendable s a.request a.cls a.partition)
        let part := fld ((aget s.sys.fab.peers0Live a.peer).getD 0) 19 0
        if n = 0 then .skip
        else .seq [.sys fun y => { y with fab := { y.fab with
              asks := if a.count = n then y.fab.asks.erase a else y.fab.asks.map fun b => if b = a then { b with count := b.count - n } else b
              lent := creditMod y.fab.lent a.peer a.request a.cls a.partition (frameNow s) (· + n) } },
          enqueue (mkPacket s a.cls part 0 a.partition (.credit (Fin.ofNat 4 a.cls) a.request true (toP a.partition) n)) false 0]

/-- A lent credit that comes back with a completion, or with the acceptance of a command. -/
def creditBack (part : Nat) (request : Bool) (cls partition : Nat) (n : Nat := 1) : Upd :=
  .read fun s =>
    match peerOf s part with
    | none => .skip
    | some i => .seq [.sys fun y => { y with fab := { y.fab with
        lent := creditMod y.fab.lent i request cls partition (frameNow s) (· - n) } }, serveAsks]

/-- Whether a packet waits for credits of one kind. -/
def heldFor (part : Nat) (request : Bool) (cls partition : Nat) (q : Packet) : Bool :=
  q.dst == part && creditKind q.body == some request && q.cls.val == cls && (request || q.dstPartition.val == partition)

/-- Packets that wait for credits sent, oldest first, while credits last. -/
def sendHeld (part peer : Nat) (request : Bool) (cls partition : Nat) : Upd :=
  .read fun s =>
    let go := (s.sys.fab.held.filter (heldFor part request cls partition)).take (creditsHeld s peer request cls partition)
    .each go fun q =>
      .seq [.sys fun y => { y with fab := { y.fab with
          held := y.fab.held.erase q, credits := creditMod y.fab.credits peer request cls partition (frameNow s) (· - 1) } },
        sendOwn q]

end Sys2Proof.Machine
end

