-- ==== Sys2Proof/Machine/Ends.lean ====
section
/-!
DEFINITION. How a command ends on memory it cannot use (R319, R352, R353, R511), shared by the engines.
-/

namespace Sys2Proof.Machine

/-- A command ended by a poisoned line: the read is recorded, the fault record written, POISONED posted. -/
def endPoison (p : Fin 4) (c : Cmd) (source line detail : Nat) (body : Bytes) : Upd :=
  .read fun s => .seq [memErr .poison p source line,
    fault p (faultOf s p c { faultBase 0x0C 0 with addr := line }), postReply p c stPoisoned detail body]

/-! ### Coherent regions as an engine meets them (chapter 16) -/

/-- A domain of the part. -/
def domOf (s : State) (id : Nat) : Option Domain := s.sys.coh.doms.find? (·.id == id)

/-- Whether two ranges overlap. -/
def overlap (a n b m : Nat) : Bool := decide (a < b + m) && decide (b < a + n)

/-- Regions in force that a range overlaps, and the region of a line. -/
def regionsAt (s : State) (a n : Nat) : List Region' :=
  s.sys.coh.regions.filter fun r => r.opening.isNone && overlap a n r.base r.bytes
def regionAt (s : State) (line : Nat) : Option Region' := (regionsAt s line 1).head?

/-- Whether a region's domain is FAILED. -/
def regFailed (s : State) (r : Region') : Bool := match domOf s r.dom with | some d => d.failed | none => false

/-- Whether a local engine's access would meet a FAILED domain or a LOST line (R479). -/
def cohDead (s : State) (a n : Nat) : Bool :=
  decide (n ≠ 0) && ((regionsAt s a n).any (fun r => r.allLost || regFailed s r) ||
    s.sys.coh.dir.any fun c => c.2.st == .lost && overlap a n c.1 64)

/-- An access that cannot be made recorded, by the status it gives: one to a failed domain is no memory error. -/
def accessErr (p : Fin 4) (source status addr : Nat) : Upd :=
  if status = stNotBound then memErr .unmapped p source addr
  else if status = stPoisoned then memErr .poison p source addr
  else if status = stDomainFailed then .skip
  else memErr .cellarWrite p source addr

/-- A command ended by an access it may not make: status and address as the access check gives them. -/
def endAccess (p : Fin 4) (c : Cmd) (source status addr : Nat) : Upd :=
  if status = stPoisoned then endPoison p c source addr 0 []
  else .seq [accessErr p source status addr, postPlain p c status 0]

/-- Why a local range cannot be used: a status and an address (R319, R352, R353, R479). -/
def rangeFail (s : State) (p : Fin 4) (tenant : Nat) (write : Bool) (x : Nat × Nat) : Option (Nat × Nat) :=
  if x.2 = 0 then none
  else match access s p tenant x.1 x.2 write with
    | .unmapped => some (stNotBound, x.1)
    | .cellarWrite => some (stBadParam, x.1)
    | .ok => if cohDead s (unalias s x.1) x.2 then some (stDomainFailed, x.1)
      else if write then none else (poisonIn s x.1 x.2).map (stPoisoned, ·)

/-- Whether a local range named by a command may be used by its tenant, and whether it lies in the Cellar window. -/
def rangeMine (s : State) (p : Fin 4) (c : Cmd) (a n : Nat) : Bool :=
  let b := unalias s a
  rangeBound s c.tenant b n && crossOk s p b
def inCellar (s : State) (a : Nat) : Bool := regionOf (unalias s a) == .cellar

end Sys2Proof.Machine
end

