-- ==== Sys2Proof/Machine/Traffic.lean ====
section
/-!
DEFINITION. Shapers and meters (chapter 15): the refill at the Bell (R452) and the colouring of commands and requests (R454,
R455).
-/

namespace Sys2Proof.Machine

/-- What a meter says: go on at a class, or refused by meter m. -/
inductive Metered where
  | pass (cls : Nat)
  | refuse (m : Nat)
  deriving DecidableEq, Repr

/-- The meter that applies: the lowest enabled one for the tenant whose CLASS_MASK includes the class (R454). -/
def meterFor (s : State) (p : Fin 4) (tenant cls : Nat) : Option Nat :=
  (List.range 64).find? fun m =>
    let w := lv s .meterCfg p m
    bit w 63 && fld w 11 0 == tenant && bit w (12 + cls)

/-- TOKENS of a bucket. -/
def tokens (w : Word) : Nat := fld w 59 40
def tokenTake (r : R) (p : Fin 4) (i n : Nat) : Upd := regMod r p i fun w => setFld w 59 40 (tokens w - n)

/-- The action of a code of METER_CFG.ACT (R455). -/
def meterAct (code m cls : Nat) : Metered :=
  match code with | 1 => .pass (min (cls + 1) 3) | 2 => .refuse m | _ => .pass cls

/-- A command or request metered (R455): green, yellow or red, with a token taken; what follows gets the verdict. -/
def metered (p : Fin 4) (tenant cls : Nat) (k : Metered → Upd) : Upd :=
  .read fun s =>
    match meterFor s p tenant cls with
    | none => k (.pass cls)
    | some m =>
      let act := fld (lv s .meterCfg p m) 47 32
      if tokens (rd s .meterC p m) ≠ 0 then
        .seq [tokenTake .meterC p m 1, regCount .meterCount p m 63 32 1, k (.pass cls)]
      else if tokens (rd s .meterE p m) ≠ 0 then
        .seq [tokenTake .meterE p m 1, regCount .meterCount p m 31 16 1, k (meterAct (nfld act (4 * cls + 1) (4 * cls)) m cls)]
      else
        .seq [regCount .meterCount p m 15 0 1, regSetBit .polStatus p 0 62,
          k (meterAct (nfld act (4 * cls + 3) (4 * cls + 2)) m cls)]

/-- The registers that hold a bucket. -/
def isBucket (r : R) : Bool :=
  [R.portShape1, .portShape2, .portShape3, .partShape1, .partShape2, .partShape3, .meterC, .meterE].contains r

/-- Where a bucket's ENABLE and ON_CHANGE stand: its own register, or its meter's. -/
def bucketCfg (s : State) (k : RegKey) : Word :=
  if k.r = .meterC ∨ k.r = .meterE then rd s .meterCfg k.p k.i else rd s k.r k.p k.i

/-- Whether a bucket's settings were written since the last Bell step. -/
def bucketTouched (s : State) (k : RegKey) : Bool :=
  s.sys.touched.contains k || ((k.r == .meterC || k.r == .meterE) &&
    (s.sys.touched.contains ⟨.meterCfg, k.p, k.i⟩ || s.sys.touched.contains ⟨.meterC, k.p, k.i⟩ ||
     s.sys.touched.contains ⟨.meterE, k.p, k.i⟩))

/-- One bucket refilled (R452); a disabled shaper keeps its TOKENS. -/
def bucketRefill (k : RegKey) : Upd :=
  .read fun s =>
    let cfg := bucketCfg s k
    let w := rd s k.r k.p k.i
    let burst := fld w 39 20
    let start := if bucketTouched s k then (if bit cfg 62 then 0 else burst) else tokens w
    let meter := k.r == .meterC || k.r == .meterE
    let t := min burst (start + fld w 19 0)
    .when ((meter || bit cfg 63) && t != tokens w) (.reg k.r k.p k.i (setFld w 59 40 t))

/-- Action 4 of a Bell step: every bucket that is not at its reset value, which a refill would not change; the counts of a
meter whose ENABLE goes from 0 to 1 return to 0 (Table 15.7). -/
def trafficBell : Upd :=
  .read fun s =>
    .seq [.each ((s.regs.map (·.1)).filter fun k => k.r == .meterCfg) fun k =>
        .when (bit (rd s .meterCfg k.p k.i) 63 && !(bit (lv s .meterCfg k.p k.i) 63)) (.reg .meterCount k.p k.i 0),
      .each ((s.regs.map (·.1)).filter fun k => isBucket k.r) bucketRefill,
      .sys fun y => { y with touched := [] }]

end Sys2Proof.Machine
end

