-- ==== Sys2Proof/Machine/Coh.lean ====
section
/-!
DEFINITION. Coherence (chapter 16): the directory and its transactions (R465 to R471), failure of a domain (R476 to R479),
and what accesses by engines, hosts and other parts meet in a coherent region.
-/

namespace Sys2Proof.Machine

/-! ### Lookups -/

def regOf (s : State) (id : Nat) : Option Region' := s.sys.coh.regions.find? (·.id == id)

def cohMod (f : CohSt → CohSt) : Upd := .sys fun y => { y with coh := f y.coh }
def domMod (id : Nat) (f : Domain → Domain) : Upd :=
  cohMod fun c => { c with doms := c.doms.map fun d => if d.id = id then f d else d }
def regionMod (id : Nat) (f : Region' → Region') : Upd :=
  cohMod fun c => { c with regions := c.regions.map fun r => if r.id = id then f r else r }
def extMod (id : Nat) (f : Ext → Ext) : Upd :=
  cohMod fun c => { c with exts := c.exts.map fun e => if e.id = id then f e else e }

/-- Fields of an agent entry (Table 16.2). -/
def agHost (w : Nat) : Bool := nbit w 24
def agLd (w : Nat) : Nat := nfld w 23 20
def agPart (w : Nat) : Nat := nfld w 19 0

/-- The agent entry of an index of a domain: none for an index it does not have or has dropped. -/
def agentOf (d : Domain) (i : Nat) : Option Nat := (d.agents[i]?).getD none

/-- The index of an agent entry. -/
def agentIdx (d : Domain) (w : Nat) : Option Nat := d.agents.findIdx? (· == some w)

/-- The directory's state of a line: none is state I. -/
def lineSt (s : State) (line : Nat) : Option DirState :=
  match regionAt s line with
  | some r => if r.allLost then some .lost else (aget s.sys.coh.dir line).map (·.st)
  | none => none

/-- The partition whose directory holds a line. -/
def lineP (line : Nat) : Fin 4 := toP (stackOf line / 6)

/-- Directory entries of a partition. -/
def dirUsed (s : State) (p : Fin 4) : Nat := s.sys.coh.dir.countP fun c => lineP c.1 == p

/-- Lines of a range that hosts hold in a way that calls for a recall: for a read those in A, for a write all (Table 16.4). -/
def cohHeld (s : State) (a n : Nat) (write : Bool) : List Nat :=
  if n = 0 then []
  else ((s.sys.coh.dir.filter fun c => overlap a n c.1 64 && (match c.2.st with
    | .owned _ => true | .shared _ => write | .lost => false)).map (·.1))

/-! ### The directory -/

/-- A line's entry set; the first entry made for it takes the next place in the order. -/
def dirSet (line : Nat) (st : Option DirState) : Upd :=
  .seq [cohMod fun c => match st with
      | none => { c with dir := adel c.dir line }
      | some d => match aget c.dir line with
        | some e => { c with dir := aset c.dir line { e with st := d } }
        | none => { c with dir := aset c.dir line { st := d, order := c.nextOrder }, nextOrder := c.nextOrder + 1 },
    .read fun s => regMod .cohStatus (lineP line) 0 fun w => setFld w 22 0 (dirUsed s (lineP line))]

/-- A line's state without one holder. -/
def without (h : Nat) : Option DirState → Option DirState
  | some (.shared m) => let r := m.filter (· != h); if r.isEmpty then none else some (.shared r)
  | some (.owned o) => if o = h then none else some (.owned o)
  | d => d

/-- A line's state with one more sharer. -/
def withSharer (h : Nat) : Option DirState → Option DirState
  | some (.shared m) => some (.shared (if m.contains h then m else m ++ [h]))
  | some (.owned o) => some (.shared (if o = h then [h] else [o, h]))
  | some .lost => some .lost
  | none => some (.shared [h])

/-- Holders of a line. -/
def holdersOf : Option DirState → List Nat
  | some (.shared m) => m
  | some (.owned o) => [o]
  | _ => []

/-- A line marked LOST. -/
def lineLost (line : Nat) : Upd := .seq [dirSet line (some .lost), regCount .cohCount1 (lineP line) 0 63 48 1]

/-! ### Messages to hosts and parts -/

/-- A coherence message sent to a part (R471: class 0). -/
def cohSend (part ten tag : Nat) (poison : Bool) (msg : CohMsg) (mt : Meta) (agent line : Nat) (data : Bytes) : Upd :=
  .read fun s => enqueue { mkPacket s 0 part ten 0 (.coh msg mt agent line data) with tag, poison } false 0

/-- An answer to a host: through the part's own port, or to its bridge. -/
def toHost (d : Domain) (agent tag : Nat) (poison : Bool) (msg : CohMsg) (mt : Meta) (line : Nat) (data : Bytes) : Upd :=
  .read fun s =>
    match agentOf d agent with
    | none => .skip
    | some w =>
      if agPart w = partId s then match msg with
        | .biSnp => .seq [emit (.hostSnoop (agLd w) line (mt == .shared)),
            cohMod fun c => { c with asked := (partId s, agent, line, agLd w) :: c.asked }]
        | _ => emit (.hostData (agLd w) tag poison data)
      else .seq [cohSend (agPart w) d.tenant tag poison msg mt agent line data, .when (msg != .biSnp) (creditBack (agPart w) true 0 0)]

/-- Snoops out to a bridge (R471: 256 credits). -/
def snoopsOut (s : State) (bridge : Nat) : Nat :=
  (s.sys.coh.txns.flatMap fun t => t.snoops.filter fun n => n.sent.isSome && (match regionAt s t.line with
    | some r => match domOf s r.dom with
      | some d => (agentOf d n.agent).map agPart == some bridge
      | none => false
    | none => false)).length

/-- Snoops of a line that hold no credit yet sent while credits last. -/
def snoopSend (t : Txn) : Upd :=
  .each (t.snoops.filter (·.sent.isNone)) fun n =>
    .read fun s =>
      match (regionAt s t.line).bind fun r => domOf s r.dom with
      | none => .skip
      | some d => match agentOf d n.agent with
        | none => .skip
        | some w =>
          if snoopsOut s (agPart w) < 256 then
            .seq [cohMod (fun c => { c with txns := c.txns.map fun x =>
                if x.line = t.line ∧ x.begun then { x with snoops := x.snoops.map fun m => if m = n then { m with sent := some (frameNow s) } else m }
                else x }),
              regCount .cohCount0 (lineP t.line) 0 63 32 1,
              .when (t.req == .recall true true) (regCount .cohCount0 (lineP t.line) 0 31 0 1),
              toHost d n.agent 0 false .biSnp (if n.inv then .invalid else .shared) t.line []]
          else .skip

/-! ### Failure (R476, R477) -/

/-- A recall asked for, unless one for the line waits already. -/
def askRecall (line : Nat) (inv cap : Bool) : Upd :=
  cohMod fun c =>
    if c.txns.any fun t => t.line == line && (match t.req with | .recall i _ => i || !inv | _ => false) then c
    else { c with txns := c.txns ++ [{ line, req := .recall inv cap, begun := false, snoops := [], after := none }] }

/-- The lines of a domain's regions with an entry, by its partitions' directories. -/
def domLines (s : State) (id : Nat) : List (Nat × DirEntry) :=
  s.sys.coh.dir.filter fun c => match regionAt s c.1 with | some r => r.dom == id | none => false

/-- FAIL to every other part that is an agent or a bridge of the domain. -/
def sendFail (d : Domain) (cause agent : Nat) : Upd :=
  .read fun s =>
    .each (((d.agents.filterMap id).map agPart).eraseDups.filter (· != partId s)) fun q =>
      cohSend q d.tenant 0 false .fail .invalid 0 0 (natLE 1 d.id ++ natLE 1 cause ++ natLE 1 agent ++ zeros 5)

/-- The lines a dead agent leaves: A becomes LOST, S loses it; what live hosts hold is recalled. -/
def deadLines (id : Nat) (dead : List Nat) : Upd :=
  .read fun s =>
    .each (domLines s id) fun c =>
      match c.2.st with
      | .owned o => if dead.contains o then lineLost c.1 else askRecall c.1 true false
      | .shared m =>
        let live := m.filter fun h => !(dead.contains h)
        .seq [dirSet c.1 (if live.isEmpty then none else some (.shared live)), .when (!live.isEmpty) (askRecall c.1 true false)]
      | .lost => .skip

/-! ### Extents (R322, R472 to R475) -/

/-- What an agent's access to a line or range of a region meets. -/
inductive ExtAccess where
  | ok | readOnly | revoked | none | failed
  deriving DecidableEq, Repr

/-- Whether an extent covers a range. -/
def extCovers (r : Region') (e : Ext) (a n : Nat) : Bool :=
  e.region == r.id && decide (r.base + e.offset ≤ a) && decide (a + n ≤ r.base + e.offset + e.bytes)

/-- Whether an extent may be used: ACTIVE, or RELEASING until the host gives it back or, for a part, at all (R473). -/
def extUsable (host : Bool) (e : Ext) : Bool :=
  match e.st with | .active => true | .releasing => host && !e.released | _ => false

/-- Whether an agent of a domain held a range under an extent that was revoked less than 64 frames ago (R475). -/
def extRevoked (s : State) (dom agent a n : Nat) : Bool :=
  s.sys.coh.exts.any fun e => e.dom == dom && e.holder == agent && decide (e.base ≤ a) && decide (a + n ≤ e.base + e.bytes) &&
    (match e.st with | .revoked f => decide (frameNow s < f + 64) | _ => false)

/-- The access of an agent index of a domain to a range of one of its regions. -/
def extAccess (s : State) (r : Region') (d : Domain) (agent a n : Nat) (write : Bool) : ExtAccess :=
  let host := match agentOf d agent with | some w => agHost w | none => false
  let mine := s.sys.coh.exts.filter fun e => e.holder == agent && extCovers r e a n
  if mine.any fun e => extUsable host e && (!write || e.rw) then
    (if d.failed || cohDead s a n then .failed else .ok)
  else if mine.any (extUsable host) then (if d.failed || cohDead s a n then .failed else .readOnly)
  else if extRevoked s d.id agent a n then .revoked
  else .none

/-! ### Transactions (R466, R467) -/

/-- The recalls a transaction needs, by the line's state (Table 16.4). -/
def needs (st : Option DirState) : CohReq → List (Nat × Bool)
  | .hostRd .any h _ => (holdersOf st |>.filter (· != h)).map (·, true)
  | .hostRd _ h _ => match st with | some (.owned o) => if o = h then [] else [(o, false)] | _ => []
  | .hostWr _ h _ _ => (holdersOf st |>.filter (· != h)).map (·, true)
  | .recall true _ => (holdersOf st).map (·, true)
  | .recall false _ => match st with | some (.owned o) => [(o, false)] | _ => []

/-- A line's 64 bytes for a host, poison with it. -/
def hostRead (d : Domain) (agent tag line : Nat) (mt : Meta) : Upd :=
  .read fun s =>
    let bad := (poisonIn s line 64).isSome
    .seq [.when bad (memErr .poison (lineP line) 6 line), chargeRead s d.tenant line 64,
      toHost d agent tag bad .hData mt line (memBytes s line 64)]

/-- A host's whole line stored. -/
def hostStore (d : Domain) (line : Nat) (data : Bytes) : Upd :=
  .read fun s => .seq [memStore line (padTo 64 data), chargeWrite s d.tenant line 64]

/-- A host write discarded and counted (Table 16.8, R474, R475). -/
def hostDiscard (d : Domain) (agent tag line : Nat) : Upd :=
  .seq [regCount .cohCount1 (lineP line) 0 47 32 1, toHost d agent tag false .hCmp .invalid line []]

/-- A host read that gets poisoned data. -/
def hostPoison (d : Domain) (agent tag line : Nat) : Upd := toHost d agent tag true .hData .invalid line (zeros 64)

/-- A host access outside every extent (R353): recorded with SOURCE 6. -/
def hostRefused (line : Nat) : Upd := .read fun s => memErr .unmapped ((ownerOf s line).getD 0) 6 line

/-- A transaction performed once its recalls are answered. -/
def txnPerform (t : Txn) : Upd :=
  .read fun s =>
    match regionAt s t.line with
    | none => .skip
    | some r => match domOf s r.dom with
      | none => .skip
      | some d =>
        let st := lineSt s t.line
        match t.req with
        | .recall _ _ => .skip
        | .hostRd mt h tag =>
          match extAccess s r d h t.line 64 false with
          | .ok | .readOnly =>
            .seq [match mt with
                | .any => dirSet t.line (some (.owned h))
                | .shared => dirSet t.line (withSharer h st)
                | .invalid => .skip,
              hostRead d h tag t.line mt]
          | .none => .seq [hostRefused t.line, hostPoison d h tag t.line]
          | _ => hostPoison d h tag t.line
        | .hostWr mt h tag data =>
          match extAccess s r d h t.line 64 true with
          | .ok =>
            .seq [hostStore d t.line data,
              dirSet t.line (if mt = .shared then some (.shared [h]) else without h st),
              toHost d h tag false .hCmp .invalid t.line []]
          | .none => .seq [hostRefused t.line, toHost d h tag false .hCmp .invalid t.line []]
          | _ => hostDiscard d h tag t.line

/-- Whether a transaction still waits for room in the directory. -/
def txnBlocked (s : State) (t : Txn) : Bool :=
  match t.after with
  | some l => s.sys.coh.txns.any fun x => x.line == l && x.req == .recall true true
  | none => false

/-- The oldest entry of a partition's directory that a recall can free. -/
def dirOldest (s : State) (p : Fin 4) : Option Nat :=
  (s.sys.coh.dir.filter fun c => lineP c.1 == p && c.2.st != .lost).foldl (fun (a : Option (Nat × DirEntry)) c => match a with
    | none => some c
    | some b => if c.2.order < b.2.order then some c else some b) none |>.map (·.1)

/-- A transaction begun: room made for a new entry where the directory is full (R465), its recalls sent. -/
def txnBegin (t : Txn) : Upd :=
  .read fun s =>
    let p := lineP t.line
    let st := lineSt s t.line
    let grows : Bool := match t.req with | .hostRd .invalid _ _ => false | .hostRd _ _ _ => st.isNone | _ => false
    let swap (u : Txn) : Upd := cohMod fun c => { c with txns := c.txns.map fun x => if x = t then u else x }
    match (if grows ∧ t.after.isNone ∧ 4194304 ≤ dirUsed s p then dirOldest s p else none) with
    | some l => .seq [swap { t with after := some l }, askRecall l true true, regSetBit .cohStatus p 0 62]
    | none =>
      let u := { t with begun := true, snoops := (needs st t.req).map fun n => { agent := n.1, inv := n.2, sent := none } }
      .seq [swap u, snoopSend u]

/-- One step of the first transaction that can move: the first of its line, not waiting for room. -/
def txnStep : Upd :=
  .read fun s =>
    let l := s.sys.coh.txns
    let first (t : Txn) : Bool := (l.find? (·.line == t.line)) == some t
    match l.find? fun t => first t && !(txnBlocked s t) && (!t.begun || t.snoops.isEmpty) with
    | none => .skip
    | some t =>
      if t.begun then .seq [txnPerform t, cohMod fun c => { c with txns := c.txns.erase t }] else txnBegin t

/-- Steps as long as any transaction can move. -/
def txnRun : Nat → Upd
  | 0 => .skip
  | n + 1 => .seq [txnStep, txnRun n]

/-- Every transaction that can move, moved. -/
def cohRun : Upd := .read fun s => txnRun (3 * s.sys.coh.txns.length + 3)

/-- A domain failed at this part (R476): agent 0xFF names none; `dead`: whether the agent named is dead. -/
def cohFail (id cause agent : Nat) (dead : Bool) : Upd :=
  .read fun s =>
    match domOf s id with
    | none => .skip
    | some d =>
      if d.failed then .skip
      else
        let gone := if dead && agent != 0xFF then [agent] else []
        let homes := allP.filter fun p => s.sys.coh.regions.any fun r => r.dom == id && r.p == p
        .seq [domMod id fun d => { d with failed := true, cause, agent, failFrame := frameNow s, dead := gone },
          .each homes fun p => .seq [regSetBit .cohStatus p 0 63, regCount .cohCount1 p 0 15 0 1],
          deadLines id gone, cohRun,
          sendFail d cause agent,
          fault ((homes.head?).getD 0) { faultBase 0x10 0 with
            partLevel := true, tenant := d.tenant, detail := natLE 1 id ++ natLE 1 cause ++ natLE 1 agent }]

/-- Every domain with a host agent on this part's port fails. -/
def hostDomsFail (cause : Nat) (dead : Bool) (ld : Nat → Bool) : Upd :=
  .read fun s => .each s.sys.coh.doms fun d =>
    match (indexed d.agents).find? fun e => match e.2 with | some w => agHost w && agPart w == partId s && ld (agLd w) | none => false with
    | some e => cohFail d.id cause e.1 dead
    | none => .skip

/-- A transaction that arrives. -/
def txnAdd (line : Nat) (req : CohReq) : Upd :=
  .seq [cohMod fun c => { c with txns := c.txns ++ [{ line, req, begun := false, snoops := [], after := none }] }, cohRun]

/-- An engine's accesses (address, bytes, write) made when no host holds a line in their way; else the lines are recalled and
the engine waits for its next turn (R466, R467). -/
def cohGate (rs : List (Nat × Nat × Bool)) (u : Upd) : Upd :=
  .read fun s =>
    let held := rs.flatMap fun x => (cohHeld s x.1 x.2.1 x.2.2).map (·, x.2.2)
    if held.isEmpty then u
    else .seq [.each held fun x => askRecall x.1 x.2 false, cohRun]

/-! ### Requests of hosts -/

/-- A protocol error (Table 16.7, cause 4). -/
def protocol (d : Domain) (agent : Nat) : Upd := cohFail d.id 4 agent false

/-- Whether a transaction on a line waits for an agent: for the answer to its snoop, or for a credit to send it. -/
def snoopTo (s : State) (line agent : Nat) : Bool :=
  s.sys.coh.txns.any fun t => t.line == line && t.begun && t.snoops.any fun n => n.agent == agent

/-- A host's read of a line (H_RD). -/
def cohRd (d : Domain) (agent tag line : Nat) (mt : Meta) : Upd :=
  .read fun s =>
    match (regionAt s line).filter (·.dom == d.id) with
    | none => .seq [.when (!(extRevoked s d.id agent line 64)) (hostRefused line), hostPoison d agent tag line]
    | some r => match extAccess s r d agent line 64 false with
        | .none => .seq [hostRefused line, hostPoison d agent tag line]
        | .failed | .revoked => hostPoison d agent tag line
        | _ => if lineSt s line = some (.owned agent) then protocol d agent else txnAdd line (.hostRd mt agent tag)

/-- A host's write of a line (H_WR); one that answers a recall is performed before the recall completes. -/
def cohWr (d : Domain) (agent tag line : Nat) (mt : Meta) (data : Bytes) : Upd :=
  .read fun s =>
    match (regionAt s line).filter (·.dom == d.id) with
    | none =>
      if extRevoked s d.id agent line 64 then hostDiscard d agent tag line
      else .seq [hostRefused line, toHost d agent tag false .hCmp .invalid line []]
    | some r =>
      let owner := lineSt s line = some (.owned agent)
      if owner ∧ snoopTo s line agent then
        .seq [hostStore d line data, dirSet line (if mt = .shared then some (.shared [agent]) else none),
          toHost d agent tag false .hCmp .invalid line []]
      else match extAccess s r d agent line 64 true with
        | .none => .seq [hostRefused line, toHost d agent tag false .hCmp .invalid line []]
        | .ok => if mt = .any ∨ (mt = .shared ∧ ¬owner) then protocol d agent else txnAdd line (.hostWr mt agent tag data)
        | _ => hostDiscard d agent tag line

/-- A host's clean eviction (H_CLN). -/
def cohCln (d : Domain) (agent tag line : Nat) : Upd :=
  .read fun s =>
    let done := toHost d agent tag false .hCmp .invalid line []
    if (holdersOf (lineSt s line)).contains agent then .seq [dirSet line (without agent (lineSt s line)), done, cohRun]
    else match regionAt s line with
      | none => done
      | some r => if r.dom = d.id ∧ extAccess s r d agent line 64 false = .ok then protocol d agent else done

/-- A snoop of a line to an agent taken off. -/
def snoopDone (line agent : Nat) : Upd :=
  cohMod fun c => { c with txns := c.txns.map fun t =>
    if t.line = line ∧ t.begun then { t with snoops := t.snoops.filter (·.agent != agent) } else t }

/-- Snoops that wait for a credit sent. -/
def snoopMore : Upd := .read fun s => .each (s.sys.coh.txns.filter (·.begun)) snoopSend

/-- A host's answer to a snoop (BI_RSP): its remaining state. One that a failure or a forced release has overtaken is dropped. -/
def cohRsp (d : Domain) (agent line : Nat) (mt : Meta) : Upd :=
  .read fun s =>
    match (s.sys.coh.txns.find? fun t => t.line == line && t.begun).bind fun t => t.snoops.find? fun n => n.agent == agent && n.sent.isSome with
    | none => if d.failed ∨ extRevoked s d.id agent line 64 then .skip else protocol d agent
    | some n =>
      if mt = .any ∨ (n.inv ∧ mt ≠ .invalid) then protocol d agent
      else
        let st := lineSt s line
        .seq [.when (!n.inv && mt == .invalid && st == some (.owned agent)) (regCount .cohCount1 (lineP line) 0 31 16 1),
          dirSet line (if mt = .shared ∧ st = some (.owned agent) then some (.shared [agent])
            else if mt = .invalid then without agent st else st),
          snoopDone line agent, snoopMore, cohRun]

/-! ### Requests of other parts -/

/-- The answer to a request (R429): at the request's class; the request credit goes back (R438). -/
def complete (pkt : Packet) (status n : Nat) (poison : Bool) (data : Bytes) : Upd :=
  .read fun s =>
    .seq [enqueue { mkPacket s pkt.cls.val pkt.src pkt.ten 0 (.compl status n data) with tag := pkt.tag, poison } false 0,
      creditBack pkt.src true pkt.cls.val 0]

/-- The agent entry of the sender of a memory request: the part, or for HOSTSRC the logical device. -/
def peerWord (pkt : Packet) : Nat := if pkt.hostSrc then pkt.src + pkt.ld * 2 ^ 20 + 2 ^ 24 else pkt.src

/-- Whether the sender of a request held the range under an extent revoked less than 64 frames ago (R475). -/
def peerRevoked (s : State) (pkt : Packet) (a n : Nat) : Bool :=
  s.sys.coh.doms.any fun d => d.tenant == pkt.ten && (match agentIdx d (peerWord pkt) with
    | some i => extRevoked s d.id i a n | none => false)

/-- What a request of another part for local memory meets (R322): tenant's memory outside coherent regions, or an extent that
the requesting part, or for HOSTSRC the requesting LD, holds. -/
def peerAccess (s : State) (pkt : Packet) (a n : Nat) (write : Bool) : ExtAccess :=
  let rs := regionsAt s a n
  if rs.isEmpty then
    if peerRevoked s pkt a n then .revoked
    else if pkt.hostSrc ∨ (write ∧ regionOf a = .cellar) ∨ !(oneRow a n) ∨ !(rangeBound s pkt.ten a n) then .none else .ok
  else match rs with
    | [r] => match domOf s r.dom with
      | none => .none
      | some d =>
        if d.tenant ≠ pkt.ten then .none
        else match agentIdx d (peerWord pkt) with
          | none => .none
          | some i => extAccess s r d i a n write
    | _ => .none

/-- The source code of a request. -/
def peerSource (pkt : Packet) : Nat := if pkt.hostSrc then 6 else 7

/-- A request refused (R322, R353, R319). -/
def peerRefused (pkt : Packet) (a : Nat) (write : Bool) : Upd :=
  .read fun s => .seq [memErr (if write ∧ regionOf (unalias s a) = .cellar then .cellarWrite else .unmapped) ((ownerOf s a).getD 0)
      (peerSource pkt) a,
    complete pkt stNotBound 0 false []]

/-- A read of local memory by another part performed. -/
def peerRead (pkt : Packet) (a n : Nat) : Upd :=
  .read fun s =>
    match peerAccess s pkt a n false with
    | .ok | .readOnly =>
      match poisonIn s a n with
      | some l => .seq [memErr .poison ((ownerOf s a).getD 0) (peerSource pkt) l, complete pkt stPoisoned n true (memBytes s a n)]
      | none => .seq [chargeRead s pkt.ten a n, complete pkt stOk n false (memBytes s a n)]
    | .failed => complete pkt stDomainFailed 0 false []
    | .revoked => complete pkt stRevoked 0 false []
    | .none => peerRefused pkt a false

/-- A write of local memory by another part performed. -/
def peerWrite (pkt : Packet) (a : Nat) (data : Bytes) : Upd :=
  .read fun s =>
    match peerAccess s pkt a data.length true with
    | .ok => .seq [memStore a data, chargeWrite s pkt.ten a data.length, complete pkt stOk data.length false []]
    | .failed => complete pkt stDomainFailed 0 false []
    | .revoked => complete pkt stRevoked 0 false []
    | _ => peerRefused pkt a true

/-- The range of a memory request. -/
def peerRange (pkt : Packet) : Nat × Nat × Bool :=
  match pkt.body with
  | .memRd _ a n => (a, n, false)
  | .memWr _ a d => (a, d.length, true)
  | _ => (0, 0, false)

/-- A memory request performed. -/
def peerDo (pkt : Packet) : Upd :=
  match pkt.body with
  | .memRd _ a n => peerRead pkt a n
  | .memWr _ a d => peerWrite pkt a d
  | _ => .skip

/-- A memory request of another part: performed, or held until the hosts in its way have answered (R466). -/
def peerMem (k : Nat) (pkt : Packet) : Upd :=
  .read fun s =>
    let (a, n, w) := peerRange pkt
    let waits := s.sys.coh.waits.any fun x => let y := peerRange x.2; overlap a n y.1 y.2.1
    let held := if peerAccess s pkt a n w = .ok then cohHeld s a n w else []
    if held.isEmpty ∧ !waits then peerDo pkt
    else .seq [cohMod fun c => { c with waits := c.waits ++ [(k, pkt)] }, .each held fun l => askRecall l w false, cohRun]

/-- Requests held for recalls performed when nothing stands in their way any more, oldest first. -/
def peerRetry : Upd :=
  .read fun s =>
    .each s.sys.coh.waits fun x =>
      .read fun s =>
        let (a, n, w) := peerRange x.2
        let ahead := (s.sys.coh.waits.takeWhile (· != x)).any fun y => let z := peerRange y.2; overlap a n z.1 z.2.1
        let held := if peerAccess s x.2 a n w = .ok then cohHeld s a n w else []
        if ahead then .skip
        else if held.isEmpty then .seq [cohMod fun c => { c with waits := c.waits.erase x }, peerDo x.2]
        else .seq [.each held fun l => askRecall l w false, cohRun]

end Sys2Proof.Machine
end

