-- ==== Sys2Proof/Machine/Link.lean ====
section
/-!
DEFINITION. The ports of the Alnos fabric (chapter 14): training, loss, flits in and out, replay, forwarding, credits and
notices, and the coherence messages that arrive.
-/

namespace Sys2Proof.Machine

/-- A port's link layer. -/
def portOf (s : State) (k : Nat) : Port := s.sys.fab.ports.get (Fin.ofNat 12 k)
def portMod (k : Nat) (f : Port → Port) : Upd :=
  .sys fun y => { y with fab := { y.fab with ports := updAt y.fab.ports (Fin.ofNat 12 k) f } }

/-- Packets dropped at a port counted. -/
def portDrops (k n : Nat) : Upd := .when (n != 0) (regCount .portErr 0 k 15 0 n)

/-- Whether a port belongs to the host port (R442). -/
def portLent (s : State) (k : Nat) : Bool := decide (k < 2) && bit (rd s .hostCfg 0) 63

/-! ### Training and loss (R423, R424) -/

/-- The check of PARTNER: an own role against what the partner gives. -/
def partnerOk (s : State) (role : Nat) (r : TrainResult) : Bool :=
  let own := partId s
  let n := groupSize s
  let m := max 1 (n / 4)
  let x := own % 4
  let y := own % 16 / 4
  let at' (x y : Nat) : Bool := r.partnerPart == own / 16 * 16 + y * 4 + x && r.partnerNParts == n
  match role with
  | 1 => r.partnerRole == 2 && at' ((x + 1) % 4) y
  | 2 => r.partnerRole == 1 && at' ((x + 3) % 4) y
  | 3 => r.partnerRole == 4 && at' x ((y + 1) % m)
  | 4 => r.partnerRole == 3 && at' x ((y + m - 1) % m)
  | 5 => r.partnerRole == 5 && r.partnerPart / 16 != own / 16
  | _ => true

/-- PORT_TRAIN (R423, R424): an attempt ends UP, or back in DOWN. -/
def cmdPortTrain (k : Fin 12) (r : Option TrainResult) : Upd :=
  .read fun s =>
    let cfg := lv s .portCfg 0 k.val
    if !(bit cfg 63) ∨ portLent s k.val ∨ fld (rd s .portStatus 0 k.val) 59 56 = 5 then .skip
    else
      let down := regMod .portStatus 0 k.val fun w => setFld w 59 56 0
      match r with
      | none => down
      | some r =>
        if r.width4 ∧ !(bit cfg 53) then down
        else
          .seq [portMod k.val fun _ => Port.reset,
            regMod .portStatus 0 k.val fun w =>
              let w := setBit (setBit (setFld w 59 56 5) 55 (r.halfRate || bit cfg 54)) 54 r.width4
              setBit (setFld (setFld w 51 48 r.partnerPort) 39 20 r.partnerPart) 62 (!(partnerOk s (fld cfg 62 60) r)),
            .reg .portDelay 0 k.val (BitVec.ofNat 64 (r.delay % 2 ^ 32))]

/-- A link lost (R423): held packets discarded and counted, DOWN_EV, a record and its notice. -/
def linkLost (k : Nat) : Upd :=
  .read fun s =>
    let n := (portOf s k).tx.length
    let own := ((portOf s k).tx.filter (!·.1)).map (·.2)
    .seq [portDrops k n, portMod k fun _ => Port.reset, discarded own,
      regMod .portStatus 0 k fun w => setBit (setFld w 59 56 0) 63 true, sendWaiting,
      fault 0 { faultBase 0x0F 0 with partLevel := true, detail := natLE 1 k ++ zeros 1 ++ natLE 2 (min n 0xFFFF) }]

/-- LINK_LOSS. -/
def cmdLinkLoss (k : Fin 12) : Upd :=
  .read fun s => .when (fld (rd s .portStatus 0 k.val) 59 56 == 5 && !(portLent s k.val)) (linkLost k.val)

/-! ### Flits that arrive (R425 to R427, R430 to R432) -/

/-- A packet that a forwarding part cannot route, or whose HOPS reaches 128 (R432). -/
def dropUnroutable (k : Nat) (pkt : Packet) : Upd :=
  .seq [portDrops k 1, regSetBit .fabStatus 0 0 62, crier 0x44 0xFF 0 0 0 (natLE 3 pkt.dst ++ natLE 1 k)]

/-- Whether LEN is in its type's range and the address word is well formed (R427, Table 14.5). -/
def packetOk (b : Payload) : Bool :=
  match b with
  | .memRd _ a n => decide (a < 2 ^ 50) && decide (1 ≤ n) && decide (n ≤ 1024)
  | .memWr _ a d => decide (a < 2 ^ 50) && decide (1 ≤ d.length) && decide (d.length ≤ 1024)
  | .compl _ _ d => decide (d.length ≤ 1024)
  | .cmd p => decide (64 ≤ p.length) && decide (p.length ≤ 4160)
  | .notice d => d.length == 64
  | .map _ _ _ es => decide (16 + 16 * es.length ≤ 1024)
  | .coh _ _ _ _ d => decide (d.length ≤ 64)
  | .credit _ _ _ _ n => decide (n < 65536)
  | .bell _ => true
  | .malformed => false

/-- A packet that arrives at a port: for this part it waits to be acted on, else it is forwarded. Bell packets come with their
own event. -/
def arrive (k : Nat) (pkt : Packet) : Upd :=
  .read fun s =>
    let bellOnly := bit (rd s .portStatus 0 k) 62 || fld (lv s .portCfg 0 k) 62 60 == 0
    match pkt.body with
    | .bell _ => .skip
    | _ =>
      if !(packetOk pkt.body) then portDrops k 1
      else if bellOnly ∨ partId s = 0xFFFFF then .skip
      else if pkt.dst = partId s then .sys fun y => { y with fab := { y.fab with rx := y.fab.rx ++ [(k, pkt)] } }
      else if 127 ≤ pkt.hops ∨ (portFor s pkt true).isNone then dropUnroutable k pkt
      else enqueue pkt true (fld (lv s .portCfg 0 k) 62 60)

/-- FLIT_RX (R426): an intact flit in order is taken; a wrong CRC discards it and every later one until the replay. An intact flit
also acknowledges, and returns link credit for, the flits sent so far. -/
def cmdFlitRx (k : Fin 12) (crcOk : Bool) (seq : Nat) (packets : List Packet) : Upd :=
  .read fun s =>
    let t := portOf s k.val
    if fld (rd s .portStatus 0 k.val) 59 56 ≠ 5 ∨ portLent s k.val then .skip
    else if !crcOk then
      if t.awaitReplay then .skip
      else .seq [portMod k.val fun t => { t with awaitReplay := true }, regCount .portErr 0 k.val 31 16 1,
        emit (.replayReq k.val t.lastGood)]
    else if seq ≠ (t.lastGood + 1) % 65536 then .skip
    else .seq [portMod k.val fun t => { t with lastGood := seq, awaitReplay := false, used := [] }, .each packets (arrive k.val)]

/-- REPLAY_REQUEST (R426): the flits after the last good one sent again; a flit replayed 8 times in a row loses the link (R423). -/
def cmdReplayRequest (k : Fin 12) (lastGood : Nat) : Upd :=
  .read fun s =>
    let t := portOf s k.val
    let l := t.sent.reverse.dropWhile fun f => f.1 != (lastGood + 1) % 65536
    if fld (rd s .portStatus 0 k.val) 59 56 ≠ 5 ∨ portLent s k.val ∨ l.isEmpty then .skip
    else
      let n := if t.replaySeq = lastGood then t.replays + 1 else 1
      if 8 ≤ n then linkLost k.val
      else .seq [portMod k.val fun t => { t with replays := n, replaySeq := lastGood }, .each l fun f => emit (.flit k.val f.1 f.2)]

/-! ### Flits that leave (R434, R436, R448 to R450) -/

/-- Input buffer of the far port for a class and VL, in 16-byte blocks (Table 14.6). -/
def linkBuffer (cls : Nat) : Nat := if cls = 0 then 1024 else 4096

/-- Packets placed in a flit of 64 blocks: those that complete in it, the blocks then sent of the next one, and the packets begun. -/
def fillFlit : Option Nat → Nat → Nat → List Packet → List Packet × Nat × Nat
  | _, _, prog, [] => ([], prog, 0)
  | tok, room, prog, p :: r =>
    let need := packetBlocks p - prog
    if room = 0 ∨ (prog = 0 ∧ tok = some 0) then ([], prog, 0)
    else
      let one := if prog = 0 then 1 else 0
      if need ≤ room then
        let (l, g, n) := fillFlit (tok.map (· - one)) (room - need) 0 r
        (p :: l, g, n + one)
      else ([], prog + room, one)

/-- The port shaper of a class. -/
def portShape (cls : Nat) : R := if cls = 1 then .portShape1 else if cls = 2 then .portShape2 else .portShape3

/-- Tokens a class has for packets of the part's own; none: no limit (R450). -/
def portTokens (s : State) (k cls : Nat) : Option Nat :=
  if cls = 0 ∨ !(bit (lv s (portShape cls) 0 k) 63) then none else some (tokens (rd s (portShape cls) 0 k))

/-- The packets of a port of a class, VL and kind, in order. -/
def lane (t : Port) (cls vl : Nat) (fwd : Bool) : List Packet :=
  (t.tx.filter fun x => x.1 == fwd && x.2.cls.val == cls && x.2.vl.val == vl).map (·.2)

/-- The lane of a class and kind that a flit could serve: that of its oldest packet whose VL holds link credit and, for a packet
of the part's own not yet begun, whose shaper holds a token. -/
def laneFor (s : State) (k cls : Nat) (fwd : Bool) : Option Nat :=
  let t := portOf s k
  (t.tx.find? fun x =>
    x.1 == fwd && x.2.cls.val == cls && decide ((aget t.used (4 * cls + x.2.vl.val)).getD 0 + 65 ≤ linkBuffer cls) &&
    (fwd || portTokens s k cls != some 0 || (aget t.prog (8 * cls + 2 * x.2.vl.val)).getD 0 != 0)).map (·.2.vl.val)

/-- The kind a class's turn falls to: forwarded and local flits alternate (R434). -/
def turnFor (s : State) (k cls : Nat) : Option (Bool × Nat) :=
  let last := (aget (portOf s k).turn cls).getD false
  match laneFor s k cls (!last), laneFor s k cls last with
  | some v, _ => some (!last, v)
  | none, some v => some (last, v)
  | none, none => none

/-- The class served: class 0, else the weighted round robin of R448, a new round when no class with a turn left is eligible. The classes
passed over for want of an eligible flit have given up the rest of their turn in the round. -/
def classFor (s : State) (k : Nat) : Option (Nat × Assoc Nat) :=
  let t := portOf s k
  let w (c : Nat) : Nat := fld (lv s .portWrr 0 k) (8 * c - 1) (8 * c - 8)
  let ok (c : Nat) : Bool := (turnFor s k c).isSome
  let spent (c : Nat) : Assoc Nat := ((List.range c).drop 1).map (·, 255)
  if ok 0 then some (0, t.wrr)
  else match [1, 2, 3].find? fun c => ok c && decide ((aget t.wrr c).getD 0 < w c) with
    | some c => some (c, spent c ++ [(c, (aget t.wrr c).getD 0 + 1)])
    | none => match [1, 2, 3].find? ok with
      | some c => some (c, spent c ++ [(c, 1)])
      | none => none

/-- FLIT_SEND: one flit of one class, VL and kind. -/
def cmdFlitSend (k : Fin 12) : Upd :=
  .read fun s =>
    if !(portUp s k.val) then .skip
    else match classFor s k.val with
      | none => .skip
      | some (c, wrr) => match turnFor s k.val c with
        | none => .skip
        | some (fwd, v) =>
          let t := portOf s k.val
          let key := 8 * c + 2 * v + fwd.toNat
          let (done, prog, begun) := fillFlit (if fwd then none else portTokens s k.val c) 64 ((aget t.prog key).getD 0) (lane t c v fwd)
          let seq := (t.nextSeq + 1) % 65536
          .seq [portMod k.val fun t => { t with
              nextSeq := seq, sent := ((seq, done) :: t.sent).take 256, wrr, turn := aset t.turn c fwd,
              prog := if prog = 0 then adel t.prog key else aset t.prog key prog,
              used := aset t.used (4 * c + v) ((aget t.used (4 * c + v)).getD 0 + 65),
              tx := done.foldl (fun l p => l.erase (fwd, p)) t.tx },
            .when (!fwd && (portTokens s k.val c).isSome) (tokenTake (portShape c) 0 k.val begun),
            emit (.flit k.val seq done), sendWaiting]

/-! ### Packets acted on -/

/-- A packet delivered to the part taken; nothing where it has not been delivered. -/
def takeRx (k : Nat) (pkt : Packet) (u : Upd) : Upd :=
  .read fun s => .when (s.sys.fab.rx.contains (k, pkt))
    (.seq [.sys fun y => { y with fab := { y.fab with rx := y.fab.rx.erase (k, pkt) } }, u])

/-- CREDIT (R438): an ask is queued and served; a grant releases packets that wait for it, and a grant nobody waits for is the
return of credits lent (R439). -/
def cmdCredit (k : Fin 12) (pkt : Packet) : Upd :=
  takeRx k.val pkt <| .read fun s =>
    match pkt.body, peerOf s pkt.src with
    | .credit c rq grant dp n, some i =>
      if !grant then
        .seq [.sys fun y => { y with fab := { y.fab with asks := y.fab.asks ++ [⟨i, rq, c.val, dp.val, n⟩] } }, serveAsks]
      else if s.sys.fab.held.any (heldFor pkt.src rq c.val dp.val) then
        .seq [.sys fun y => { y with fab := { y.fab with credits := creditMod y.fab.credits i rq c.val dp.val (frameNow s) (· + n) } },
          sendHeld pkt.src i rq c.val dp.val]
      else creditBack pkt.src rq c.val dp.val n
    | _, _ => .skip

/-- CREDIT_RETURN_UNUSED (R439): credits unused for 64 frames go back. -/
def cmdCreditReturnUnused (peer : Nat) (request : Bool) (cls : Fin 4) (partition : Fin 4) : Upd :=
  .read fun s =>
    match s.sys.fab.credits.find? fun c => creditIs c peer request cls.val partition.val with
    | none => .skip
    | some c =>
      let part := fld ((aget s.sys.fab.peers0Live peer).getD 0) 19 0
      if frameNow s < c.used + 64 ∨ c.count = 0 then .skip
      else .seq [.sys fun y => { y with fab := { y.fab with credits := creditMod y.fab.credits peer request cls.val partition.val (frameNow s) (fun _ => 0) } },
        enqueue (mkPacket s cls.val part 0 partition.val (.credit cls request true partition c.count)) false 0]

/-- NOTICE (R513): written into the part's notice ring. -/
def cmdNotice (k : Fin 12) (pkt : Packet) : Upd :=
  takeRx k.val pkt (match pkt.body with | .notice b => noticeToRing b | _ => .skip)

/-! ### Coherence messages that arrive -/

/-- The domain of a revoked extent whose region is gone (R475). -/
def revokedDom (s : State) (agent line : Nat) : Option Domain := s.sys.coh.doms.find? fun d => extRevoked s d.id agent line 64

/-- A message to a home, from the bridge of a host agent: the domain of the line and the agent it names, or a protocol error. -/
def atHome (pkt : Packet) (agent line : Nat) (none' : Upd) (f : Domain → Upd) : Upd :=
  .read fun s =>
    match ((regionAt s line).bind fun r => domOf s r.dom).or (revokedDom s agent line) with
    | none => none'
    | some d => match agentOf d agent with
      | some w => if agHost w ∧ agPart w = pkt.src then f d else protocol d agent
      | none => protocol d agent

/-- The domain a message to a bridge is about: of its tenant, with the agent an LD of this part and the sender a part agent. -/
def atBridge (pkt : Packet) (agent : Nat) (f : Nat → Upd) : Upd :=
  .read fun s =>
    match s.sys.coh.doms.find? fun d => d.tenant == pkt.ten && (agentIdx d pkt.src).isSome &&
        (match agentOf d agent with | some w => agHost w && agPart w == partId s | none => false) with
    | some d => f (agLd ((agentOf d agent).getD 0))
    | none => .skip

/-- A request outside every region answered as an access outside any extent (R322, R353). -/
def outside (pkt : Packet) (agent line : Nat) (msg : CohMsg) : Upd :=
  .seq [hostRefused line, cohSend pkt.src pkt.ten pkt.tag (msg == .hData) msg .invalid agent line (if msg = .hData then zeros 64 else []),
    creditBack pkt.src true 0 0]

def cmdHRd (k : Fin 12) (pkt : Packet) : Upd :=
  takeRx k.val pkt <| match pkt.body with
    | .coh .hRd mt a l _ => atHome pkt a l (outside pkt a l .hData) fun d => cohRd d a pkt.tag l mt
    | _ => .skip
def cmdHWr (k : Fin 12) (pkt : Packet) : Upd :=
  takeRx k.val pkt <| match pkt.body with
    | .coh .hWr mt a l b => atHome pkt a l (outside pkt a l .hCmp) fun d => .seq [cohWr d a pkt.tag l mt b, peerRetry]
    | _ => .skip
def cmdHCln (k : Fin 12) (pkt : Packet) : Upd :=
  takeRx k.val pkt <| match pkt.body with
    | .coh .hCln _ a l _ => atHome pkt a l (outside pkt a l .hCmp) fun d => .seq [cohCln d a pkt.tag l, peerRetry]
    | _ => .skip
def cmdBiRsp (k : Fin 12) (pkt : Packet) : Upd :=
  takeRx k.val pkt <| match pkt.body with
    | .coh .biRsp mt a l _ => atHome pkt a l .skip fun d => .seq [cohRsp d a l mt, peerRetry]
    | _ => .skip
def cmdHData (k : Fin 12) (pkt : Packet) : Upd :=
  takeRx k.val pkt <| match pkt.body with
    | .coh .hData _ a _ b => atBridge pkt a fun ld => emit (.hostData ld pkt.tag pkt.poison b)
    | _ => .skip
def cmdHCmp (k : Fin 12) (pkt : Packet) : Upd :=
  takeRx k.val pkt <| match pkt.body with
    | .coh .hCmp _ a _ _ => atBridge pkt a fun ld => emit (.hostData ld pkt.tag false [])
    | _ => .skip
def cmdBiSnp (k : Fin 12) (pkt : Packet) : Upd :=
  takeRx k.val pkt <| match pkt.body with
    | .coh .biSnp mt a l _ => atBridge pkt a fun ld =>
      .seq [emit (.hostSnoop ld l (mt == .shared)), cohMod fun c => { c with asked := (pkt.src, a, l, ld) :: c.asked }]
    | _ => .skip

/-- FAIL (R476): the domain fails here too; one from a part that is no agent of it is a protocol error. -/
def cmdFail (k : Fin 12) (pkt : Packet) : Upd :=
  takeRx k.val pkt <| match pkt.body with
    | .coh .fail _ _ _ b => .read fun s =>
      match domOf s (byteAt b 0) with
      | none => .skip
      | some d =>
        if d.agents.any fun w => w.map agPart == some pkt.src then
          cohFail d.id 7 (byteAt b 2) ([1, 2, 3, 7].contains (byteAt b 1))
        else cohFail d.id 4 0xFF false
    | _ => .skip

/-- BI_TIMEOUT (R470, R477): a snoop unanswered at the Bell step at which BI_LIMIT passes is the death of its agent. -/
def cmdBiTimeout (line agent : Nat) : Upd :=
  .read fun s =>
    match (s.sys.coh.txns.find? fun t => t.line == line && t.begun).bind fun t => t.snoops.find? fun n => n.agent == agent with
    | none => .skip
    | some n => match n.sent, (regionAt s line).bind fun r => domOf s r.dom with
      | some f, some d =>
        if frameNow s < f + fld (lv s .cohCtl (lineP line)) 7 0 then .skip
        else .seq [
          if d.failed then .seq [lineLost line, domMod d.id fun d => { d with dead := if d.dead.contains agent then d.dead else agent :: d.dead }]
          else cohFail d.id 2 agent true,
          snoopDone line agent, snoopMore, cohRun, peerRetry]
      | _, _ => .skip

def execPortTrain (k : Fin 12) (r : Option TrainResult) (s : State) : Host.Outcome State Fault Refusal := (cmdPortTrain k r).go s
def execLinkLoss (k : Fin 12) (s : State) : Host.Outcome State Fault Refusal := (cmdLinkLoss k).go s
def execFlitRx (k : Fin 12) (crcOk : Bool) (seq : Nat) (packets : List Packet) (s : State) : Host.Outcome State Fault Refusal :=
  (cmdFlitRx k crcOk seq packets).go s
def execReplayRequest (k : Fin 12) (lastGood : Nat) (s : State) : Host.Outcome State Fault Refusal := (cmdReplayRequest k lastGood).go s
def execFlitSend (k : Fin 12) (s : State) : Host.Outcome State Fault Refusal := (cmdFlitSend k).go s
def execCredit (k : Fin 12) (pkt : Packet) (s : State) : Host.Outcome State Fault Refusal := (cmdCredit k pkt).go s
def execCreditReturnUnused (peer : Nat) (request : Bool) (cls partition : Fin 4) (s : State) : Host.Outcome State Fault Refusal :=
  (cmdCreditReturnUnused peer request cls partition).go s
def execNotice (k : Fin 12) (pkt : Packet) (s : State) : Host.Outcome State Fault Refusal := (cmdNotice k pkt).go s
def execHRd (k : Fin 12) (pkt : Packet) (s : State) : Host.Outcome State Fault Refusal := (cmdHRd k pkt).go s
def execHWr (k : Fin 12) (pkt : Packet) (s : State) : Host.Outcome State Fault Refusal := (cmdHWr k pkt).go s
def execHCln (k : Fin 12) (pkt : Packet) (s : State) : Host.Outcome State Fault Refusal := (cmdHCln k pkt).go s
def execHData (k : Fin 12) (pkt : Packet) (s : State) : Host.Outcome State Fault Refusal := (cmdHData k pkt).go s
def execHCmp (k : Fin 12) (pkt : Packet) (s : State) : Host.Outcome State Fault Refusal := (cmdHCmp k pkt).go s
def execBiSnp (k : Fin 12) (pkt : Packet) (s : State) : Host.Outcome State Fault Refusal := (cmdBiSnp k pkt).go s
def execBiRsp (k : Fin 12) (pkt : Packet) (s : State) : Host.Outcome State Fault Refusal := (cmdBiRsp k pkt).go s
def execFail (k : Fin 12) (pkt : Packet) (s : State) : Host.Outcome State Fault Refusal := (cmdFail k pkt).go s
def execBiTimeout (line agent : Nat) (s : State) : Host.Outcome State Fault Refusal := (cmdBiTimeout line agent).go s

end Sys2Proof.Machine
end

