-- ==== Sys2Proof/Machine/Map.lean ====
section
/-!
DEFINITION. Map epochs (R495 to R498): the changes this part keeps, those it holds for other keepers, and the MAP packets.
-/

namespace Sys2Proof.Machine

def bindMod (f : BindSt → BindSt) : Upd := .sys fun y => { y with bind := f y.bind }

/-- MAP_PENDING (Table 17.10): changes kept, entries held unsettled. -/
def mapRegs : Upd :=
  .read fun s => regMod .mapPending 0 0 fun w =>
    setFld (setFld w 31 16 s.sys.bind.keeping.length) 15 0
      (((s.sys.bind.heldMaps.filter (·.unsettled)).map (·.entries.length)).foldl (· + ·) 0)

/-- An epoch applied on the part (BIND_STATUS.MAP_EPOCH). -/
def mapEpoch (n : Nat) : Upd := regMod .bindStatus 0 0 fun w => setFld w 47 0 n

/-- The parts beyond this one that hold an entry (R495). -/
def entryAudience (s : State) (e : MapEntry) : List Nat :=
  let parts := if e.kind = 1 then [agPart e.value] else
    (s.sys.fab.peers0Live.filter fun c => bit c.2 63 && peerLists s c.1 e.tenant).map fun c => fld c.2 19 0
  (parts.filter (· != partId s)).eraseDups

/-- A MAP packet sent to a part at class 0. -/
def mapSend (part : Nat) (msg : MapMsg) (seq epoch : Nat) (entries : List MapEntry) : Upd :=
  .read fun s => enqueue (mkPacket s 0 part 0 0 (.map msg seq epoch entries)) false 0

/-- A change begun by this part: PREP to its audience; with none beyond the keeper it is due at the next Bell. -/
def mapStart (entries : List MapEntry) (driven : Bool) (cmd : Option (Fin 4 × Nat)) : Upd :=
  .read fun s =>
    let seq := s.sys.bind.nextSeq
    let upTo := (entries.flatMap (entryAudience s)).eraseDups
    .seq [bindMod fun b => { b with
        nextSeq := (seq + 1) % 2 ^ 32,
        keeping := b.keeping ++ [Keeping.mk seq entries upTo [] 0 (if upTo.isEmpty then frameNow s + 1 else 0) 0 driven cmd] },
      .each upTo fun q => mapSend q .prep seq 0 entries, mapRegs]

/-- The key of an entry of the host extents a bridge holds. -/
def hostExtKey (keeper : Nat) (e : MapEntry) : Nat × Nat × Nat := (keeper, e.id, agLd e.value)

/-- An event posted to a logical device and recorded in its event log. -/
def dcd (ld ext kind n : Nat) : Upd :=
  .seq [emit (.dcdEvent ld ext kind), cohMod fun c => { c with events := c.events ++ [(ld, kind, ext, n)] }]

/-- An entry applied: the host extent of another keeper that a bridge gains or loses; a shard's home; a row range's home. -/
def mapApply (keeper : Nat) (e : MapEntry) : Upd :=
  .read fun s =>
    match e.kind with
    | 1 =>
      if agHost e.value ∧ agPart e.value = partId s ∧ keeper ≠ partId s then
        let x := hostExtKey keeper e
        if s.sys.coh.hostExts.contains x then
          .seq [cohMod fun c => { c with hostExts := c.hostExts.erase x, offers := c.offers.erase (agLd e.value, e.id) },
            dcd (agLd e.value) e.id 2 0]
        else .seq [cohMod fun c => { c with hostExts := c.hostExts ++ [x], offers := c.offers ++ [(agLd e.value, e.id)] },
          dcd (agLd e.value) e.id 0 0]
      else .skip
    | 2 =>
      .sys fun y => { y with colls := y.colls.map fun c =>
        if c.id = e.id % 65536 ∧ c.tenant = e.tenant then
          { c with map := amod c.map (e.id / 65536) fun w => setFld (setFld w 19 0 (e.value % 2 ^ 20)) 21 20 (nfld e.value 21 20) }
        else c }
    | 3 =>
      .each allP fun p => .part p fun y => { y with tables := y.tables.map fun t =>
        if t.id = e.id % 65536 ∧ t.tenant = e.tenant then
          { t with ranges := t.ranges.map fun r =>
            if r.first = nfld e.value 39 0 then { r with part := nfld e.value 59 40, partition := nfld e.value 61 60 } else r }
        else t }
    | _ => .skip

/-- Whether an entry's home, held changed by another keeper, makes requests wait: its epoch has come without a COMMIT, or it
is unsettled (R496, R498). -/
def mapWaits (s : State) (kind id : Nat) : Bool :=
  s.sys.bind.heldMaps.any fun h =>
    !h.committed && (h.unsettled || (match h.epoch with | some e => decide (e ≤ frameNow s) | none => false)) &&
    h.entries.any fun e => e.kind == kind && e.id == id

/-- A kept change dropped. -/
def keepDrop (seq : Nat) : Upd := .seq [bindMod fun b => { b with keeping := b.keeping.filter (·.seq != seq) }, mapRegs]
def keepMod (seq : Nat) (f : Keeping → Keeping) : Upd :=
  bindMod fun b => { b with keeping := b.keeping.map fun k => if k.seq = seq then f k else k }

/-- A held change dropped or changed. -/
def heldIs (keeper seq : Nat) (h : HeldMap) : Bool := h.keeper == keeper && h.seq == seq
def heldDrop (keeper seq : Nat) : Upd :=
  .seq [bindMod fun b => { b with heldMaps := b.heldMaps.filter fun h => !(heldIs keeper seq h) }, mapRegs]
def heldMod (keeper seq : Nat) (f : HeldMap → HeldMap) : Upd :=
  bindMod fun b => { b with heldMaps := b.heldMaps.map fun h => if heldIs keeper seq h then f h else h }
def heldOf (s : State) (keeper seq : Nat) : Option HeldMap := s.sys.bind.heldMaps.find? (heldIs keeper seq)

/-- A held change applied. -/
def heldApply (h : HeldMap) : Upd :=
  .read fun s => .seq [.each h.entries (mapApply h.keeper), mapEpoch (h.epoch.getD (frameNow s)), heldDrop h.keeper h.seq]

/-- A kept change at a Bell step: applied at its epoch, committed one Bell ahead once every ACK is in, moved a frame up to 8
times, then aborted (R495, R497). `fin` and `fail` end the change's command. -/
def keepBell (n : Nat) (fin fail : Keeping → Upd) (k : Keeping) : Upd :=
  .read fun s =>
    if k.driven then .skip
    else if k.epoch ≠ 0 then
      .when (decide (k.epoch ≤ n)) (.seq [.each k.entries (mapApply (partId s)), mapEpoch n, keepDrop k.seq, fin k])
    else if k.audience.all (k.acks.contains ·) then
      .seq [keepMod k.seq fun k => { k with epoch := n + 1 }, .each k.audience fun q => mapSend q .commit k.seq (n + 1) []]
    else if k.defers < 8 then
      .seq [keepMod k.seq fun k => { k with defers := k.defers + 1 }, .each k.audience fun q => mapSend q .defer k.seq (n + 2) []]
    else .seq [.each k.audience fun q => mapSend q .abort k.seq 0 [], keepDrop k.seq, fail k]

/-- Whether a held change has become unsettled: 64 frames after its epoch, or after its arrival when none is known (R498). -/
def heldOverdue (n : Nat) (h : HeldMap) : Bool := !h.committed && decide ((h.epoch.getD h.arrived) + 64 ≤ n)

/-- MAP_UNSETTLED (R498). -/
def cmdMapUnsettled (keeper seq : Nat) : Upd :=
  .read fun s => match heldOf s keeper seq with
    | some h => .when (heldOverdue (frameNow s) h) (.seq [heldMod keeper seq fun h => { h with unsettled := true }, mapRegs])
    | none => .skip

/-- Action 3 of Bell step n for the map: committed changes of other keepers applied, the kept ones moved on, overdue ones
unsettled. -/
def mapBell (n : Nat) (fin fail : Keeping → Upd) : Upd :=
  .seq [
    .read fun s => .each (s.sys.bind.heldMaps.filter fun h => h.committed && decide (h.epoch.getD 0 ≤ n)) heldApply,
    .read fun s => .each s.sys.bind.keeping (keepBell n fin fail),
    .read fun s => .each (s.sys.bind.heldMaps.filter (heldOverdue n)) fun h => cmdMapUnsettled h.keeper h.seq]

/-! ### MAP packets that arrive -/

/-- PREP (R495): the change is held and answered with ACK. -/
def cmdPrep (k : Fin 12) (pkt : Packet) : Upd :=
  takeRx k.val pkt <| match pkt.body with
    | .map .prep seq _ es => .read fun s =>
      .seq [heldDrop pkt.src seq,
        bindMod fun b => { b with heldMaps := b.heldMaps ++
          [{ keeper := pkt.src, seq, entries := es, arrived := frameNow s, epoch := none, committed := false, unsettled := false }] },
        mapSend pkt.src .ack seq 0 []]
    | _ => .skip

/-- ACK (R495): the keeper counts it. -/
def cmdAck (k : Fin 12) (pkt : Packet) : Upd :=
  takeRx k.val pkt <| match pkt.body with
    | .map .ack seq _ _ => .read fun s =>
      keepMod seq fun c => if c.audience.contains pkt.src ∧ !c.acks.contains pkt.src then
        { c with acks := c.acks ++ [pkt.src], lastAck := frameNow s } else c
    | _ => .skip

/-- COMMIT (R495, R496): applied at its epoch, or on arrival when that has passed. -/
def cmdCommit (k : Fin 12) (pkt : Packet) : Upd :=
  takeRx k.val pkt <| match pkt.body with
    | .map .commit seq e _ => .read fun s =>
      match heldOf s pkt.src seq with
      | none => .skip
      | some h =>
        let h' := { h with epoch := some e, committed := true, unsettled := false }
        if e ≤ frameNow s then heldApply h' else .seq [heldMod pkt.src seq fun _ => h', mapRegs]
    | _ => .skip

/-- DEFER (R497): the epoch moved. -/
def cmdDefer (k : Fin 12) (pkt : Packet) : Upd :=
  takeRx k.val pkt <| match pkt.body with
    | .map .defer seq e _ => heldMod pkt.src seq fun h => { h with epoch := some e }
    | _ => .skip

/-- ABORT (R497): the old entry stays in force. -/
def cmdAbort (k : Fin 12) (pkt : Packet) : Upd :=
  takeRx k.val pkt <| match pkt.body with
    | .map .abort seq _ _ => heldDrop pkt.src seq
    | _ => .skip

/-! ### MAP_SETTLE -/

/-- MAP_SETTLE (0x0A04). -/
def specMapSettle : OpSpec :=
  { permit := fmOnly, len := fun _ _ _ => 16
    range := fun s _ c => firstBad [((heldOf s (par c 0 3) (par c 4 4)).isNone, 64), (par c 3 1 != 0, 67), (decide (1 < par c 8 1), 72),
      (par c 9 7 != 0, 73)] }

/-- MAP_SETTLE: the fabric manager commits the change at the next Bell, or aborts it (R498). -/
def cmdMapSettle (p : Fin 4) (ref : Nat) : Upd :=
  withCmd p ref 0x0A04 fun c => .read fun s =>
    let keeper := par c 0 3
    let seq := par c 4 4
    if par c 8 1 = 1 then
      .seq [heldMod keeper seq fun h => { h with committed := true, unsettled := false, epoch := some (frameNow s + 1) }, mapRegs,
        postReply p c stOk 0 [] 0 (frameNow s + 1)]
    else .seq [heldDrop keeper seq, postPlain p c stOk 0]

def execMapUnsettled (keeper seq : Nat) (s : State) : Host.Outcome State Fault Refusal := (cmdMapUnsettled keeper seq).go s
def execPrep (k : Fin 12) (pkt : Packet) (s : State) : Host.Outcome State Fault Refusal := (cmdPrep k pkt).go s
def execAck (k : Fin 12) (pkt : Packet) (s : State) : Host.Outcome State Fault Refusal := (cmdAck k pkt).go s
def execCommit (k : Fin 12) (pkt : Packet) (s : State) : Host.Outcome State Fault Refusal := (cmdCommit k pkt).go s
def execDefer (k : Fin 12) (pkt : Packet) (s : State) : Host.Outcome State Fault Refusal := (cmdDefer k pkt).go s
def execAbort (k : Fin 12) (pkt : Packet) (s : State) : Host.Outcome State Fault Refusal := (cmdAbort k pkt).go s
def execMapSettle (p : Fin 4) (ref : Nat) (s : State) : Host.Outcome State Fault Refusal := (cmdMapSettle p ref).go s

end Sys2Proof.Machine
end

