-- ==== Sys2Proof/Machine/Flags.lean ====
section
/-!
DEFINITION. The number formats (chapter 6): codes and exact values, conversion with roundTiesToAway and saturation, the
sticky flags each conversion raises and their registers, packing, and the comparison order of Table 5.1.
-/

namespace Sys2Proof.Machine

/-- An exact value: a NaN or infinity with its sign, or ± m · 2^e; zero keeps its sign. -/
inductive Num where
  | nan (neg : Bool)
  | inf (neg : Bool)
  | fin (neg : Bool) (m : Nat) (e : Int)
  deriving DecidableEq, Repr

/-- A number times 2^k, rounded to the nearest natural, ties away from zero (R201). -/
def roundAway (m : Nat) (k : Int) : Nat :=
  if 0 ≤ k then m * 2 ^ k.toNat else (m + 2 ^ (-k).toNat / 2) / 2 ^ (-k).toNat

/-- Whether m · 2^e exceeds m' · 2^e'. -/
def dyGt (m : Nat) (e : Int) (m' : Nat) (e' : Int) : Bool :=
  let b := min e e'
  m' * 2 ^ (e' - b).toNat < m * 2 ^ (e - b).toNat

/-- A floating-point layout (Table 6.1): exponent and mantissa bits, bias, and whether it has infinities and NaNs. -/
structure FpFmt where
  w : Nat
  m : Nat
  bias : Int
  hasInf : Bool
  hasNan : Bool
  deriving DecidableEq, Repr

/-- The floating-point formats by code. -/
def fpFmt (code : Nat) : Option FpFmt :=
  match code with
  | 0x5 => some ⟨2, 1, 1, false, false⟩
  | 0x6 => some ⟨3, 2, 3, false, false⟩
  | 0x7 => some ⟨2, 3, 1, false, false⟩
  | 0x9 => some ⟨4, 3, 7, false, true⟩
  | 0xA => some ⟨5, 2, 15, true, true⟩
  | 0xB => some ⟨5, 10, 15, true, true⟩
  | 0xC => some ⟨8, 7, 127, true, true⟩
  | 0xD => some ⟨8, 23, 127, true, true⟩
  | _ => none

/-- Bits of an element of a format; 0: no such format (R191). -/
def fmtBits (code : Nat) : Nat :=
  match code with
  | 0x1 => 1 | 0x2 => 2 | 0x3 => 2 | 0x4 => 4 | 0x5 => 4 | 0x6 => 6 | 0x7 => 6 | 0x8 => 8 | 0x9 => 8 | 0xA => 8
  | 0xB => 16 | 0xC => 16 | 0xD => 32 | 0xE => 32 | 0xF => 8 | _ => 0

/-- Whether a format code and U flag go together (R191, R192); `scaleOk` where FP8AU is accepted. -/
def fmtOk (code : Nat) (u scaleOk : Bool) : Bool :=
  fmtBits code != 0 &&
  (!u || code == 0x3 || code == 0x4 || code == 0x8 || code == 0xE || (code == 0x9 && scaleOk))

/-- The value of a floating-point code (R195, Table 6.7). -/
def fpValue (f : FpFmt) (c : Nat) : Num :=
  let s := c.testBit (f.w + f.m)
  let e := c / 2 ^ f.m % 2 ^ f.w
  let m := c % 2 ^ f.m
  let top := 2 ^ f.w - 1
  if f.hasInf ∧ e = top then (if m = 0 then .inf s else .nan s)
  else if f.hasNan ∧ !f.hasInf ∧ e = top ∧ m = 2 ^ f.m - 1 then .nan s
  else if e = 0 then .fin s m (1 - f.bias - f.m)
  else .fin s (2 ^ f.m + m) (e - f.bias - f.m)

/-- A two's complement value of n bits. -/
def intValue (n : Nat) (u : Bool) (c : Nat) : Num :=
  if !u && c.testBit (n - 1) then .fin true (2 ^ n - c % 2 ^ n) 0 else .fin false (c % 2 ^ n) 0

/-- The value of a code of a format, and whether reading it raises BADCODE (R193 to R200). -/
def decodeNum (fmt : Nat) (u : Bool) (c : Nat) : Num × Bool :=
  match fmt with
  | 0x1 => (.fin false (c % 2) 0, false)
  | 0x2 => if c % 4 = 2 then (.fin false 0 0, true) else (intValue 2 false c, false)
  | 0x3 => (intValue 2 u c, false)
  | 0x4 => (intValue 4 u c, false)
  | 0x8 => (intValue 8 u c, false)
  | 0xE => (intValue 32 u c, false)
  | 0xF => if c % 256 = 0xFF then (.nan false, false) else (.fin false 1 ((c % 256 : Nat) - 127), false)
  | _ =>
    match fpFmt fmt with
    | some f => (fpValue f (if fmt = 0x9 ∧ u then c % 128 else c), false)
    | none => (.fin false 0 0, false)

/-- The largest finite code (without sign) of a floating-point format. -/
def fpMaxCode (f : FpFmt) : Nat :=
  if f.hasInf then (2 ^ f.w - 1) * 2 ^ f.m - 1 else if f.hasNan then 2 ^ (f.w + f.m) - 2 else 2 ^ (f.w + f.m) - 1

/-- The code of a finite magnitude m · 2^e rounded to a format's extended grid, and whether it left the range (R203). -/
def fpRound (f : FpFmt) (m : Nat) (e : Int) : Nat × Bool :=
  if m = 0 then (0, false)
  else
    let lead := (Nat.log2 m : Int) + e
    let q := max lead (1 - f.bias) - f.m
    let r := roundAway m (e - q)
    let (r, q) := if r = 2 ^ (f.m + 1) then (2 ^ f.m, q + 1) else (r, q)
    match fpValue f (fpMaxCode f) with
    | .fin _ mm me =>
      if dyGt r q mm me then (fpMaxCode f, true)
      else if r < 2 ^ f.m then (r, false)
      else (((q + f.m + f.bias).toNat) * 2 ^ f.m + (r - 2 ^ f.m), false)
    | _ => (0, false)

/-- The NaN code a format writes (Table 6.7). -/
def nanCode (fmt : Nat) (neg : Bool) : Nat :=
  match fmt with
  | 0x9 => if neg then 0xFF else 0x7F
  | 0xA => if neg then 0xFE else 0x7E
  | 0xB => if neg then 0xFE00 else 0x7E00
  | 0xC => if neg then 0xFFC0 else 0x7FC0
  | 0xD => if neg then 0xFFC00000 else 0x7FC00000
  | 0xF => 0xFF
  | _ => 0

/-- A conversion to a floating-point format (R203). -/
def convFp (fmt : Nat) (f : FpFmt) (x : Num) : Nat × FlagN :=
  let sg := fun (b : Bool) => if b then 2 ^ (f.w + f.m) else 0
  match x with
  | .nan n => if f.hasNan then (nanCode fmt n, .none) else (0, { nanLost := 1 })
  | .inf n =>
    if f.hasInf then (sg n + (2 ^ f.w - 1) * 2 ^ f.m, .none) else (sg n + fpMaxCode f, { sat := 1 })
  | .fin n m e =>
    let (c, sat) := fpRound f m e
    (sg n + c, { sat := sat.toNat, flush := if c = 0 ∧ m ≠ 0 then 1 else 0 })

/-- A conversion to an integer format of n bits (R203, R204); TRN2 is −1 to 1 in two bits. -/
def convInt (n : Nat) (u trn : Bool) (x : Num) : Nat × FlagN :=
  let hi := if trn then 1 else if u then 2 ^ n - 1 else 2 ^ (n - 1) - 1
  let lo := if trn then 1 else if u then 0 else 2 ^ (n - 1)
  match x with
  | .nan _ => (0, { nanLost := 1 })
  | .inf neg => ((if neg then (2 ^ n - lo) % 2 ^ n else hi), { sat := 1 })
  | .fin neg m e =>
    let r := roundAway m e
    let ovr : Bool := if neg then decide (lo < r) else decide (hi < r)
    let v := if ovr then (if neg then lo else hi) else r
    ((if neg then (2 ^ n - v) % 2 ^ n else v), { sat := ovr.toNat, flush := if v = 0 ∧ m ≠ 0 then 1 else 0 })

/-- A conversion to SCL8 (R206). -/
def convScl8 (x : Num) : Nat × FlagN :=
  match x with
  | .nan _ => (0xFF, .none)
  | .inf neg => if neg then (0, { scale := 1 }) else (0xFE, { sat := 1 })
  | .fin neg m e =>
    if neg ∨ m = 0 then (0, { scale := 1 })
    else
      let k := Nat.log2 m
      let up : Int := if 3 * 2 ^ k ≤ 2 * m then 1 else 0
      let x := (k : Int) + e + up
      if 127 < x then (0xFE, { sat := 1 }) else if x < -127 then (0, { flush := 1 }) else ((x + 127).toNat, .none)

/-- A conversion to FP8AU (R207). -/
def convFp8u (x : Num) : Nat × FlagN :=
  match x with
  | .nan _ => (0x7F, .none)
  | .inf true => (0, { scale := 1 })
  | .inf false => (0x7E, { sat := 1 })
  | .fin neg m e => if m = 0 then (0, .none) else if neg then (0, { scale := 1 }) else
      convFp 0x9 ⟨4, 3, 7, false, true⟩ (.fin false m e)

/-- A conversion to BIN1 (R205). -/
def convBin1 (x : Num) : Nat × FlagN :=
  match x with
  | .nan _ => (0, { nanLost := 1 })
  | .inf neg => ((!neg).toNat, .none)
  | .fin neg m _ => (if !neg ∧ m ≠ 0 then 1 else 0, .none)

/-- A conversion of an exact value to a format (R203 to R207). -/
def convert (fmt : Nat) (u : Bool) (x : Num) : Nat × FlagN :=
  match fmt with
  | 0x1 => convBin1 x
  | 0x2 => convInt 2 false true x
  | 0x3 => convInt 2 u false x
  | 0x4 => convInt 4 u false x
  | 0x8 => convInt 8 u false x
  | 0xE => convInt 32 u false x
  | 0xF => convScl8 x
  | _ => if fmt = 0x9 ∧ u then convFp8u x else match fpFmt fmt with | some f => convFp fmt f x | none => (0, .none)

/-- The FP32 value of a code. -/
def f32 (c : Nat) : Num := (decodeNum 0xD false c).1

/-- An exact value as FP32. -/
def toF32 (x : Num) : Nat × FlagN := convert 0xD false x

/-! ### Exact arithmetic -/

/-- The signed integer of a finite value at exponent b, which is at most its own. -/
def signedAt (neg : Bool) (m : Nat) (e b : Int) : Int :=
  let v : Int := (m * 2 ^ (e - b).toNat : Nat)
  if neg then -v else v

/-- A signed integer times 2^b as a value. -/
def ofSigned (v : Int) (b : Int) : Num := .fin (v < 0) v.natAbs b

/-- The opposite of a value. -/
def Num.neg : Num → Num
  | .nan n => .nan n
  | .inf n => .inf (!n)
  | .fin n m e => .fin (!n) m e

/-- The exact sum of two values; a NaN operand or opposite infinities give a NaN of unspecified sign (R198). -/
def numAdd (x y : Num) : Num :=
  match x, y with
  | .nan n, _ => .nan (Config.nanSign n.toNat 0)
  | _, .nan n => .nan (Config.nanSign n.toNat 1)
  | .inf a, .inf b => if a = b then .inf a else .nan (Config.nanSign a.toNat 2)
  | .inf a, .fin _ _ _ => .inf a
  | .fin _ _ _, .inf b => .inf b
  | .fin a m e, .fin b n f =>
    if m = 0 ∧ n = 0 then .fin (a && b) 0 0
    else let k := min e f; ofSigned (signedAt a m e k + signedAt b n f k) k

/-- The exact product of two values. -/
def numMul (x y : Num) : Num :=
  match x, y with
  | .nan n, _ => .nan (Config.nanSign n.toNat 3)
  | _, .nan n => .nan (Config.nanSign n.toNat 4)
  | .inf a, .inf b => .inf (a != b)
  | .inf a, .fin b m _ => if m = 0 then .nan (Config.nanSign a.toNat 5) else .inf (a != b)
  | .fin a m _, .inf b => if m = 0 then .nan (Config.nanSign b.toNat 6) else .inf (a != b)
  | .fin a m e, .fin b n f => .fin (a != b) (m * n) (e + f)

/-- An FP32 sum rounded under R201; a finite sum that leaves the range saturates (R233). -/
def f32Add (a b : Nat) : Nat × FlagN := toF32 (numAdd (f32 a) (f32 b))

/-- An FP32 product. -/
def f32Mul (a b : Nat) : Nat × FlagN := toF32 (numMul (f32 a) (f32 b))

/-- An INT32 sum that saturates (R334). -/
def i32Add (a b : Nat) : Nat × FlagN :=
  convert 0xE false (numAdd (intValue 32 false a) (intValue 32 false b))

/-! ### Comparison order (Table 5.1, R169, R212) -/

/-- The order of an FP32 score: NaN apart, a larger number for a larger value, zeros alike. -/
def f32Ord (c : Nat) : Int := if c.testBit 31 then -(c % 2 ^ 31 : Nat) else (c % 2 ^ 31 : Nat)

/-- Whether an FP32 code is a NaN. -/
def f32Nan (c : Nat) : Bool := 0x7F800000 < c % 2 ^ 31

/-- Whether an FP32 code is finite. -/
def f32Finite (c : Nat) : Bool := c % 2 ^ 31 < 0x7F800000

/-- The rank of a score in Table 5.1: smaller is better; equal scores have equal ranks. -/
def scoreRank (dirHigh : Bool) (c : Nat) : Int :=
  if f32Nan c then 2 ^ 32 else if dirHigh then -(f32Ord c) else f32Ord c

/-- Whether two exact values compare: less, by value; NaN apart (R214, R215). -/
def numLt (x y : Num) : Bool :=
  match x, y with
  | .nan _, _ | _, .nan _ => false
  | .inf a, .inf b => a && !b
  | .inf a, .fin _ _ _ => a
  | .fin _ _ _, .inf b => !b
  | .fin a m e, .fin b n f => let k := min e f; signedAt a m e k < signedAt b n f k

/-- Whether two exact values are equal under R214: two NaNs are, two zeros are. -/
def numEq (x y : Num) : Bool :=
  match x, y with
  | .nan _, .nan _ => true
  | .nan _, _ | _, .nan _ => false
  | .inf a, .inf b => a == b
  | .fin a m e, .fin b n f => let k := min e f; signedAt a m e k == signedAt b n f k
  | _, _ => false

/-- The larger of two values, the first where they compare equal, a NaN only when both are (R212, R213). -/
def numMax (x y : Num) : Num :=
  match x, y with
  | .nan _, .nan _ => x
  | .nan _, _ => y
  | _, .nan _ => x
  | _, _ => if numLt x y then y else x

/-- The smaller of two values. -/
def numMin (x y : Num) : Num :=
  match x, y with
  | .nan _, .nan _ => x
  | .nan _, _ => y
  | _, .nan _ => x
  | _, _ => if numLt y x then y else x

/-! ### Packing (Table 6.15) -/

/-- Bytes of a row of n elements of a format. -/
def rowBytes (fmt n : Nat) : Nat :=
  if fmt = 0x6 ∨ fmt = 0x7 then ceilDiv n 4 * 3 else ceilDiv (n * fmtBits fmt) 8

/-- Element i of a packed row. -/
def elemAt (fmt : Nat) (row : Bytes) (i : Nat) : Nat :=
  let b := fmtBits fmt
  if b = 6 then leAt row (i / 4 * 3) 3 / 2 ^ (6 * (i % 4)) % 64
  else if b < 8 then byteAt row (i * b / 8) / 2 ^ (i * b % 8) % 2 ^ b
  else leAt row (i * (b / 8)) (b / 8)

/-- A row packed from its element codes; padding is code 0 (R216). -/
def packRow (fmt : Nat) (codes : List Nat) : Bytes :=
  let b := fmtBits fmt
  natLE (rowBytes fmt codes.length) (codes.foldr (fun c a => c % 2 ^ b + 2 ^ b * a) 0)

/-! ### Flag registers (R209 to R211) -/

/-- The flags of a partition's work raised: NUM_FLAGS set, elements counted, a notice for each flag that goes from 0 to 1
under NUM_CTL.NOTIFY. -/
def raiseFlags (p : Fin 4) (f : FlagN) : Upd :=
  .read fun s =>
    let w := f.word
    if w = 0 then .skip
    else
      let old := (rd s .numFlags p).toNat % 32
      .seq [regMod .numFlags p 0 fun v => v ||| BitVec.ofNat 64 w,
        regCount .numCount0 p 0 63 32 f.sat, regCount .numCount0 p 0 31 0 f.flush,
        regCount .numCount1 p 0 47 32 f.scale, regCount .numCount1 p 0 31 16 f.bad,
        regCount .numCount1 p 0 15 0 f.nanLost,
        .each (List.range 5) fun i =>
          .when (w.testBit i && !(old.testBit i) && bit (rd s .numCtl p) i) (crier 0x41 p.val 0 0 0 (natLE 1 i))]

end Sys2Proof.Machine
end

