-- ==== Sys2Proof/Machine/Index.lean ====
section
/-!
DEFINITION. The index in memory: descriptors, shard records, the address formulas of R96, node records, tags, the
comparison of a pair (R89, R98), and the shaper tokens and start budget that bound the Drover's work (R115, R451).
-/

namespace Sys2Proof.Machine

/-! ### Descriptors, map entries, shard records -/

/-- Collection of an ID. -/
def collOf (s : State) (id : Nat) : Option Coll := s.sys.colls.find? (·.id == id)

/-- A collection changed. -/
def collMod (id : Nat) (f : Coll → Coll) : Upd :=
  .sys fun y => { y with colls := y.colls.map fun c => if c.id = id then f c else c }

/-- Fields of a descriptor (Table 3.3). -/
def dCodeBytes (d : Bytes) : Nat := 32 * 2 ^ byteAt d 2
def dDegree (d : Bytes) : Nat := byteAt d 3
def dRefineFmt (d : Bytes) : Nat := byteAt d 4
def dGroup (d : Bytes) : Nat := 32 * 2 ^ byteAt d 5
def dDim (d : Bytes) : Nat := leAt d 6 2
def dMetric (d : Bytes) : Nat := byteAt d 8
def dWidth (d : Bytes) : Nat := byteAt d 9
def dBeam (d : Bytes) : Nat := leAt d 10 2
def dDepth (d : Bytes) : Nat := leAt d 12 2
def dMaxExpand (d : Bytes) : Nat := leAt d 14 2
def dBatchWin (d : Bytes) : Nat := leAt d 16 2
def dPageWin (d : Bytes) : Nat := leAt d 18 2
def dEntryBeam (d : Bytes) : Nat := leAt d 20 2
def dMaxFrames (d : Bytes) : Nat := leAt d 22 2
def dShards (d : Bytes) : Nat := leAt d 24 2

/-- Fields of a shard map entry (Table 3.4). -/
def mCellar (w : Word) : Bool := bit w 47
def mPartnerValid (w : Word) : Bool := bit w 46
def mPartnerPartition (w : Word) : Nat := fld w 45 44
def mPartnerPart (w : Word) : Nat := fld w 43 24
def mDown (w : Word) : Bool := bit w 22
def mPartition (w : Word) : Nat := fld w 21 20
def mPart (w : Word) : Nat := fld w 19 0

/-- Fields of a shard record (Table 3.5). -/
def rPlacement (r : Bytes) : Nat := byteAt r 4
def rStacks (r : Bytes) : Nat := byteAt r 5
def rRefineTier (r : Bytes) : Nat := byteAt r 6
def rLayer (r : Bytes) : Bool := nbit (byteAt r 7) 0
def rBase (r : Bytes) : Nat := leAt r 8 8
def rCap (r : Bytes) : Nat := leAt r 16 8
def rNode (r : Bytes) : Nat := leAt r 24 8
def rRefine (r : Bytes) : Nat := leAt r 32 8
def rEntryAddr (r : Bytes) : Nat := leAt r 40 8
def rEntrySet (r : Bytes) : Nat := leAt r 48 8
def rEntryN (r : Bytes) : Nat := byteAt r 56
def rCode (r : Bytes) (j : Nat) : Nat := leAt r (64 + 8 * j) 8
def rTag (r : Bytes) (j : Nat) : Nat := leAt r (112 + 8 * j) 8

/-- Whether a node ID is of the shard (R86). -/
def inShard (r : Bytes) (u : Nat) : Bool := rBase r ≤ u && u < rBase r + rCap r

/-- Whether an edge may be followed: its target is a node of the shard and not the all-ones ID (R87). -/
def edgeIn (r : Bytes) (u : Nat) : Bool := inShard r u && u != 0xFFFFFFFFFF

/-- Codes per 1 KiB code row (Table 3.1). -/
def perRow (codeBytes : Nat) : Nat := 1024 / codeBytes

/-- The stripes of a shard's codes: STACKS in the Loft, 1 elsewhere. -/
def stripes (r : Bytes) : Nat := if rPlacement r = 0 then max 1 (rStacks r) else 1

/-- Code address of a node (R96). -/
def codeAddr (r : Bytes) (codeBytes u : Nat) : Nat :=
  let sl := u - rBase r
  let c := perRow codeBytes
  let row := sl / c
  rCode r (row % stripes r) + row / stripes r * 1024 + sl % c * codeBytes

/-- Tag address of a node (R96, R100). -/
def tagAddr (r : Bytes) (codeBytes u : Nat) : Nat :=
  let sl := u - rBase r
  if rPlacement r = 1 then rTag r 0 + 2 * sl
  else
    let c := perRow codeBytes
    let row := sl / c
    rTag r (row % stripes r) + 2 * (row / stripes r * c + sl % c)

/-- Bytes of a node record of degree D. -/
def nodeRecBytes (deg : Nat) : Nat := roundUp (32 + 6 * deg) 32

/-- Bytes of a Cellar node block, and the offset of its neighbour codes (Table 3.9). -/
def blockCodes (deg : Nat) : Nat := roundUp (32 + 6 * deg) 64
def blockBytes (deg codeBytes : Nat) : Nat := roundUp (blockCodes deg + deg * codeBytes) 512

/-- Address and length of a node's record or block. -/
def nodeAddr (r : Bytes) (deg codeBytes u : Nat) : Nat :=
  rNode r + (u - rBase r) * (if rPlacement r = 1 then blockBytes deg codeBytes else nodeRecBytes deg)
def nodeLen (r : Bytes) (deg codeBytes : Nat) : Nat :=
  if rPlacement r = 1 then blockBytes deg codeBytes else nodeRecBytes deg

/-- Parts of a refine record (Table 3.8): value bytes, groups, and the record's length. -/
def refineValBytes (fmt dim : Nat) : Nat := if fmt = 1 then dim / 2 else dim
def refineRecBytes (fmt group dim : Nat) : Nat :=
  let g := dim / group
  roundUp (refineValBytes fmt dim + g + 4 * ceilDiv g 16) 16
def refineAddr (r : Bytes) (recBytes u : Nat) : Nat := rRefine r + (u - rBase r) * recBytes

/-- Edge i of a node record's bytes: target and generation (Table 3.7). -/
def edgeAt (rec' : Bytes) (i : Nat) : Nat × Nat := (leAt rec' (32 + 6 * i) 5, byteAt rec' (32 + 6 * i + 5))

/-- The edges the Drover reads of a record (R99): the first EDGES, at most D. -/
def edgesOf (rec' : Bytes) (deg : Nat) : List (Nat × Nat) := (List.range (min (byteAt rec' 5) deg)).map (edgeAt rec')

/-- A tag as read: generation, LIVE, TOMBSTONE. -/
structure Tag where
  gen : Nat
  live : Bool
  tomb : Bool
  deriving DecidableEq, Repr

/-- The tag of a node, as visible. -/
def tagOf (s : State) (r : Bytes) (codeBytes u : Nat) : Tag :=
  let b := memBytes s (tagAddr r codeBytes u) 2
  ⟨byteAt b 0, nbit (byteAt b 1) 0, nbit (byteAt b 1) 1⟩

/-- Bytes of a tag (a tag with LIVE 0 and TOMBSTONE 1 is never written). -/
def tagBytes (gen : Nat) (live tomb : Bool) : Bytes := natLE 1 gen ++ natLE 1 (live.toNat + 2 * (live && tomb).toNat)

/-- Popcount of the difference of two codes (R89). -/
def hamming : Bytes → Bytes → Nat
  | a :: x, b :: y => onesIn (a ^^^ b).toNat 8 + hamming x y
  | _, _ => 0

/-- What a comparison of a pair returns (R98, R358). -/
inductive Cmp where
  | stale
  /-- a poisoned line or an unbound address, met in reading the tag or the code -/
  | poison (tag : Bool) (addr : Nat)
  | unbound (tag : Bool) (addr : Nat)
  | ok (dist : Nat) (tomb : Bool)
  deriving DecidableEq, Repr

/-- The comparison of pair (u, g) with a query code for a tenant; for a Cellar shard the code is the i-th copy in the
block of `v`. Tag before code (R98); a poisoned line (R358) or an unbound address (R353) stops it. -/
def comparePair (s : State) (tenant : Nat) (r : Bytes) (deg codeBytes : Nat) (query : Bytes) (v u g i : Nat) : Cmp :=
  let t := tagOf s r codeBytes u
  let ta := tagAddr r codeBytes u
  let ca := if rPlacement r = 1 then nodeAddr r deg codeBytes v + blockCodes deg + i * codeBytes else codeAddr r codeBytes u
  if !(cellHolds s tenant (unalias s ta)) then .unbound true ta
  else match poisonIn s ta 2 with
  | some l => .poison true l
  | none =>
    if !t.live || t.gen != g then .stale
    else if !(cellHolds s tenant (unalias s ca)) then .unbound false ca
    else match poisonIn s ca codeBytes with
      | some l => .poison false l
      | none => .ok (hamming query (memBytes s ca codeBytes)) t.tomb

/-! ### Shards of a partition -/

/-- A shard of which a partition has a current or a next record. -/
def shardAny (s : State) (p : Fin 4) (coll idx : Nat) : Option Shard :=
  (psys s p).shards.find? fun h => h.coll == coll && h.idx == idx

/-- A shard whose current record a partition holds. -/
def shardOf (s : State) (p : Fin 4) (coll idx : Nat) : Option Shard := (shardAny s p coll idx).filter (·.held)

/-- A shard changed. -/
def shardMod (p : Fin 4) (coll idx : Nat) (f : Shard → Shard) : Upd :=
  .part p fun y => { y with shards := y.shards.map fun h => if h.coll = coll ∧ h.idx = idx then f h else h }

/-- Whether a collection is open on the part under a tenant (R119), and not reserved to the Utertil table (R585). -/
def collOpen (s : State) (id tenant : Nat) : Bool :=
  match collOf s id with
  | some c => c.state == 1 && c.tenant == tenant
  | none => false

/-- Whether a collection ID is reserved to a partition's Utertil table (R585). -/
def utReserved (s : State) (id : Nat) : Bool :=
  allP.any fun p => bit (lv s .utCtl p) 63 && fld (lv s .utCtl p) 15 0 == id

/-! ### Shaper tokens and start budget -/

/-- The partition shaper of a class (Table 15.2). -/
def partShape (cls : Nat) : R := if cls = 1 then .partShape1 else if cls = 2 then .partShape2 else .partShape3

/-- Tokens a class of a partition may still spend in this frame; none: no limit (R451, R452). -/
def shaperTokens (s : State) (p : Fin 4) (cls : Nat) : Option Nat :=
  if cls = 0 then none
  else if bit (lv s (partShape cls) p) 63 then some (fld (rd s (partShape cls) p) 59 40) else none

/-- Tokens spent. -/
def shaperTake (p : Fin 4) (cls n : Nat) : Upd :=
  .read fun s => .when (n != 0 && (shaperTokens s p cls).isSome)
    (regMod (partShape cls) p 0 fun w => setFld w 59 40 (fld w 59 40 - n))

/-- Whether the partition's work of a class finds a token (R451). -/
def shaperMay (s : State) (p : Fin 4) (cls : Nat) : Bool := match shaperTokens s p cls with | some n => decide (0 < n) | none => true

/-- Flash pages that a range touches. -/
def pagesIn (a n : Nat) : Nat := if n = 0 then 0 else (a + n - 1) / 16384 - a / 16384 + 1

/-- Whether a partition's work of a class may start to read flash pages for an address: its own channels' reads need a token (R451). -/
def flashMay (s : State) (p : Fin 4) (cls a : Nat) : Bool := regionOf a != .cellar || ownerOf s a != some p || shaperMay s p cls

/-- Reads of flash pages started for a partition's work of a class, on its channels (R451). -/
def flashTake (p : Fin 4) (cls a pages : Nat) : Upd :=
  .read fun s => .when (regionOf a == .cellar && ownerOf s a == some p) (shaperTake p cls pages)

/-- Expansion starts of the whole part in a frame: seven-eighths of four per core cycle (R115). -/
def startTotal (s : State) : Nat := bellUs s * 1800 * 4 * 7 / 8

/-- Whether a walk has an expansion ready, starts apart: it is active, has a free place, an unexpanded entry and, for classes 1 to 3,
a token of the class (R103, R451). -/
def walkReady (s : State) (p : Fin 4) (w : Walk) : Bool :=
  w.state == .active && w.started && w.stop == 0 && decide (w.flight.length < w.width) && w.queue.any (!·.expanded) && shaperMay s p w.cls

/-- Whether a partition has an expansion ready, of a class below `cls`. -/
def readyBelow (s : State) (p : Fin 4) (cls : Nat) : Bool := (psys s p).walks.any fun w => decide (w.cls < cls) && walkReady s p w

/-- What a partition is still owed of the frame's starts: a quarter, starts passed to it not counted (R115). -/
def startsOwed (s : State) (p : Fin 4) : Nat := startTotal s / 4 - (psys s p).starts

/-- The starts of the frame that partitions pass on: those made are counted against the total, and a partition with an expansion
ready keeps what it is owed (R115). -/
def startsPassed (s : State) : Nat :=
  startTotal s - allP.foldl (fun a q => a + (psys s q).starts + (psys s q).passed + (if readyBelow s q 4 then startsOwed s q else 0)) 0

/-- The start that an expansion of a class takes: one its partition is owed, else one that another passes on, class-0 work first
(some true); within a partition in class order; none: it waits for the next Bell. -/
def startFor (s : State) (p : Fin 4) (cls : Nat) : Option Bool :=
  if readyBelow s p cls then none
  else if 0 < startsOwed s p then some false
  else if 0 < startsPassed s ∧ (cls = 0 ∨ allP.all fun q => !(readyBelow s q 1)) then some true
  else none

/-- Pairs compared by a stack's engine counted (Table 11.10, units of 1,024). -/
def stackPairs (k n : Nat) : Upd :=
  .read fun s =>
    let r := (aget s.sys.pairsRem k).getD 0 + n
    .when (n != 0) (.seq [.sys fun y => { y with pairsRem := aset y.pairsRem k (r % 1024) },
      regCount .stkWork (toP (k / 6)) (k % 6) 63 32 (r / 1024)])

/-- An entry added to a partition's repair list, or counted as dropped when it is full (R145). -/
def repairAdd (p : Fin 4) (x : RepairItem) : Upd :=
  .part p fun y => if y.repair.length < 16384 then { y with repair := y.repair ++ [x] }
    else { y with repairDropped := y.repairDropped + 1 }

end Sys2Proof.Machine
end

