-- ==== Sys2Proof/Machine/Queues.lean ====
section
/-!
DEFINITION. The credit-counted queues of Table 1.9 (R34, R35, R37): their slots and class-0 reserves, the credit a producer holds, and
the queues whose filling a command can meet: walk admission, comparison, scan results; and in which order a stack grants and a channel
reads. A slot's credit goes back as soon as its
entry is taken (R37): slots in use are counted from the entries.
-/

namespace Sys2Proof.Machine

/-- A queue of Table 1.9: slots, and how many of them are the class-0 reserve. -/
structure Queue where
  slots : Nat
  reserve : Nat
  deriving DecidableEq, Repr

/-- The queues of Table 1.9 that count slots. -/
def qWalks : Queue := ⟨1024, 256⟩
def qCompare : Queue := ⟨512, 128⟩
def qScan : Queue := ⟨256, 64⟩
def qPages : Queue := ⟨128, 32⟩
def qDispatch : Queue := ⟨64, 0⟩
def qSend : Queue := ⟨64, 0⟩

/-- The slot an entry of a class may take, given the entries on the queue (true: in the reserve): an unreserved one first, then for
class 0 one of the reserve (R35); none: its producer holds no credit (R34). -/
def slotFor (q : Queue) (on : List Bool) (cls : Nat) : Option Bool :=
  if on.count false < q.slots - q.reserve then some false
  else if cls = 0 ∧ on.count true < q.reserve then some true
  else none

/-- Whether at least a quarter of a queue's slots are free (R157). -/
def quarterFree (q : Queue) (on : List Bool) : Bool := decide (4 * on.length + q.slots ≤ 4 * q.slots)

/-! ### Walk admission: Steward to Drover -/

/-- The slot of the walk admission queue that a walk's descriptor is in. -/
def Walk.slot? (w : Walk) : Option Bool := match w.spot with | .queue r => some r | _ => none

/-- The entries of a partition's walk admission queue. -/
def walkQueue (y : PSys) : List Bool := y.walks.filterMap (·.slot?)

/-- A descriptor that waits at the Steward put on the queue, for a credit (R34) and a token of its class (R451). -/
def placeWalk (p : Fin 4) (w : Walk) : Upd :=
  .read fun s =>
    match slotFor qWalks (walkQueue (psys s p)) w.cls with
    | some r => .when (shaperMay s p w.cls) (.seq [shaperTake p w.cls 1,
        .part p fun y => { y with walks := y.walks.map fun v => if v.id = w.id then { v with spot := .queue r } else v }])
    | none => .skip

/-- Descriptors that wait at the Steward put on the queue in order, as far as credits and tokens last. -/
def placeWalks (p : Fin 4) : Upd := .read fun s => .each ((psys s p).walks.filter (·.spot == .steward)) (placeWalk p)

/-- The descriptors on the queue taken by the Drover: their credits go back. -/
def takeWalks (y : PSys) : PSys :=
  { y with walks := y.walks.map fun w => if w.slot?.isSome then { w with spot := .drover } else w }

/-! ### Comparison: Drover to Sieve -/

/-- Where the code of a walk's pair is compared: the stack whose engine compares it, the channel whose Sieve does, or the
partition's hub lanes (Table 3.10). -/
inductive Site where
  | stack (k : Nat)
  | channel (c : Nat)
  | hub
  deriving DecidableEq, Repr

/-- The record a walk is on: the entry layer's while it walks that. -/
def Walk.rcdNow (w : Walk) : Bytes := w.layer.getD w.rcd

/-- The site of a pair's comparison: by the placement of the record walked on, or the hub lanes under SIEVE_PLACE 1. -/
def siteOf (s : State) (w : Walk) (node u : Nat) : Site :=
  if rPlacement w.rcdNow = 1 then .channel (channelOf s (nodeAddr w.rcdNow w.degree w.codeBytes node))
  else if rPlacement w.rcdNow = 2 ∨ w.hub then .hub
  else .stack (stackOf (codeAddr w.rcdNow w.codeBytes u))

/-- The number of a Sieve cluster: stacks 0 to 23, channels from 32, the hub lanes 64. -/
def siteKey : Site → Nat
  | .stack k => k
  | .channel c => 32 + c
  | .hub => 64

/-- The clusters at which an expansion's pairs still wait. -/
def Flight.sites (s : State) (w : Walk) (e : Flight) : List Nat := (e.pend.map fun x => siteKey (siteOf s w e.node x.1)).eraseDups

/-- The entries of a cluster's comparison queue: the neighbour lists, of walks of the partition, with pairs yet to be compared. -/
def compareQueue (s : State) (p : Fin 4) (site : Nat) : List Bool :=
  (psys s p).walks.flatMap fun w => w.flight.flatMap fun e =>
    if (e.sites s w).contains site then (e.held.filter (·.1 == site)).map (·.2) else []

/-- Whether the neighbour list of a pair is on its cluster's queue. -/
def Flight.placed (s : State) (w : Walk) (e : Flight) (u : Nat) : Bool := e.held.any (·.1 == siteKey (siteOf s w e.node u))

/-! ### A stack's grants (R360, R361, R567) -/

/-- The partition of a stack and its number there (R377). -/
def stkP (k : Nat) : Fin 4 := toP (k / 6)
def stkJ (k : Nat) : Nat := k % 6

/-- The pseudo-channels a stack's arbiter grants at a time (R362, R567). -/
def stackGrants (s : State) (k : Nat) : Nat :=
  let b := fld (lv s .stkCtl (stkP k) (stkJ k)) 4 0
  if s.sys.pwr.hot.contains k then min b 8 else b

/-- The pairs of a partition's walks that ask for a grant of a stack: class and age of the request, and the pseudo-channel of the
pair's code (R313). Those that a batch window holds do not ask yet. -/
def grantAsks (s : State) (p : Fin 4) (k : Nat) : List ((Nat × Nat) × Nat) :=
  (psys s p).walks.flatMap fun w => if w.batchWin ≠ 0 then [] else w.flight.flatMap fun e =>
    (e.pend.filter fun x => siteOf s w e.node x.1 == .stack k && e.placed s w x.1).map fun x =>
      ((w.cls, e.age), codeAddr w.rcdNow w.codeBytes x.1 / 1024 % 64)

/-- Whether a pair is granted its pseudo-channel of a stack now: no pair of a lower class number, and no older one of its class, asks for
that pseudo-channel, and those of lower class numbers leave one of the stack's grants. -/
def grantTurn (s : State) (p : Fin 4) (w : Walk) (e : Flight) (u : Nat) : Bool :=
  match siteOf s w e.node u with
  | .stack k =>
    let asks := grantAsks s p k
    let ch := codeAddr w.rcdNow w.codeBytes u / 1024 % 64
    w.batchWin != 0 ||
      ((asks.all fun x => x.2 != ch || !(decide (x.1.1 < w.cls) || (x.1.1 == w.cls && decide (x.1.2 < e.age)))) &&
        decide (((asks.filter fun x => decide (x.1.1 < w.cls)).map (·.2)).eraseDups.length < stackGrants s k))
  | _ => true

/-! ### A channel's service order (R397, Table 12.9) -/

/-- The row of Table 12.9 of a read of a class. -/
def readRow (cls : Nat) : Nat := if cls < 3 then cls + 1 else 5

/-- The target of a channel that holds the page of a Cellar window address; none where the page is not mapped. -/
def targetAt (s : State) (a : Nat) : Option Nat :=
  (aget (s.sys.chans.get (Fin.ofNat 32 (channelOf s a))).units (unitIdxOf s a)).bind fun u => aget u.pages (a % 0x400000 / 16384)

/-- The address of the block that an expansion of a walk reads. -/
def Walk.blockAt (w : Walk) (node : Nat) : Nat := nodeAddr w.rcdNow w.degree w.codeBytes node

/-- The expansions of a partition that wait at the flash channels, with their walks: those that a page window holds are not there yet. -/
def channelReads (s : State) (p : Fin 4) : List (Walk × Flight) :=
  (psys s p).walks.flatMap fun w =>
    if rPlacement w.rcdNow = 1 ∧ w.pageWin = 0 then (w.flight.filter fun e => e.pend.any fun x => e.placed s w x.1).map (w, ·) else []

/-- Whether a channel comes to an expansion's read now: no read of an earlier row, and no older one of its row, waits for the same
target. -/
def readTurn (s : State) (p : Fin 4) (w : Walk) (e : Flight) : Bool :=
  let a := w.blockAt e.node
  rPlacement w.rcdNow != 1 || w.pageWin != 0 || (channelReads s p).all fun x =>
    let b := x.1.blockAt x.2.node
    channelOf s b != channelOf s a || targetAt s b != targetAt s a ||
    !(decide (readRow x.1.cls < readRow w.cls) || (readRow x.1.cls == readRow w.cls && decide (x.2.age < e.age)))

/-- Whether work of rows 1 to 4 waits at a channel: a read of class 0 to 2, or an ingest under way. -/
def channelWork (s : State) (c : Nat) : Bool :=
  let p := toP (c / 8)
  ((channelReads s p).any fun x => decide (x.1.cls < 3) && channelOf s (x.1.blockAt x.2.node) == c) ||
  (psys s p).ingests.any fun i => !i.release && i.commit.isNone && (linesOf 0x400000 i.dst i.bytes).any fun b => channelOf s b == c

/-- The neighbour lists of an expansion put on their clusters' queues, as far as credits and tokens of the class last (R34, R451). -/
def placeLists (p : Fin 4) (id no : Nat) : Upd :=
  .read fun s =>
    match (psys s p).walks.find? (·.id == id) with
    | none => .skip
    | some w => match w.flight.find? (·.no == no) with
      | none => .skip
      | some e =>
        let free := ((e.sites s w).filter fun k => !(e.held.any (·.1 == k))).filterMap fun k =>
          (slotFor qCompare (compareQueue s p k) w.cls).map (k, ·)
        let new := free.take ((shaperTokens s p w.cls).getD free.length)
        .when (!new.isEmpty) (.seq [shaperTake p w.cls new.length, .part p fun y => { y with walks := y.walks.map fun v => if v.id = id then
          { v with flight := v.flight.map fun f => if f.no = no then { f with held := f.held ++ new } else f } else v }])

/-- The neighbour lists that wait for a credit put on the queues, class 0 first (R35), in order. -/
def placeWaiting (p : Fin 4) : Upd :=
  .read fun s =>
    let ws := (psys s p).walks.filter fun w => w.flight.any fun e => e.pend.any fun x => !(e.placed s w x.1)
    .each (ws.filter (·.cls == 0) ++ ws.filter (·.cls != 0)) fun w => .each w.flight fun e => placeLists p w.id e.no

/-! ### Scan results: Sieve to Sorter -/

/-- The entries of a partition input of the Sorter: blocks of 32 scored entries. -/
def scanQueue (y : PSys) : List Bool := y.sels.flatMap (·.placed)

/-- Blocks of rows put on the queue in order, as far as credits last. -/
def placeBlocks (y : PSys) : PSys :=
  let fill (on : List Bool) (x : Selection) : List Bool :=
    (List.range (ceilDiv x.row.length 32 - x.placed.length)).foldl (fun l _ =>
      match slotFor qScan (on ++ l) x.cls with | some r => l ++ [r] | none => l) []
  { y with sels := (y.sels.foldl (fun (a : List Selection × List Bool) x =>
      let l := fill a.2 x
      (a.1 ++ [{ x with placed := x.placed ++ l }], a.2 ++ l)) ([], scanQueue y)).1 }

end Sys2Proof.Machine
end

