-- ==== Sys2Proof/Machine/Approx.lean ====
section
/-!
DEFINITION. The approximated functions of the Sorter and the epilogue unit (R180, R282): an FP32 result that is free within a
relative 2^-22 of the exact function, or saturated where that function leaves the range of FP32 (R233).

The exact function is carried as a positive dyadic number within a relative 2^-60 of it, and a free value that lies within the
spec's bound of that number, widened by 2^-60, stands; any other free value gives way to the number rounded by R201. A result
that FP32 holds only as a subnormal may lie one spacing of 2^-149 off, since none is nearer.
-/

namespace Sys2Proof.Machine

/-- The positive number m · 2^e. -/
structure Near where
  m : Nat
  e : Int
  deriving DecidableEq, Repr

/-- a / b for positive a and b, to a relative 2^-127. -/
def nearRatio (a b : Nat) : Near :=
  let k := Nat.log2 b + 128
  ⟨a * 2 ^ k / b, -(k : Int)⟩

/-- The natural logarithm of 2 in units of 2^-128. -/
def lnTwo : Nat := 235865763225513294137944142764154484399

/-- The terms r^k / k! from one of them on, in units of 2^-128. -/
def expTerms (r : Nat) : Nat → Nat → Nat → Nat
  | 0, _, _ => 0
  | fuel + 1, k, t => t + expTerms r fuel (k + 1) (t * r / 2 ^ 128 / (k + 1))

/-- exp of p / q or of its opposite. Beyond 400 the result is out of FP32's range whatever it is. -/
def nearExp (neg : Bool) (p q : Nat) : Near :=
  let x := min (p * 2 ^ 128 / q) (400 * 2 ^ 128)
  let n : Int := (x / lnTwo : Nat)
  let t := expTerms (x % lnTwo) 40 0 (2 ^ 128)
  if neg then ⟨2 ^ 256 / t, -n - 128⟩ else ⟨t, n - 128⟩

/-- The logistic function of p / q or of its opposite: 1 / (1 + E), E the exponential of the argument's opposite. -/
def nearSigmoid (neg : Bool) (p q : Nat) : Near :=
  let x := nearExp (!neg) p q
  if x.e < 0 then nearRatio (2 ^ (-x.e).toNat) (2 ^ (-x.e).toNat + x.m) else nearRatio 1 (1 + x.m * 2 ^ x.e.toNat)

/-- The hyperbolic tangent of p / q > 0: below 2^-13 by x (1 - x²/3). -/
def nearTanh (p q : Nat) : Near :=
  if p * 2 ^ 13 < q then nearRatio (p * (3 * q ^ 2 - p ^ 2)) (3 * q ^ 3)
  else
    let x := nearExp true (2 * p) q
    let d := 2 ^ (-x.e).toNat
    nearRatio (d - x.m) (d + x.m)

/-- The square root of a number, rounded down, bit by bit: `r` is the root of the bits above. -/
def rootBits (n : Nat) : Nat → Nat → Nat
  | 0, r => r
  | k + 1, r => rootBits n k (if (r + 2 ^ k) ^ 2 ≤ n then r + 2 ^ k else r)

/-- The reciprocal square root of m · 2^e, m > 0. -/
def nearRsqrt (m : Nat) (e : Int) : Near :=
  let (m, e) := if e % 2 = 0 then (m, e) else (2 * m, e - 1)
  let x := nearRatio (2 ^ 128) (rootBits (m * 2 ^ 256) ((Nat.log2 m + 258) / 2 + 1) 0)
  ⟨x.m, x.e - e / 2⟩

/-- 1 / sqrt(2π) in units of 2^-128. -/
def rootTwoPi : Nat := 135753023439836232162591007175785461951

/-- The terms x^(2k+1) / (1 · 3 · … · (2k+1)) from one of them on, in units of 2^-128, `xx` the square of x in the same units. -/
def cdfTerms (xx : Nat) : Nat → Nat → Nat → Nat
  | 0, _, _ => 0
  | fuel + 1, k, t => t + cdfTerms xx fuel (k + 1) (t * xx / 2 ^ 128 / (2 * k + 3))

/-- The continued fraction k / (x + (k + 1) / (x + …)) of the tail of the normal distribution, in units of 2^-128. -/
def tailFrac (x : Nat) : Nat → Nat → Nat
  | 0, _ => 0
  | fuel + 1, k => k * 2 ^ 256 / (x + tailFrac x fuel (k + 1))

/-- The normal distribution function of p / q or of its opposite: below 3 by its series about 0, beyond by its tail. -/
def nearCdf (neg : Bool) (p q : Nat) : Near :=
  let x := p * 2 ^ 128 / q
  let d := nearExp true (p ^ 2) (2 * q ^ 2)
  let unit (y : Nat) : Nat := d.m * rootTwoPi * y / 2 ^ (128 - d.e).toNat
  if p ≤ 3 * q then
    let y := unit (cdfTerms (x * x / 2 ^ 128) 80 0 x)
    ⟨if neg then 2 ^ 127 - y else 2 ^ 127 + y, -128⟩
  else
    let r := 2 ^ 256 / (x + tailFrac x 120 1)
    if neg then ⟨d.m * rootTwoPi * r, d.e - 256⟩ else ⟨2 ^ 128 - unit r, -128⟩

/-- A magnitude as a number of units 2^k, k at most its exponent. -/
def unitsOf (m : Nat) (e k : Int) : Nat := m * 2 ^ (e - k).toNat

/-- Whether the FP32 magnitude a · 2^f lies within a relative 2^-22 of `y`. -/
def nearEnough (a : Nat) (f : Int) (y : Near) : Bool :=
  let k := min (min f y.e) (-149)
  let v := unitsOf a f k
  let w := unitsOf y.m y.e k
  let spacing := if w < unitsOf 1 (-126) k then unitsOf 1 (-149) k else 0
  decide ((if v < w then w - v else v - w) * 2 ^ 60 ≤ w * (2 ^ 38 + 1) + spacing * 2 ^ 60)

/-- Whether a result a relative r · 2^-60 of `y` reaches the saturation threshold of FP32 (Table 6.9). -/
def reachesTop (r : Nat) (y : Near) : Bool :=
  let k := min y.e 103
  decide (unitsOf (2 ^ 25 - 1) 103 k * 2 ^ 60 ≤ unitsOf y.m y.e k * r)

/-- An FP32 result of sign `neg` whose exact magnitude is `y`: the free value `v` where the spec's bound allows it. -/
def approxF32 (v : Nat) (top neg : Bool) (y : Near) : Nat × FlagN :=
  let sg := if neg then 2 ^ 31 else 0
  let c := v % 2 ^ 31
  if reachesTop (2 ^ 60 - 2 ^ 38 - 1) y || (top && reachesTop (2 ^ 60 + 2 ^ 38 + 1) y) then (sg + 0x7F7FFFFF, { sat := 1 })
  else
    match f32 c with
    | .fin _ a f =>
      if nearEnough a f y then (sg + c, { flush := if a = 0 then 1 else 0 }) else toF32 (.fin neg y.m y.e)
    | _ => toF32 (.fin neg y.m y.e)

/-- An FP32 code that nothing bounds; a NaN among them is the one the part writes (R198). -/
def anyF32 (v : Nat) : Nat :=
  let c := v % 2 ^ 32
  if f32Nan c then (toF32 (.nan (c.testBit 31))).1 else c

/-- A magnitude m · 2^e as a quotient. -/
def quotOf (m : Nat) (e : Int) : Nat × Nat := if 0 ≤ e then (m * 2 ^ e.toNat, 1) else (m, 2 ^ (-e).toNat)

/-- The exponential of d / t, t the FP32 temperature above 0 (R178); `fn` and `args` name the function and its operands for the free
value. -/
def expOver (fn : Nat) (args : List Nat) (d : Num) (t : Nat) : Nat × FlagN :=
  let v := Config.approx fn args
  match d, f32 t with
  | .fin neg m e, .fin false n f =>
    if n = 0 then (anyF32 v, .none)
    else
      let (p, q) := quotOf m (e - f)
      approxF32 v (Config.approxTop fn args) false (nearExp neg p (q * n))
  | _, _ => (anyF32 v, .none)

/-- An approximated function of SUB 6 to 11 of Table 8.11 on an FP32 code (R282). Gelu is x times the normal distribution function of
x (PRESUMED, log 61: the spec gives no formula). Of operands that are not finite, and of a reciprocal square root of zero or less, no value is stated. -/
def approxFn (sub a : Nat) : Nat × FlagN :=
  let v := Config.approx sub [a]
  let top := Config.approxTop sub [a]
  match f32 a with
  | .fin neg m e =>
    let (p, q) := quotOf m e
    match sub with
    | 6 => if m = 0 then (if v.testBit 31 then 2 ^ 31 else 0, .none)
        else let y := nearCdf neg p q; approxF32 v top neg ⟨m * y.m, e + y.e⟩
    | 7 => if m = 0 then (if v.testBit 31 then 2 ^ 31 else 0, .none)
        else let y := nearSigmoid neg p q; approxF32 v top neg ⟨m * y.m, e + y.e⟩
    | 8 => approxF32 v top false (nearSigmoid neg p q)
    | 9 => if m = 0 then (if v.testBit 31 then 2 ^ 31 else 0, .none) else approxF32 v top neg (nearTanh p q)
    | 10 => approxF32 v top false (nearExp neg p q)
    | _ => if m = 0 ∨ neg then (anyF32 v, .none) else approxF32 v top false (nearRsqrt m e)
  | _ => (anyF32 v, .none)

end Sys2Proof.Machine
end

