-- ==== Sys2Proof/Machine/Sort.lean ====
section
/-!
DEFINITION. The Sorter's order, selections and merges (chapter 5): keys, result blocks, masses, and the merge of lists.
-/

namespace Sys2Proof.Machine

/-! ### Keys (R169 to R171) -/

/-- Whether entry `a` ranks strictly before `b`: score, then node ID (the higher one under `utertil`), then collection ID. -/
def entryBefore (dirHigh utertil : Bool) (a b : Entry) : Bool :=
  let x := scoreRank dirHigh a.score.toNat
  let y := scoreRank dirHigh b.score.toNat
  if x ≠ y then decide (x < y)
  else if a.node ≠ b.node then (if utertil then decide (b.node < a.node) else decide (a.node < b.node))
  else decide (a.coll < b.coll)

/-- An element put before the first one it precedes. -/
def insertBy {α : Type} (lt : α → α → Bool) (x : α) : List α → List α
  | [] => [x]
  | y :: r => if lt x y then x :: y :: r else y :: insertBy lt x r

/-- A list in order; equal elements keep their order. -/
def sortBy {α : Type} (lt : α → α → Bool) (l : List α) : List α := l.foldl (fun a x => insertBy lt x a) []

/-- Whether two scores compare equal (Table 5.1). -/
def scoreEq (dirHigh : Bool) (a b : Entry) : Bool := scoreRank dirHigh a.score.toNat == scoreRank dirHigh b.score.toNat

/-! ### Masses (R178 to R180) -/

/-- The FP32 sum of terms in an unspecified order: each addition takes two of the terms left, chosen by free values from
`seed` on (R180). -/
def sumAny : Nat → Nat → List Nat → Nat × FlagN
  | 0, _, l => (l.headD 0, .none)
  | fuel + 1, seed, l =>
    match l with
    | [] => (0, .none)
    | [x] => (x, .none)
    | [x, y] => f32Add x y
    | _ =>
      let i := Config.pick seed l.length % l.length
      let l' := l.eraseIdx i
      let j := Config.pick (seed + 1) l'.length % l'.length
      let (v, f) := f32Add (l.getD i 0) (l'.getD j 0)
      let (t, g) := sumAny fuel (seed + 2) (v :: l'.eraseIdx j)
      (t, f.add g)

/-- A sum of terms, with `seed` the first free value it may use. -/
def sumTerms (seed : Nat) (l : List Nat) : Nat × FlagN := sumAny l.length seed l

/-- The mass of an entry: its score, or in EXP mode the exponential of its distance to the best score `m` over the
temperature `t` (R178). A score that is not finite has no mass. -/
def massOf (dirHigh exp : Bool) (m t : Nat) (e : Entry) : Option (Nat × FlagN) :=
  let c := e.score.toNat
  if !(f32Finite c) then none
  else if !exp then some (c, .none)
  else
    let d := if dirHigh then numAdd (f32 c) (f32 m).neg else numAdd (f32 m) (f32 c).neg
    some (expOver 0 [c, m, t] d t)

/-- The sum of the masses of entries, with the flags of its terms: of these only SAT is raised (R180). -/
def massSum (seed : Nat) (l : List (Nat × FlagN)) : Nat × FlagN :=
  let r := sumTerms seed (l.map (·.1))
  let f := l.foldl (fun f x => f.add x.2) r.2
  (r.1, { f with flush := 0 })

/-! ### Result blocks (R183, Table 5.2) -/

/-- A result block. -/
structure Block where
  k : Nat
  dirHigh : Bool
  payload : Bool
  massExp : Bool
  trunc : Bool
  dups : Nat
  tied : Nat
  presented : Nat
  sel : Nat
  left : Nat
  ref : Nat
  nonfinite : Nat
  entries : List Entry
  deriving DecidableEq, Repr

/-- The bytes of an entry (Table 5.3). -/
def entryBytes (payload : Bool) (e : Entry) : Bytes :=
  natLE 5 e.node ++ natLE 1 e.gen ++ natLE 2 e.coll ++ natLE 4 e.score.toNat ++ natLE 2 e.shard ++ zeros 2 ++
  (if payload then natLE 8 (e.payload.getD 0) else [])

/-- The bytes of a sentinel entry (R184). -/
def sentinelBytes (dirHigh payload : Bool) : Bytes :=
  natLE 5 0xFFFFFFFFFF ++ zeros 3 ++ natLE 4 (if dirHigh then 0xFF800000 else 0x7F800000) ++ zeros 4 ++
  (if payload then zeros 8 else [])

/-- The bytes of a block: header, valid entries, sentinels (R173, R183). -/
def blockOut (b : Block) : Bytes :=
  natLE 2 b.entries.length ++ natLE 2 b.k ++
  natLE 1 (b.dirHigh.toNat + 2 * b.payload.toNat + 4 * b.massExp.toNat + 8 * b.trunc.toNat) ++
  natLE 1 (if b.payload then 24 else 16) ++ natLE 2 (min b.dups 0xFFFF) ++ natLE 4 b.tied ++ natLE 4 b.presented ++
  natLE 4 b.sel ++ natLE 4 b.left ++ natLE 4 b.ref ++ natLE 2 (min b.nonfinite 0xFFFF) ++ zeros 2 ++
  b.entries.flatMap (entryBytes b.payload) ++
  (List.replicate (b.k - b.entries.length) (sentinelBytes b.dirHigh b.payload)).flatten

/-- Bytes of a block of k entries. -/
def blockSize (k : Nat) (payload : Bool) : Nat := 32 + k * (if payload then 24 else 16)

/-- An entry read from its bytes. -/
def entryIn (payload : Bool) (bs : Bytes) (off : Nat) : Entry :=
  { score := BitVec.ofNat 32 (leAt bs (off + 8) 4), node := leAt bs off 5, gen := byteAt bs (off + 5),
    coll := leAt bs (off + 6) 2, shard := leAt bs (off + 12) 2,
    payload := if payload then some (leAt bs (off + 16) 8) else none }

/-- A block read from its bytes: the valid entries are the first COUNT. -/
def blockIn (bs : Bytes) : Block :=
  let f := byteAt bs 4
  let pl := nbit f 1
  { k := leAt bs 2 2, dirHigh := nbit f 0, payload := pl, massExp := nbit f 2, trunc := nbit f 3, dups := leAt bs 6 2,
    tied := leAt bs 8 4, presented := leAt bs 12 4, sel := leAt bs 16 4, left := leAt bs 20 4, ref := leAt bs 24 4,
    nonfinite := leAt bs 28 2,
    entries := (List.range (leAt bs 0 2)).map fun i => entryIn pl bs (32 + i * (if pl then 24 else 16)) }

/-- The number of free values a selection or merge of n entries sets aside for the order of its sums. -/
def sumSeeds (n : Nat) : Nat := 2 * n

/-- The best finite score of a row, none when it has none. -/
def bestFinite (dirHigh : Bool) (row : List Entry) : Option Nat :=
  ((sortBy (entryBefore dirHigh false) (row.filter fun e => f32Finite e.score.toNat)).head?).map (·.score.toNat)

/-- A selection of the best k of a row (R172 to R182); `t` is the EXP temperature. -/
def selectBlock (seed : Nat) (dirHigh utertil payload exp : Bool) (t k : Nat) (row : List Entry) : Block × FlagN :=
  let sorted := sortBy (entryBefore dirHigh utertil) row
  let sel := sorted.take k
  let rest := sorted.drop k
  let m := if exp then (bestFinite dirHigh row).getD Config.massRefEmpty else 0
  let (a, f) := massSum seed (sel.filterMap (massOf dirHigh exp m t))
  let (b, g) := massSum (seed + sumSeeds sel.length) (rest.filterMap (massOf dirHigh exp m t))
  ({ k, dirHigh, payload, massExp := exp, trunc := false, dups := 0,
     tied := match (if sel.length = k then sel.getLast? else none) with
       | some e => rest.countP (scoreEq dirHigh e) | none => 0,
     presented := row.length, sel := a, left := b, ref := m,
     nonfinite := row.countP (fun e => !(f32Finite e.score.toNat)), entries := sel }, f.add g)

/-! ### More than 256 entries (R176 to R179) -/

/-- How a selection of a tensor program selects: direction, mass mode, temperature, k. -/
structure Select where
  dirHigh : Bool
  exp : Bool
  temp : Nat
  k : Nat
  deriving DecidableEq, Repr

/-- The result block of the last pass: the entries chosen, and those of the row as it read it whose keys follow them. -/
def passBlock (seed : Nat) (how : Select) (presented best nonfinite : Nat) (sel rest : List Entry) : Block × FlagN :=
  let (a, f) := massSum seed (sel.filterMap (massOf how.dirHigh how.exp best how.temp))
  let (b, g) := massSum (seed + sumSeeds sel.length) (rest.filterMap (massOf how.dirHigh how.exp best how.temp))
  ({ k := how.k, dirHigh := how.dirHigh, payload := false, massExp := how.exp, trunc := false, dups := 0,
     tied := match (if sel.length = how.k then sel.getLast? else none) with
       | some e => rest.countP (scoreEq how.dirHigh e) | none => 0,
     presented, sel := a, left := b, ref := best, nonfinite, entries := sel }, f.add g)

/-- One pass over a row: the first 256 entries, or as many as are left of k, whose keys follow the last one chosen. The first pass finds
the best finite score and counts NONFINITE; the last forms the masses and TIED_AT_K, and the row is done. -/
def passNext (seed : Nat) (how : Select) (row : List Entry) (y : Passes) : Passes :=
  let sorted := sortBy (entryBefore how.dirHigh false) row
  let after := match y.picked.getLast? with
    | some l => sorted.filter (entryBefore how.dirHigh false l)
    | none => sorted
  let n := min 256 (how.k - 256 * y.pass)
  let best := if y.pass = 0 then (if how.exp then (bestFinite how.dirHigh row).getD Config.massRefEmpty else 0) else y.best
  let nonfinite := if y.pass = 0 then row.countP (fun e => !(f32Finite e.score.toNat)) else y.nonfinite
  let picked := y.picked ++ after.take n
  if how.k ≤ 256 * (y.pass + 1) then
    let b := passBlock seed how row.length best nonfinite picked (after.drop n)
    { y with blocks := y.blocks ++ [blockOut b.1], pass := 0, picked := [], best := 0, nonfinite := 0, flags := y.flags.add b.2 }
  else { y with pass := y.pass + 1, picked, best, nonfinite }

/-! ### Registers (R166) -/

/-- The classes of the selections that hold a register of a partition: of walks, and of tensor programs between passes. -/
def registersHeld (y : PSys) : List Nat :=
  (y.sels.filter (·.held)).map (·.cls) ++ y.mill.runs.filterMap fun r => r.sel.bind fun x => if x.pass = 0 then none else some x.cls

/-- Whether a selection of a class may take a register: four per partition input, one of them for class 0 alone. -/
def registerLeft (y : PSys) (cls : Nat) : Bool :=
  let held := registersHeld y
  decide (held.length < 4) && (cls == 0 || decide (held.countP (· != 0) < 3))

/-! ### Merging (R185 to R190) -/

/-- Copies kept by a merge, and copies discarded: `acc` holds the kept ones, from lower-numbered lists. -/
def mergeKeep (dirHigh : Bool) : List Entry → List Entry → List Entry → List Entry × List Entry
  | [], kept, gone => (kept, gone)
  | e :: r, kept, gone =>
    match kept.find? fun x => x.node == e.node && x.coll == e.coll with
    | none => mergeKeep dirHigh r (kept ++ [e]) gone
    | some x =>
      if scoreRank dirHigh e.score.toNat < scoreRank dirHigh x.score.toNat then
        mergeKeep dirHigh r (kept.map fun y => if y.node = e.node ∧ y.coll = e.coll then e else y) (gone ++ [x])
      else mergeKeep dirHigh r kept (gone ++ [e])

/-- Whether lists may be merged: one DIR and one MASS_EXP (R189). -/
def mergeable (ls : List Block) : Bool :=
  match ls with
  | [] => true
  | b :: r => r.all fun c => c.dirHigh == b.dirHigh && c.massExp == b.massExp

/-- The merge of lists, in the order of their numbers, into the best k. -/
def mergeBlocks (seed : Nat) (dirHigh payload exp utertil : Bool) (t k : Nat) (ls : List Block) : Block × FlagN :=
  let (kept, gone) := mergeKeep dirHigh (ls.flatMap (·.entries)) [] []
  let sorted := sortBy (entryBefore dirHigh utertil) kept
  let sel := sorted.take k
  let rest := sorted.drop k
  let kth := if sel.length = k then sel.getLast? else none
  let refs := ls.map (·.ref)
  let m := if exp then
      (refs.foldl (fun a r => match a with
        | none => some r
        | some x => some (if scoreRank dirHigh r < scoreRank dirHigh x then r else x)) none).getD Config.massRefEmpty
    else 0
  let adj (b : Block) (v : Nat) : Nat × FlagN :=
    if exp ∧ v ≠ 0 then
      let d := if dirHigh then numAdd (f32 b.ref) (f32 m).neg else numAdd (f32 m) (f32 b.ref).neg
      let x := expOver 0 [b.ref, m, t] d t
      let r := f32Mul v x.1
      (r.1, x.2.add r.2)
    else (v, .none)
  let lefts := ls.map fun b => adj b b.left
  let (a, f) := massSum seed (sel.filterMap (massOf dirHigh exp m t))
  let (b, g) := massSum (seed + sumSeeds sel.length)
    (lefts.filter (·.1 != 0) ++ rest.filterMap (massOf dirHigh exp m t))
  let cutBefore (b : Block) : Bool :=
    decide (b.entries.length < b.presented) &&
    (match kth, b.entries.getLast? with
     | some e, some l => entryBefore dirHigh utertil l e
     | some _, none => false
     | none, _ => k != 0)
  ({ k, dirHigh, payload, massExp := exp, trunc := ls.any (fun b => b.trunc || (k != 0 && cutBefore b)),
     dups := (ls.map (·.dups)).sum + gone.length,
     tied := match kth with
       | none => 0
       | some e => rest.countP (scoreEq dirHigh e) +
           ((ls.filter fun b => match b.entries.getLast? with | some l => scoreEq dirHigh e l | none => false).map (·.tied)).sum,
     presented := (ls.map (·.presented)).sum - gone.length, sel := a, left := b, ref := m,
     nonfinite := (ls.map (·.nonfinite)).sum - gone.countP (fun e => !(f32Finite e.score.toNat)), entries := sel },
   f.add g)

end Sys2Proof.Machine
end

