-- ==== Sys2Proof/Machine/Stage.lean ====
section
/-!
DEFINITION. The stage of a home partition (R134 to R139): staged values of a node, the edge edits of Table 4.9, the
selection of neighbours and reverse edges of R137, and the application of staged writes at a Bell (R136).
-/

namespace Sys2Proof.Machine

/-! ### Staged values -/

/-- The record of a shelf of a shard: the current one, else the next, else the one being retired. -/
def shelfRec (h : Shard) (shelf : Nat) : Bytes :=
  if shelf = h.shelf then h.cur else match h.next with | some r => r | none => h.old.getD h.cur

/-- The edits staged for a node, in the order they were staged (R138). -/
def editsOf (s : State) (p : Fin 4) (coll shard shelf node : Nat) : List Edit :=
  ((psys s p).stage.filter fun x => x.coll == coll && x.shard == shard && x.shelf == shelf && x.node == node).map (·.edit)

/-- A tag with staged values counted. -/
def stagedTag (t : Tag) (es : List Edit) : Tag :=
  es.foldl (fun t e => match e with | .tag g l b => ⟨g, l, b⟩ | _ => t) t

/-- An edge list after one edit (Table 4.9). -/
def applyEdit (deg : Nat) (l : List (Nat × Nat)) (e : Edit) : List (Nat × Nat) :=
  match e with
  | .add t g => if l.length < deg ∧ !(l.contains (t, g)) then l ++ [(t, g)] else l
  | .remove t g => l.erase (t, g)
  | .swap t g t' g' =>
    if l.contains (t, g) ∧ !(l.contains (t', g')) then
      l.set (l.findIdx (· == (t, g))) (t', g') else l
  | .setList es => es
  | .clearEdges => []
  | _ => l

/-- What the model needs of a collection to work on one shelf of one of its shards. -/
structure Graph where
  coll : Nat
  shard : Nat
  shelf : Nat
  rcd : Bytes
  tenant : Nat
  codeBytes : Nat
  deg : Nat
  deriving DecidableEq, Repr

/-- The graph of a shard's shelf; shelf 2 + k is the entry layer of shelf k, whose record lies in memory (R101). -/
def graphOf (s : State) (h : Shard) (shelf : Nat) : Graph :=
  let r := shelfRec h (shelf % 2)
  let r := if shelf < 2 then r else memBytes s (rEntryAddr r) 160
  match collOf s h.coll with
  | some c => ⟨h.coll, h.idx, shelf, r, c.tenant, dCodeBytes c.desc, dDegree c.desc⟩
  | none => ⟨h.coll, h.idx, shelf, r, 0, 32, 8⟩

/-- A node's tag, staged values counted. -/
def Graph.tag (g : Graph) (s : State) (p : Fin 4) (u : Nat) : Tag :=
  stagedTag (tagOf s g.rcd g.codeBytes u) (editsOf s p g.coll g.shard g.shelf u)

/-- A node's edges, staged edits counted. -/
def Graph.edges (g : Graph) (s : State) (p : Fin 4) (u : Nat) : List (Nat × Nat) :=
  (editsOf s p g.coll g.shard g.shelf u).foldl (applyEdit g.deg)
    (edgesOf (memBytes s (nodeAddr g.rcd g.deg g.codeBytes u) (nodeLen g.rcd g.deg g.codeBytes)) g.deg)

/-- A node's USN, staged values counted (R148). -/
def Graph.usn (g : Graph) (s : State) (p : Fin 4) (u : Nat) : Nat :=
  (editsOf s p g.coll g.shard g.shelf u).foldl (fun v e => match e with | .usn x => x | _ => v)
    (memLE s (nodeAddr g.rcd g.deg g.codeBytes u + 8) 8)

/-- The distance of two nodes' codes; where one cannot be read the spec gives none: a free value (log entry 70). -/
def Graph.dist (g : Graph) (s : State) (a b : Nat) : Nat :=
  let x := codeAddr g.rcd g.codeBytes a
  let y := codeAddr g.rcd g.codeBytes b
  if (poisonIn s x g.codeBytes).isSome ∨ (poisonIn s y g.codeBytes).isSome then (Config.pick (s.sys.free * 2 ^ 64 + x) y + 0x10000) % 0x10001
  else hamming (memBytes s x g.codeBytes) (memBytes s y g.codeBytes)

/-! ### Choosing neighbours (R137) -/

/-- `select` of R137 over candidates in ascending key. -/
def selectNear (deg : Nat) (prune : Bool) (dist : Nat → Nat → Nat) (c : List Cand) : List Cand :=
  let n := c.foldl (fun n u =>
    if n.length = deg then n
    else if prune || n.all (fun a => decide (u.dist ≤ dist a.node u.node)) then n ++ [u] else n) []
  c.foldl (fun n u => if n.length = deg || n.any (·.node == u.node) then n else n ++ [u]) n

/-- Candidates in ascending key. -/
def candBefore (a b : Cand) : Bool := a.dist < b.dist || (a.dist == b.dist && a.node < b.node)

/-- The edges of a list whose targets lie farthest from `v`. -/
def farthest (dist : Nat → Nat) (l : List (Nat × Nat)) : List (Nat × Nat) :=
  let m := l.foldl (fun a e => max a (dist e.1)) 0
  l.filter fun e => dist e.1 == m

/-- The edits that make node `x` with generation `gx` a neighbour of its chosen neighbours, and its own edge list: all of
R137 but the tag. `seed` numbers the free choices among equally far edges. -/
def linkEdits (s : State) (p : Fin 4) (g : Graph) (x gx : Nat) (prune : Bool) (reverseMax seed : Nat) (c : List Cand) :
    List (Nat × Edit) :=
  let d := g.dist s
  let c := sortBy candBefore (c.filter fun u => !u.transit && u.node != x)
  let n := selectNear g.deg prune d c
  let own : List (Nat × Edit) := [(x, .setList (n.map fun u => (u.node, (g.tag s p u.node).gen)))]
  own ++ ((sortBy candBefore n).take reverseMax).flatMap fun v =>
    let l := g.edges s p v.node
    if l.length < g.deg then [(v.node, Edit.add x gx)]
    else
      let f := farthest (d v.node) l
      match f with
      | [] => []
      | w :: _ =>
        let w := if f.length = 1 then w else f.getD (Config.pick seed (v.node + f.length) % f.length) w
        if v.dist < d v.node w.1 then [(v.node, .swap w.1 w.2 x gx)] else []

/-- The edges an edit would write. -/
def editTarget : Edit → Option (Nat × Nat)
  | .add t g => some (t, g)
  | .swap _ _ t g => some (t, g)
  | _ => none

/-- An edit after R139: each edge whose target is not live, tombstoned, or of another generation is dropped. -/
def judgeEdit (tag : Nat → Tag) (e : Edit) : Option Edit :=
  let good (t g : Nat) : Bool := (tag t).live && !(tag t).tomb && (tag t).gen == g
  match e with
  | .setList es => some (.setList (es.filter fun x => good x.1 x.2))
  | _ => match editTarget e with
    | some (t, g) => if good t g then some e else none
    | none => some e

/-! ### Staging and applying -/

/-- Edits staged for a share. -/
def stageEdits (p : Fin 4) (g : Graph) (ref : Nat) (commit : Option Nat) (es : List (Nat × Edit)) : Upd :=
  .part p fun y => { y with stage := y.stage ++ es.map fun e => ⟨g.coll, g.shard, g.shelf, e.1, e.2, ref, commit⟩ }

/-- One staged write applied to memory (R136, R138, R141). -/
def applyStaged (p : Fin 4) (n : Nat) (x : Staged) : Upd :=
  .read fun s =>
    match shardOf s p x.coll x.shard with
    | none => .skip
    | some h =>
      let g := graphOf s h x.shelf
      let na := nodeAddr g.rcd g.deg g.codeBytes x.node
      let slot := x.node - rBase g.rcd
      let list (_ : Unit) : Upd :=
        let old := edgesOf (memBytes s na (nodeLen g.rcd g.deg g.codeBytes)) g.deg
        let new := applyEdit g.deg old x.edit
        .when (new != old) (.seq [memStore (na + 32) (new.flatMap fun e => natLE 5 e.1 ++ natLE 1 e.2),
          memStore (na + 5) (natLE 1 new.length), chargeWrite s g.tenant na (32 + 6 * new.length)])
      match x.edit with
      | .tag gen live tomb =>
        .seq [memStore (tagAddr g.rcd g.codeBytes x.node) (tagBytes gen live tomb),
          chargeWrite s g.tenant (tagAddr g.rcd g.codeBytes x.node) 2,
          .when (x.shelf == h.shelf) (shardMod p x.coll x.shard fun h => { h with
            tombs := if live && tomb then aset h.tombs slot n else adel h.tombs slot,
            free := if live then h.free else if h.free.contains slot then h.free else h.free ++ [slot] })]
      | .usn v => memStore (na + 8) (natLE 8 v)
      | .payload v => .seq [memStore (na + 16) (padTo 8 v), chargeWrite s g.tenant na 32]
      | .code v => .seq [memStore (codeAddr g.rcd g.codeBytes x.node) v,
          chargeWrite s g.tenant (codeAddr g.rcd g.codeBytes x.node) v.length]
      | .refine v => .seq [memStore (refineAddr g.rcd v.length x.node) v,
          chargeWrite s g.tenant (refineAddr g.rcd v.length x.node) v.length]
      | .relink => .when (x.shelf == h.shelf) (repairAdd p (.relink x.coll x.shard false x.node))
      | _ => list ()

/-- A share's staged edits judged, in their places (R139): against the tags as they then stand. -/
def judgeStage (p : Fin 4) (g : Graph) (ref : Nat) : Upd :=
  .read fun s =>
    let judge (z : Staged) : Option Staged := if z.ref = ref ∧ z.coll = g.coll ∧ z.shard = g.shard ∧ z.commit.isNone
      then (judgeEdit (g.tag s p) z.edit).map ({ z with edit := · }) else some z
    .part p fun y => { y with stage := y.stage.filterMap judge }

/-- Action 3 of Bell step n: every committed write applied and taken out of the stage (R136). Whatever frame count the
Bell carries, nothing is yet committed in the frame it opens. -/
def applyStage (p : Fin 4) (n : Nat) : Upd :=
  .read fun s =>
    let due := (psys s p).stage.filter (·.commit.isSome)
    .seq [.each due (applyStaged p n),
      .part p fun y => { y with stage := y.stage.filter (·.commit.isNone) }]

end Sys2Proof.Machine
end

