-- ==== Sys2Proof/Machine/Walk.lean ====
section
/-!
DEFINITION. Shard walks (R101 to R115, R600): walk contexts, seeding, expansion, returns, offers, the end of a walk, and
moving contexts between the active store and the stacks.
-/

namespace Sys2Proof.Machine

/-! ### Contexts -/

/-- A walk of a partition. -/
def walkOf (s : State) (p : Fin 4) (id : Nat) : Option Walk := (psys s p).walks.find? (·.id == id)

/-- A walk changed. -/
def walkMod (p : Fin 4) (id : Nat) (f : Walk → Walk) : Upd :=
  .part p fun y => { y with walks := y.walks.map fun w => if w.id = id then f w else w }

/-- A walk gone, its slots back in the pool. -/
def walkDrop (p : Fin 4) (id : Nat) : Upd :=
  .part p fun y => { y with walks := y.walks.filter (·.id != id), sels := y.sels.filter (·.walk != id) }

/-- Slots a walk takes: a base slot, one for each further 128 candidates of beam above 64, one for a code longer than
1,024 bits. -/
def slotsFor (beam codeBytes : Nat) : Nat := 1 + ceilDiv (beam - 64) 128 + (if 128 < codeBytes then 1 else 0)

/-- Slots of the pool in use. -/
def slotsUsed (y : PSys) : List Nat := y.cmds.flatMap (·.slots) ++ y.walks.flatMap (·.slots)

/-- The n lowest free slots of the walk-context blocks of 65,536 bound to a tenant in a partition; none when fewer are free
(R112, R487). Which of the free slots a walk takes is the model's choice (log entry 63). -/
def takeSlots (s : State) (p : Fin 4) (tenant n : Nat) : Option (List Nat) :=
  let used := slotsUsed (psys s p)
  let blocks := (List.range 16).filter fun b => unitServes s 2 (16 * p.val + b) tenant
  let taken := used.countP fun i => blocks.contains (i / 65536)
  if 65536 * blocks.length < taken + n then none
  else some ((blocks.flatMap fun b => ((List.range (min 65536 (taken + n))).map (65536 * b + ·)).filter fun i => !(used.contains i)).take n)

/-- Whether a walk is on the entry layer of its shard's graph: a search or insert while it walks that, or the relink of one of its
nodes. -/
def Walk.onLayer (w : Walk) : Bool := w.layer.isSome || decide (2 ≤ w.shelf)

/-- The beam a walk works with. -/
def Walk.beamNow (w : Walk) : Nat := if w.layer.isSome then w.entryBeam else w.beam

/-! ### The queue (`offer` of R103) -/

/-- A candidate offered. -/
def offer (beam : Nat) (q : List Cand) (u d : Nat) (tomb : Bool) : List Cand :=
  if q.any (·.node == u) then q
  else
    let c : Cand := ⟨u, d, false, tomb⟩
    if q.length < beam then insertBy candBefore c q
    else match q.getLast? with
      | some worst => if candBefore c worst then insertBy candBefore c q.dropLast else q
      | none => q

/-- A pair put in the visited filter of 48, the oldest leaving (R105). -/
def filterPut (f : List (Nat × Nat)) (x : Nat × Nat) : List (Nat × Nat) := (f ++ [x]).drop (f.length + 1 - 48)

/-! ### Comparisons -/

/-- A walk's read charged to its tenant; repair's reads are counted to no tenant (R500). -/
def walkCharge (s : State) (w : Walk) (a n : Nat) : Upd :=
  match w.why with
  | .relink _ => .skip
  | _ => chargeRead s w.tenant a n

/-- Who reads for a comparison at a site: the stack engine, the channel Sieve, whose pairs' tags the Drover reads (R100), or the hub
lanes. -/
def compareAgent (site : Site) (tag : Bool) : Agent :=
  match site with
  | .stack _ => .stackEngine
  | .channel _ => if tag then .drover else .sieve
  | .hub => .sieve

/-- What one comparison leaves behind: pairs counted, reads charged, errors recorded. -/
def compareEffect (p : Fin 4) (w : Walk) (node u : Nat) (r : Cmp) : Upd :=
  .read fun s =>
    let site := siteOf s w node u
    match r with
    | .poison t l => memErr .poison p (sourceCode (compareAgent site t)) l
    | .unbound t a => memErr .unmapped p (sourceCode (compareAgent site t)) a
    | .stale => .skip
    | .ok _ _ =>
      .seq [ledger w.tenant 5 1,
        (match site with | .stack k => stackPairs k 1 | _ => .skip),
        .when (rPlacement w.rcdNow == 0) (walkCharge s w (codeAddr w.rcdNow w.codeBytes u) w.codeBytes)]

/-- A walk that met memory not bound to its tenant (R353): its command's piece ends with NOT_BOUND. The walk's `stop` is
set to 3 so that nothing more starts; the owner of the walk ends it. -/
def walkUnbound (p : Fin 4) (id : Nat) : Upd := walkMod p id fun w => { w with stop := 3, flight := [] }

/-! ### Seeding (R101, R102) -/

/-- One seed compared and offered: it counts in COMPARED, enters the filter, and is dropped as stale under R98. A Cellar shard holds
no code of a node but its neighbours' copies of it: the model compares such a seed by the first neighbour code of its own block
(DESIGN CHOICE, log entry 105). -/
def seedOne (p : Fin 4) (id : Nat) (u g : Nat) : Upd :=
  .read fun s =>
    match walkOf s p id with
    | none => .skip
    | some w =>
      let r := if inShard w.rcdNow u then comparePair s w.tenant w.rcdNow w.degree w.codeBytes w.query u u g 0 else .stale
      .seq [compareEffect p w u u r,
        walkMod p id fun w =>
          let w := { w with compared := w.compared + 1, filter := filterPut w.filter (u, g) }
          match r with
          | .ok d t => { w with queue := offer w.beamNow w.queue u d t }
          | .unbound _ _ => { w with stop := 3 }
          | _ => { w with stale := w.stale + 1 }]

/-- The entry set of a record, with the entries that read as poison. -/
def entrySet (s : State) (r : Bytes) : List (Nat × Nat × Option Nat) :=
  (List.range (rEntryN r)).map fun i =>
    let a := rEntrySet r + 8 * i
    (memLE s a 5, memLE s (a + 5) 1, poisonIn s a 8)

/-- Seeds from an entry set: an entry that reads as poison is dropped, counts once in STALE and is recorded (R600). -/
def seedSet (p : Fin 4) (id : Nat) : Upd :=
  .read fun s =>
    match walkOf s p id with
    | none => .skip
    | some w =>
      let r := w.rcdNow
      if !(rangeHolds s w.tenant (unalias s (rEntrySet r)) (8 * rEntryN r)) then
        .seq [memErr .unmapped p (sourceCode .drover) (rEntrySet r), walkUnbound p id]
      else .seq [walkCharge s w (rEntrySet r) (8 * rEntryN r),
        .each (entrySet s r) fun x =>
          match x.2.2 with
          | some l => .seq [memErr .poison p (sourceCode .drover) l, walkMod p id fun w => { w with stale := w.stale + 1 }]
          | none => seedOne p id x.1 x.2.1]

/-- The record of a shard's entry layer, read from its address; its bytes are taken as good whatever poison lies there (DESIGN CHOICE,
log entry 106). -/
def layerRec (s : State) (r : Bytes) : Option Bytes :=
  if rLayer r then some (memBytes s (rEntryAddr r) 160) else none

/-- A walk seeded: given entries, else the entry layer's entry set, else the shard's (R101). -/
def walkSeed (p : Fin 4) (id : Nat) : Upd :=
  .read fun s =>
    match walkOf s p id with
    | none => .skip
    | some w =>
      if w.seeds ≠ [] then
        .seq [walkMod p id fun w => { w with started := true, layer := none }, .each w.seeds fun x => seedOne p id x.1 x.2]
      else
        .seq [walkMod p id fun w => { w with started := true, layer := layerRec s w.rcd }, seedSet p id]

/-- The walk of the entry layer over: its best non-transit entries, up to the main beam, offered to the main queue under
their PAYLOAD node IDs and with their distances (R101); each one's tag read in the main shard (R102). The visited filter starts empty
in the main graph, and the bytes of a main-shard tag are taken as good (DESIGN CHOICE, log entry 106). -/
def layerEnd (p : Fin 4) (id : Nat) : Upd :=
  .read fun s =>
    match walkOf s p id with
    | none => .skip
    | some w =>
      let best := (w.queue.filter (!·.transit)).take w.beam
      .seq [walkMod p id fun v => { v with layer := none, queue := [], filter := [] },
        .each best fun c =>
          let a := nodeAddr w.rcdNow w.degree w.codeBytes c.node
          let u := memLE s (a + 16) 5
          let drop := walkMod p id fun v => { v with stale := v.stale + 1 }
          match poisonIn s a 32 with
          | some l => .seq [memErr .poison p (sourceCode .drover) l, drop]
          | none =>
            if !(inShard w.rcd u) then drop
            else
              let t := tagOf s w.rcd w.codeBytes u
              if !t.live then drop
              else walkMod p id fun v => { v with queue := offer v.beam v.queue u c.dist t.tomb }]

/-! ### Expansion -/

/-- The edges of an expanded node sorted into pairs to compare, with the counts (`expand` of R103, R87, R105). -/
def sortEdges (w : Walk) (edges : List (Nat × (Nat × Nat))) : Walk × List (Nat × Nat × Nat) :=
  edges.foldl (fun (a : Walk × List (Nat × Nat × Nat)) x =>
    let (w, pend) := a
    let (u, g) := x.2
    if !(edgeIn w.rcdNow u) then ({ w with stale := w.stale + 1 }, pend)
    else if w.filter.contains (u, g) then ({ w with suppressed := w.suppressed + 1 }, pend)
    else ({ w with filter := filterPut w.filter (u, g) }, pend ++ [(u, g, x.1)])) (w, [])

/-- The expansion of node v begun: its record read, its edges sorted, its comparisons sent. `pass`: on a start passed on (R115). -/
def expandStart (p : Fin 4) (id v : Nat) (pass : Bool) : Upd :=
  .read fun s =>
    match walkOf s p id with
    | none => .skip
    | some w =>
      let no := w.expansions + 1
      let a := nodeAddr w.rcdNow w.degree w.codeBytes v
      let n := nodeLen w.rcdNow w.degree w.codeBytes
      let transit := (w.queue.find? (·.node == v)).any (·.transit)
      let begin (w : Walk) : Walk := { w with
        expansions := w.expansions + 1, transit := w.transit + transit.toNat,
        queue := w.queue.map fun c => if c.node = v then { c with expanded := true } else c }
      .seq [ledger w.tenant 4 1,
        .part p fun y => { y with starts := y.starts + (!pass).toNat, passed := y.passed + pass.toNat, reads := y.reads + 1 },
        if access s p w.tenant a n false ≠ .ok then
          .seq [memErr .unmapped p (sourceCode .drover) a, walkMod p id begin, walkUnbound p id]
        else match poisonIn s a n with
        | some l =>
          .seq [memErr .poison p (sourceCode (if rPlacement w.rcdNow = 1 then .sieve else .drover)) l,
            walkMod p id fun w => { begin w with stale := w.stale + 1, flight := w.flight ++ [⟨v, no, [], [], [], (psys s p).reads, 0⟩] }]
        | none =>
          let bytes := memBytes s a n
          let ovr := decide (w.degree < byteAt bytes 5)
          let es := edgesOf bytes w.degree
          let pages := if rPlacement w.rcdNow = 1 then (a + n - 1) / 16384 - a / 16384 + 1 else 0
          .seq [walkCharge s w a n,
            walkMod p id fun w =>
              let (w, pend) := sortEdges (begin w) (indexed es)
              { w with stale := w.stale + ovr.toNat, flight := w.flight ++ [⟨v, no, [], pend, [], (psys s p).reads, pages⟩] },
            placeLists p id no,
            .each (es.filter fun e => !(edgeIn w.rcdNow e.1)) (fun e => repairAdd p (.stale w.coll w.shard w.onLayer v e.1 e.2)),
            .when ovr (repairAdd p (.relink w.coll w.shard w.onLayer v))]]

/-- The start with which a walk may begin an expansion now, where it has one ready (R115); none: it may not. -/
def mayExpand (s : State) (p : Fin 4) (w : Walk) : Option Bool := if walkReady s p w then startFor s p w.cls else none

/-- The expansions a walk can start now, up to `n` (the inner loop of `shard_walk`). -/
def startMore (p : Fin 4) (id : Nat) : Nat → Upd
  | 0 => .skip
  | n + 1 => .read fun s =>
    match walkOf s p id with
    | none => .skip
    | some w =>
      if w.state = .active ∧ w.started ∧ w.stop = 0 ∧ w.flight.length < w.width ∧ w.queue.any (!·.expanded) ∧
          w.expansions = w.maxExpand then
        walkMod p id fun w => { w with stop := 1 }
      else match mayExpand s p w, w.queue.find? (!·.expanded) with
        | some pass, some c => .seq [expandStart p id c.node pass, startMore p id n]
        | _, _ => .skip

/-- Whether a walk has ended: nothing in flight and nothing to expand, or stopped (R107). -/
def walkEnded (w : Walk) : Bool :=
  w.started && w.state == .active && w.flight.isEmpty && (w.stop != 0 || w.queue.all (·.expanded))

/-- One pair of expansion `no` of a walk, of a node, compared now: the result joins the expansion's results. -/
def compareOne (p : Fin 4) (id node no : Nat) (x : Nat × Nat × Nat) : Upd :=
  .read fun s =>
    match walkOf s p id with
    | none => .skip
    | some w =>
      let (u, g, i) := x
      let r := comparePair s w.tenant w.rcdNow w.degree w.codeBytes w.query node u g i
      let on (w : Walk) (f : Flight → Flight) : Walk :=
        { w with flight := w.flight.map fun e => if e.no = no then f e else e }
      let gone (e : Flight) : Flight := { e with pend := e.pend.filter (· != x) }
      .seq [compareEffect p w node u r,
        walkMod p id fun w =>
          match r with
          | .ok d t => { on w (fun e => { gone e with results := e.results ++ [(u, d, t)] }) with compared := w.compared + 1 }
          | .unbound _ _ => { on w gone with stop := 3 }
          | _ => { on w gone with stale := w.stale + 1 },
        .when (r == .stale) (repairAdd p (.stale w.coll w.shard w.onLayer node u g))]

/-- The flash pages of an expansion's block whose read can start now, one token of the walk's class each (R451): its neighbour lists have left
the Drover, where it has any. -/
def pagesNow (s : State) (p : Fin 4) (w : Walk) (e : Flight) : Nat :=
  if e.pend.isEmpty ∨ e.pend.any (fun x => e.placed s w x.1) then min e.pages ((shaperTokens s p w.cls).getD e.pages) else 0

/-- Whether the reads of an expansion's block have all started, those that can start now among them. -/
def pagesMay (s : State) (p : Fin 4) (w : Walk) (e : Flight) : Bool := pagesNow s p w e == e.pages

/-- Reads of flash pages of an expansion's block started, as far as tokens last. -/
def readPages (p : Fin 4) (w : Walk) (e : Flight) : Upd :=
  .read fun s =>
    let n := pagesNow s p w e
    .when (n != 0) (.seq [shaperTake p w.cls n,
      walkMod p w.id fun v => { v with flight := v.flight.map fun f => if f.no = e.no then { f with pages := f.pages - n } else f }])

/-- Up to `n` of the comparisons of an expansion that satisfy a test, made now (Table 3.10); a pair whose neighbour list waits for a
slot of its queue is not yet compared, nor is one that its stack has yet to grant (R361), nor are those of a block whose read its channel
has yet to serve (R397). The slots then freed go to lists that wait (R34, R37). -/
def compareFlight (p : Fin 4) (id no : Nat) (t : Walk → Nat → Bool) (n : Nat) : Upd :=
  .read fun s =>
    match walkOf s p id with
    | none => .skip
    | some w =>
      match w.flight.find? (·.no == no) with
      | none => .skip
      | some e => .when (readTurn s p w e) <| .seq [readPages p w e, .when (pagesMay s p w e) (.seq [.each ((e.pend.filter fun x => t w x.1 && e.placed s w x.1 && grantTurn s p w e x.1).take n) (compareOne p id e.node no), placeWaiting p])]

/-- The oldest expansion of a node in flight. -/
def flightOf (w : Walk) (node : Nat) : Option Flight := w.flight.find? (·.node == node)

/-- Up to `n` comparisons of the oldest expansion of a node in flight, made now. -/
def compareNode (p : Fin 4) (id node : Nat) (t : Walk → Nat → Bool) (n : Nat) : Upd :=
  .read fun s => match (walkOf s p id).bind fun w => flightOf w node with
    | some e => compareFlight p id e.no t n
    | none => .skip

/-- The return of an expansion taken: what is still to compare is compared, its results are offered in order. One whose neighbour
lists are not all on their queues has not returned. -/
def expandReturn (p : Fin 4) (id no : Nat) : Upd :=
  .seq [compareFlight p id no (fun _ _ => true) 64,
    walkMod p id fun w =>
      match w.flight.find? fun e => e.no == no && e.pend.isEmpty && e.pages == 0 with
      | none => w
      | some e => { w with
          flight := w.flight.filter (·.no != no)
          queue := e.results.foldl (fun q x => offer w.beamNow q x.1 x.2.1 x.2.2) w.queue }]

/-! ### The active store (R113, R114) -/

/-- Slots of the active store in use: 32,768 per partition. -/
def activeSlots (y : PSys) : Nat :=
  ((y.walks.filter fun w => w.state == .active || w.state == .finishing).map (·.slots.length)).sum

/-- Order of entry into the active store: class, then frame (queued walks at their acceptance frame). -/
def walkFirst (a b : Walk) : Bool :=
  let f (w : Walk) := if w.state == .queued then w.accFrame else w.admFrame
  a.cls < b.cls || (a.cls == b.cls && f a < f b)

/-- The walk to park for one of class `cls`: nothing in flight, a lower class and not class 0; lowest class first, the
one admitted last (R114). -/
def parkFor (y : PSys) (cls : Nat) : Option Walk :=
  (y.walks.filter fun w => w.state == .active && w.flight.isEmpty && cls < w.cls).foldl
    (fun a w => match a with
      | none => some w
      | some v => if v.cls < w.cls || (v.cls == w.cls && v.admFrame ≤ w.admFrame) then some w else a) none

/-- One walk brought into the active store, parking others for it; nothing where it does not fit. -/
def activate (p : Fin 4) (n id : Nat) : Nat → Upd
  | 0 => .skip
  | fuel + 1 => .read fun s =>
    match walkOf s p id with
    | none => .skip
    | some w =>
      if activeSlots (psys s p) + w.slots.length ≤ 32768 then
        walkMod p id fun w => { w with state := .active, admFrame := if w.state == .queued then n else w.admFrame }
      else match parkFor (psys s p) w.cls with
        | some v => .seq [walkMod p v.id fun v => { v with state := .parked, parks := min 255 (v.parks + 1) },
            activate p n id fuel]
        | none => .skip

/-- Action 6 of the Bell step for walks: the descriptors on the walk admission queue taken, and queued and parked walks moved into free
active slots in order (R113, R114); descriptors that waited for a slot of the queue are then placed. A walk that does not fit leaves its
place to a later one that does (DESIGN CHOICE, log entry 107). -/
def admitWalks (p : Fin 4) (n : Nat) : Upd :=
  .seq [.part p takeWalks,
    .read fun s =>
      let ws := sortBy walkFirst ((psys s p).walks.filter fun w => (w.state == .queued && w.spot == .drover) || w.state == .parked)
      .each ws fun w => activate p n w.id 5,
    placeWalks p]

end Sys2Proof.Machine
end

