-- ==== Sys2Proof/Machine/Fanout.lean ====
section
/-!
DEFINITION. Coordinated commands (R112, R122, R124 to R126, R131, R332, R601): fan-out records, shares sent to other
partitions and parts, their replies, and the CANCELs that follow a command ended early.
-/

namespace Sys2Proof.Machine

/-! ### Fan-out records -/

/-- Fan-out records in use by a partition's commands. -/
def recordsUsed (y : PSys) : List Nat :=
  y.cmds.flatMap fun c => c.pieces.flatMap fun x =>
    if x.loc then [] else (List.range (ceilDiv (x.slot + x.nslots) 16)).map (x.record + ·)

/-- The lowest run of m free records of 4,096. -/
def recordRun (used : List Nat) (m : Nat) : Option Nat :=
  (List.range (4097 - m)).find? fun r => (List.range m).all fun i => !(used.contains (r + i))

/-- Reply slots of 8 KiB for a reply of n bytes with its header. -/
def slotsOfReply (n : Nat) : Nat := ceilDiv (32 + n) 8192

/-- Records and slots for each remote piece in turn (R112): small replies share a record, a reply of more than 16 slots
takes consecutive records. -/
def layReplies : List Piece → List Nat → Option (Nat × Nat) → Option (List Piece)
  | [], _, _ => some []
  | x :: r, used, cur =>
    if x.loc then (layReplies r used cur).map (x :: ·)
    else
      let fits := match cur with | some c => decide (c.2 + x.nslots ≤ 16) | none => false
      match (if fits then cur else none) with
      | some c => (layReplies r used (some (c.1, c.2 + x.nslots))).map ({ x with record := c.1, slot := c.2 } :: ·)
      | none =>
        let m := ceilDiv x.nslots 16
        match recordRun used m with
        | none => none
        | some b => (layReplies r (used ++ (List.range m).map (b + ·)) (if m = 1 then some (b, x.nslots) else cur)).map
            ({ x with record := b, slot := 0 } :: ·)

/-- A piece for a unit at a home, before its reply slots are laid out. -/
def mkPiece (s : State) (p : Fin 4) (unit part partition : Nat) (entries : List Nat) (replyBytes : Nat) : Piece :=
  { unit, part, partition, loc := part == partId s && partition == p.val, record := 0, slot := 0,
    nslots := slotsOfReply replyBytes, seq := 0, sent := false, entries, area := [], done := none }

/-! ### Pieces -/

/-- A piece of a command changed. -/
def pieceMod (p : Fin 4) (ref unit : Nat) (f : Piece → Piece) : Upd :=
  cmdMod p ref fun c => { c with pieces := c.pieces.map fun x => if x.unit = unit then f x else x }

/-- A piece done. -/
def pieceDone (p : Fin 4) (ref unit : Nat) (d : PieceDone) : Upd := pieceMod p ref unit fun x => { x with done := some d }

/-- The new home of a shard that has moved away from a partition and is not yet released there (Table 4.13). -/
def movedTo (s : State) (p : Fin 4) (coll shard : Nat) : Option (Nat × Nat) :=
  ((psys s p).migs.find? fun m => m.kind == 0 && m.id == coll && m.shard == shard && m.cutDone).map fun m => (m.newPart, m.newPartition)

/-- A command's pieces not yet sent made pieces of the home they have now, where it is another one: the new home of a unit that moved
(Table 4.13), or the one of the map then in force (R94). -/
def rehome (p : Fin 4) (ref : Nat) (home : State → Piece → Option (Nat × Nat)) (bytes : Piece → Nat) : Upd :=
  .read fun s =>
    match cmdOf s p ref with
    | none => .skip
    | some c =>
      let moved := c.pieces.filterMap fun x => if x.sent ∨ x.done.isSome then none
        else (home s x).bind fun h => if h = (x.part, x.partition) then none else some (mkPiece s p x.unit h.1 h.2 x.entries (bytes x))
      match (if moved.isEmpty then none else layReplies moved (recordsUsed (psys s p)) none) with
      | none => .skip
      | some l => cmdMod p ref fun c => { c with pieces := c.pieces.map fun x => (l.find? (·.unit == x.unit)).getD x }

/-- Whether every piece is done. -/
def allDone (c : Cmd) : Bool := c.pieces.all (·.done.isSome)

/-- The pieces' statuses that precede OK_SHORT in Table 2.14, the first of that order first (R124). -/
def worstPiece (c : Cmd) : Option Piece :=
  (c.pieces.filter fun x => match x.done with | some d => statusFails d.status | none => false).foldl
    (fun a x => match a with
      | none => some x
      | some y => if statusRank (x.done.map (·.status) |>.getD 0) < statusRank (y.done.map (·.status) |>.getD 0)
          then some x else a) none

/-! ### Shares -/

/-- A command packet given to a Steward: of this part through its own ring, of another part as a CMD packet. -/
def sendToSteward (p : Fin 4) (c : Cmd) (part partition : Nat) (packet : Bytes) : Upd :=
  .read fun s =>
    if part = partId s then
      .part (toP partition) fun y => { y with shareIn := y.shareIn ++ [⟨packet, c.tenant, p.val, frameNow s⟩] }
    else sendCredited (mkPacket s c.cls part c.tenant partition (.cmd packet))

/-- A share sent for a piece: `opcode`, its parameters after DEADLINE and FANOUT, and the largest body. A destination this
part cannot reach or has no peer entry for ends the share with NOT_BOUND (R432, R437). -/
def sendShare (p : Fin 4) (ref : Nat) (x : Piece) (opcode flags : Nat) (block : Bytes) (bodyMax : Nat) (mid : Bytes := zeros 8) :
    Upd :=
  .read fun s =>
    match cmdOf s p ref with
    | none => .skip
    | some c =>
      let seq := (psys s p).shareSeq
      let head := natLE 6 (c.accFrame + c.timeout) ++ natLE 2 x.record ++ mid
      let pkt := packetBytes opcode flags c.cls c.timeout seq (fanAddr p.val x.record + x.slot * 8192) (partId s) bodyMax
        (head ++ block)
      if x.part = partId s ∨ canRequest s (mkPacket s c.cls x.part c.tenant x.partition (.cmd pkt)) then
        .seq [.part p fun y => { y with shareSeq := (y.shareSeq + 1) % 2 ^ 64 },
          pieceMod p ref x.unit fun x => { x with seq, sent := true },
          sendToSteward p c x.part x.partition pkt]
      else .seq [regSetBit .fabStatus 0 0 62, pieceDone p ref x.unit ⟨stNotBound, 0, 0, []⟩]

/-- CANCELs for every share not answered (R126). -/
def sendCancels (p : Fin 4) (c : Cmd) : Upd :=
  .each (c.pieces.filter fun x => x.sent && x.done.isNone) fun x =>
    .read fun s =>
      let seq := (psys s p).shareSeq
      .seq [.part p fun y => { y with shareSeq := (y.shareSeq + 1) % 2 ^ 64 },
        sendToSteward p { c with cls := max 1 c.cls } x.part x.partition
          (packetBytes 0x0103 4 (max 1 c.cls) 0 seq (fanAddr p.val x.record + x.slot * 8192) (partId s) 0 (natLE 8 x.seq))]

/-! ### Replies of shares (R601) -/

/-- The piece whose reply slots hold a write of n bytes at an offset of a record's area, from a part and partition, while
the record awaits it. -/
def pieceAt (y : PSys) (fromPart fromPartition record offset n : Nat) : Option (Cmd × Piece) :=
  let pos := record * 0x20000 + offset
  y.cmds.findSome? fun c => (c.pieces.find? fun x =>
    x.sent && x.done.isNone && x.part == fromPart && x.partition == fromPartition && decide (n ≠ 0) &&
    decide (x.record * 0x20000 + x.slot * 8192 ≤ pos) &&
    decide (pos + n ≤ x.record * 0x20000 + (x.slot + x.nslots) * 8192)).map (c, ·)

/-- A reply area after a write, and the reply it then completes: a write that covers STATUS, with the share's CMD_SEQ in
place and a code of Table 2.14. -/
def landReply (x : Piece) (off : Nat) (data : Bytes) : Piece × Option PieceDone × Bool :=
  let a := Mem.writeBytes x.area off data
  let h := Mem.readBytes a 0 32
  if off = 0 ∧ 2 ≤ data.length then
    if leAt h 8 8 = x.seq then
      if statusOrder.contains (leAt h 0 2) then
        ({ x with area := a },
         some ⟨leAt h 0 2, leAt h 24 4, leAt h 28 4, Mem.readBytes a 32 (min (leAt h 4 4) (x.nslots * 8192 - 32))⟩, false)
      else (x, none, true)
    else (x, none, true)
  else ({ x with area := a }, none, false)

/-- A result discarded and counted (R79). -/
def discardResult (p : Fin 4) : Upd := .part p fun y => { y with discarded := y.discarded + 1 }

/-- A write into a record's area performed or discarded; `k` runs when it completes a share. -/
def fanWrite (fromPart : Nat) (fromPartition p : Fin 4) (record offset : Nat) (data : Bytes) (k : Nat → Upd) : Upd :=
  .read fun s =>
    match pieceAt (psys s p) fromPart fromPartition.val record offset data.length with
    | none => discardResult p
    | some (c, x) =>
      let off := record * 0x20000 + offset - (x.record * 0x20000 + x.slot * 8192)
      let (x', d, bad) := landReply x off data
      .seq [.when bad (discardResult p),
        pieceMod p c.ref x.unit fun y => { y with area := x'.area, done := d },
        .when d.isSome (k c.ref)]

/-- The fault record of a coordinator that posts a status a share produced (R511). -/
def shareFault (s : State) (p : Fin 4) (c : Cmd) (x : Piece) (status n : Nat) : FaultRec :=
  let d := x.done.getD ⟨status, 0, 0, []⟩
  faultOf s p c { faultBase (if status = stTimeout then 0x01 else 0x14) 1 with
    ctxKind := if x.loc then 1 else 4, ctxId := x.record, count := n,
    detail := if status = stTimeout then natLE 6 c.admFrame
      else natLE 3 x.part ++ natLE 1 x.partition ++ natLE 4 d.faultRef ++ natLE 2 status }

/-- A coordinated command ended with a status a piece produced, with the record that R511 asks for. -/
def postPieceStatus (p : Fin 4) (c : Cmd) (x : Piece) (n : Nat) : Upd :=
  .read fun s =>
    let d := x.done.getD ⟨stNotBound, 0, 0, []⟩
    if d.status = stTimeout ∨ d.status = stContextReset ∨ d.status = stEngineReset ∨ d.status = stPartitionReset then
      .seq [fault p (shareFault s p c x d.status n), postReply p c d.status d.detail [] (nextFaultRef s p)]
    else postReply p c d.status d.detail [] d.faultRef

end Sys2Proof.Machine
end

