-- ==== Sys2Proof/Machine/Daybook.lean ====
section
/-!
DEFINITION. The Daybook (R524 to R528): a partition's log of committed shares, its records' bytes, the sending of records
to a partner's partition, and the space it needs.
-/

namespace Sys2Proof.Machine

/-- CRC-32 of bytes (Table 18.8; the polynomial is PRESUMED, log entry 20). -/
def crc32 (bs : Bytes) : Nat :=
  let bitStep (c : Nat) : Nat := if c % 2 = 1 then (c / 2) ^^^ 0xEDB88320 else c / 2
  let byteStep (c : Nat) (b : Byte) : Nat := (List.range 8).foldl (fun c _ => bitStep c) (c ^^^ b.toNat)
  (bs.foldl byteStep 0xFFFFFFFF) ^^^ 0xFFFFFFFF

/-- The length of a record: header, results and entries, in whole 64 bytes. -/
def dayLen (r : DayRec) : Nat := roundUp (64 + r.results.length + r.entries.length) 64

/-- The bytes of a record (Table 18.8). -/
def dayBytes (r : DayRec) : Bytes :=
  let head (crc : Nat) : Bytes :=
    natLE 8 r.lsn ++ natLE 6 r.commit ++ natLE 2 r.opcode ++ natLE 2 r.tenant ++ natLE 2 r.id ++ natLE 2 r.shard ++
    zeros 2 ++ natLE 4 r.n ++ natLE 4 (dayLen r) ++ natLE 8 r.cmdSeq ++ natLE 3 r.src ++ natLE 1 r.srcPartition ++
    natLE 4 crc ++ natLE 8 r.usn ++ zeros 8
  let tail := padTo (dayLen r - 64) (r.results ++ r.entries)
  head (crc32 (head 0 ++ tail)) ++ tail

/-- A record read from its bytes. -/
def dayIn (b : Bytes) : DayRec :=
  { lsn := leAt b 0 8, commit := leAt b 8 6, opcode := leAt b 14 2, tenant := leAt b 16 2, id := leAt b 18 2,
    shard := leAt b 20 2, n := leAt b 24 4, cmdSeq := leAt b 32 8, src := leAt b 40 3, srcPartition := byteAt b 43,
    usn := leAt b 48 8, results := (b.drop 64).take (16 * leAt b 24 4), entries := (b.drop (64 + 16 * leAt b 24 4)),
    durable := false, partner := none, sent := false, partnerDurable := false }

/-- Bytes of a partition's Daybook: 8 regions of 28,600 MiB. -/
def dayCapacity : Nat := 8 * 28600 * 1048576

/-- Whether a record may be overwritten (R527). -/
def dayFree (r : DayRec) : Bool := r.durable && (r.partner.isNone || r.partnerDurable)

/-- Whether a record of n bytes finds space it may use. -/
def dayFits (s : State) (p : Fin 4) (n : Nat) : Bool :=
  ((((psys s p).faults.day.filter (!dayFree ·)).map dayLen).sum + n) ≤ dayCapacity

/-- Records kept: from the newest back, as many as the ring holds. `l` is newest first. -/
def dayKeep : List DayRec → Nat → List DayRec
  | [], _ => []
  | r :: rest, room => if dayLen r ≤ room then r :: dayKeep rest (room - dayLen r) else if dayFree r then [] else r :: dayKeep rest 0

/-- The partner of a shard, where its map entry has one. -/
def partnerOf (s : State) (p : Fin 4) (coll shard : Nat) : Option (Nat × Nat) :=
  match collOf s coll with
  | none => none
  | some c => match aget c.map shard with
    | none => none
    | some w => if mPartnerValid w ∧ mPart w = partId s ∧ mPartition w = p.val then some (mPartnerPart w, mPartnerPartition w)
        else none

/-- A record logged (R524): its LSN, its partner. The log is kept newest first. -/
def dayAppend (p : Fin 4) (r : DayRec) : Upd :=
  .part p fun y =>
    let r := { r with lsn := y.faults.nextLsn }
    { y with faults := { y.faults with nextLsn := y.faults.nextLsn + 1, day := dayKeep (r :: y.faults.day) dayCapacity } }

/-- The internal command that carries one record to its partner; its one piece holds the reply slot of the partner's
DAYBOOK_APPEND. -/
def dayCmd (s : State) (p : Fin 4) (ref : Nat) (r : DayRec) (x : Piece) : Cmd :=
  { ref, ring := 35, tenant := r.tenant, steward := true, srcPart := partId s, srcPartition := p.val, opcode := 0x0906,
    flags := 0, cls := 2, timeout := 65535, seq := r.lsn, replyAddr := 0, replyHost := false, replyPart := partId s,
    bodyMax := 0, tally := 0, params := dayBytes r, ext := [], ignored := 0, accFrame := frameNow s,
    admFrame := frameNow s, phase := .running, pieces := [x], slots := [], desc := [], thresh := 0, aux := r.lsn, aux2 := 0, sbTag := 0 }

/-- Records not yet sent to their partner's partition sent, each in a record of fan-out (R526); one that finds no fan-out
record waits. -/
def dayForward (p : Fin 4) : Upd :=
  .read fun s => .each ((psys s p).faults.day.reverse.filter fun r => r.partner.isSome && !r.sent) fun r =>
    .read fun s =>
      match r.partner, recordRun (recordsUsed (psys s p)) 1 with
      | some (part, partition), some b =>
        let ref := (psys s p).nextRef
        let x := { mkPiece s p 0 part partition [] 0 with record := b }
        .seq [.part p fun y => { y with
            nextRef := y.nextRef + 1, cmds := y.cmds ++ [dayCmd s p ref r x],
            faults := { y.faults with day := y.faults.day.map fun d => if d.lsn = r.lsn then { d with sent := true } else d } },
          .read fun s =>
            match cmdOf s p ref with
            | none => .skip
            | some c =>
              let seq := (psys s p).shareSeq
              .seq [.part p fun y => { y with shareSeq := (y.shareSeq + 1) % 2 ^ 64 },
                pieceMod p ref 0 fun x => { x with seq, sent := true, loc := false },
                sendToSteward p c part partition
                  (packetBytes 0x0906 0 2 65535 seq (fanAddr p.val b) (partId s) 0 (dayBytes r))]]
      | _, _ => .skip

/-- A partner's answer to a record: it is durable there, and the internal command is over. -/
def dayAcked (p : Fin 4) (ref : Nat) : Upd :=
  .read fun s =>
    match cmdOf s p ref with
    | none => .skip
    | some c =>
      let ok := c.pieces.any fun x => x.done.any (·.status == stOk)
      .part p fun y => { y with
        cmds := y.cmds.filter (·.ref != ref),
        faults := { y.faults with day := y.faults.day.map fun d =>
          if d.lsn = c.aux then { d with partnerDurable := ok, sent := ok } else d } }

end Sys2Proof.Machine
end

