-- ==== Sys2Proof/Machine/Scale.lean ====
section
/-!
DEFINITION. Scaling and accumulation (chapter 7): scale layouts, the encoder of R225, the accumulation pipeline of Table
7.4 with its unspecified order of FP32 additions (R231), and the squared distance of R237.
-/

namespace Sys2Proof.Machine

/-- The base of the free choices of the n-th operation: each operation numbers its own choices from here. -/
def opKey (n : Nat) : Nat := n * 2 ^ 64

/-- An exact quotient of finite values, as a value that lies on the same side of every rounding boundary of every format:
the quotient cut below 2⁻⁴⁰⁰ with a sticky bit. Division by zero is not asked for. -/
def numQuot (x y : Num) : Num :=
  match x, y with
  | .fin a m e, .fin b n f =>
    let k := e - f
    let s := (k + 400).toNat
    let q := m * 2 ^ s / n
    let sticky := if m * 2 ^ s % n = 0 then 0 else 1
    .fin (a != b) (2 * q + sticky) (k - s - 1)
  | .inf a, .fin b _ _ => .inf (a != b)
  | .nan a, _ => .nan a
  | x, _ => x

/-- The magnitude of a value. -/
def numAbs : Num → Num
  | .nan _ => .nan false
  | .inf _ => .inf false
  | .fin _ m e => .fin false m e

/-- Whether a value is finite, is a NaN, is zero. -/
def Num.isFin : Num → Bool | .fin _ _ _ => true | _ => false
def Num.isNan : Num → Bool | .nan _ => true | _ => false
def Num.isZero : Num → Bool | .fin _ m _ => m == 0 | _ => false

/-- Zero. -/
def num0 : Num := .fin false 0 0

/-- The largest magnitude of a group, NaN and infinite elements ignored. -/
def groupMax (xs : List Num) : Num := (xs.filter Num.isFin).foldl (fun a x => numMax a (numAbs x)) num0

/-- The encoding bound Q (Table 7.2). -/
def encQ (fmt : Nat) (u : Bool) : Nat :=
  match fmt with
  | 0x2 => 1 | 0x3 => if u then 3 else 1 | 0x4 => if u then 14 else 7 | 0x5 => 6 | 0x6 => 28 | 0x7 => 7
  | 0x8 => if u then 239 else 119 | 0x9 => 432 | 0xA => 57344 | _ => 1

/-- A list cut into pieces of n. -/
def cut {α : Type} (n : Nat) (l : List α) : List (List α) :=
  (List.range (ceilDiv l.length n)).map fun i => (l.drop (i * n)).take n

/-- An encoded row: element codes, first-level scales by group, second-level scales by block (FP32 codes), and one tensor
scale. -/
structure Enc where
  codes : List Nat
  s1 : List Nat
  s2 : List Nat
  deriving DecidableEq, Repr

/-- A code of the nearest value of a format, and its flags. -/
def nearest (fmt : Nat) (u : Bool) (x : Num) : Nat × FlagN := convert fmt u x

/-- The bound of an element format on one side, as a code (R203). -/
def boundCode (fmt : Nat) (u neg : Bool) : Nat :=
  match fpFmt fmt with
  | some f => (if neg then 2 ^ (f.w + f.m) else 0) + fpMaxCode f
  | none => (convert fmt u (.inf neg)).1

/-- One element encoded under an exact scale value, or with code 0 in a group that stores no values. An infinite source element
saturates, in a format with infinities too, and raises SAT whatever code is written (R226; DEDUCED, log 119). -/
def encodeElem (fmt : Nat) (u dead : Bool) (scale : Num) (x : Num) : Nat × FlagN :=
  match x with
  | .inf neg => (if dead then 0 else boundCode fmt u neg, { sat := 1 })
  | x => if dead then (0, FlagN.none) else nearest fmt u (numQuot x scale)

/-- The flags of elements together. -/
def flagSum (l : List FlagN) : FlagN := l.foldl FlagN.add .none

/-- A row as the encoder leaves it: codes and scales, each element's flags, and those of its scales (R209). -/
structure Encoded where
  enc : Enc
  elems : List FlagN
  scales : FlagN
  deriving DecidableEq, Repr

/-- Two stretches of a row, one after the other. -/
def Encoded.join (a b : Encoded) : Encoded :=
  ⟨⟨a.enc.codes ++ b.enc.codes, a.enc.s1 ++ b.enc.s1, a.enc.s2 ++ b.enc.s2⟩, a.elems ++ b.elems, a.scales.add b.scales⟩

/-- A row of no elements. -/
def Encoded.nil : Encoded := ⟨⟨[], [], []⟩, [], .none⟩

/-- One group under its first-level scale code and the exact scale value. -/
def encodeGroup (fmt : Nat) (u dead : Bool) (s1 : List Nat) (scale : Num) (flags : FlagN) (xs : List Num) : Encoded :=
  let cs := xs.map (encodeElem fmt u dead scale)
  ⟨⟨cs.map (·.1), s1, []⟩, cs.map (·.2), flags⟩

/-- One block of up to 16 groups encoded under TWO_LEVEL (R225). -/
def encodeBlock (fmt : Nat) (u : Bool) (groups : List (List Num)) : Encoded :=
  let amax := (groups.map groupMax).foldl numMax num0
  let q := encQ fmt u
  let s2 := if amax.isZero then (0, .none) else nearest 0xD false (numQuot amax (.fin false (q * 448) 0))
  let group (xs : List Num) : Encoded :=
    let a := groupMax xs
    let s1 := if xs.any Num.isNan then (0x7F, .none)
      else if a.isZero ∨ s2.1 = 0 then (0, .none)
      else nearest 0x9 true (numQuot a (numMul (.fin false q 0) (f32 s2.1)))
    encodeGroup fmt u (s1.1 == 0 || s1.1 == 0x7F) [s1.1] (numMul (decodeNum 0x9 true s1.1).1 (f32 s2.1)) s1.2 xs
  (groups.map group).foldl .join ⟨⟨[], [], [s2.1]⟩, [], s2.2⟩

/-- A row encoded under a layout (R225): 1 TWO_LEVEL, 2 POW2, 3 TENSOR (one FP32 scale from the largest magnitude `amax` of the
whole tensor), else NONE. -/
def encodeParts (fmt : Nat) (u : Bool) (layout g : Nat) (amax : Num) (xs : List Num) : Encoded :=
  let q : Num := .fin false (encQ fmt u) 0
  if layout = 1 then ((cut 16 (cut g xs)).map (encodeBlock fmt u)).foldl .join .nil
  else if layout = 2 then
    let group (xs : List Num) : Encoded :=
      let s1 := if xs.any Num.isNan then (0xFF, .none) else nearest 0xF false (numQuot (groupMax xs) q)
      encodeGroup fmt u (s1.1 == 0xFF) [s1.1] (decodeNum 0xF false s1.1).1 s1.2 xs
    ((cut g xs).map group).foldl .join .nil
  else if layout = 3 then
    let st := nearest 0xD false (numQuot amax q)
    let e := encodeGroup fmt u (st.1 == 0) [] (f32 st.1) st.2 xs
    { e with enc := { e.enc with s2 := [st.1] } }
  else
    let cs := xs.map (nearest fmt u)
    ⟨⟨cs.map (·.1), [], []⟩, cs.map (·.2), .none⟩

/-- A row encoded, with all its flags. -/
def encodeRow (fmt : Nat) (u : Bool) (layout g : Nat) (amax : Num) (xs : List Num) : Enc × FlagN :=
  let e := encodeParts fmt u layout g amax xs
  (e.enc, e.scales.add (flagSum e.elems))

/-! ### Outliers (R241) -/

/-- The ratio of R241 by default. -/
def outlierRatio : Num := .fin false 4 0

/-- The places in a group of up to `o` elements whose magnitude is at least the ratio times the (o + 1)-th largest; an element
missing from a short group counts as 0, and a zero or a NaN is never taken. -/
def outliersIn (o : Nat) (xs : List Num) : List Nat :=
  let ranked := sortBy (fun a b => numLt (numAbs b.2) (numAbs a.2)) ((indexed xs).filter fun x => !x.2.isNan && !x.2.isZero)
  let next := ((ranked[o]?).map fun x => numAbs x.2).getD num0
  ((ranked.take o).filter fun x => !(numLt (numAbs x.2) (numMul outlierRatio next))).map (·.1)

/-- A row with its outliers taken out, the first 64 of them (R239): the row with zeros in their places, and the places with the
values taken. -/
def takeOutliers (o g : Nat) (xs : List Num) : List Num × List (Nat × Num) :=
  let at' := ((indexed (cut g xs)).flatMap fun y => (outliersIn o y.2).map fun i => y.1 * g + i)
  let cols := (sortBy (fun a b => decide (a < b)) at').take 64
  ((indexed xs).map fun x => if cols.contains x.1 then num0 else x.2, cols.map fun i => (i, xs.getD i num0))

/-! ### Operands of a dot product -/

/-- One row of an operand along the reduction: format, layout (Table 7.1), group size, element codes, scales, the tensor
scale and the row's side-list entries (column, BF16 code). -/
structure Row where
  fmt : Nat
  u : Bool
  layout : Nat
  g : Nat
  codes : List Nat
  s1 : List Nat
  s2 : List Nat
  st : Nat
  side : List (Nat × Nat)
  deriving DecidableEq, Repr

/-- The element codes' exact values, with BADCODE counted. -/
def Row.vals (r : Row) : List Num := r.codes.map fun c => (decodeNum r.fmt r.u c).1
def Row.bad (r : Row) : FlagN := { bad := r.codes.countP fun c => (decodeNum r.fmt r.u c).2 }

/-- A group's first-level scale of an operand: a value that counts 1 where the layout has none. -/
def Row.scale1 (r : Row) (j : Nat) : Num :=
  if r.layout = 1 then (decodeNum 0x9 true (r.s1.getD j 0)).1
  else if r.layout = 2 then (decodeNum 0xF false (r.s1.getD j 0)).1
  else .fin false 1 0

/-- The exact value of an element (R221). A NaN scale makes a NaN, whose sign is free (R198, R222). -/
def Row.value (r : Row) (i : Nat) : Num :=
  let v := (decodeNum r.fmt r.u (r.codes.getD i 0)).1
  let j := i / r.g
  let s1 := r.scale1 j
  if s1.isNan then .nan (Config.nanSign 0 8)
  else if r.layout = 1 then (if s1.isZero then num0 else numMul (numMul v s1) (f32 (r.s2.getD (j / 16) 0)))
  else if r.layout = 2 then numMul v s1
  else if r.layout = 3 then numMul v (f32 r.st)
  else v

/-- A row as the Mill reads an element of it for a side-list product: without the tensor scale, which stage 7 applies to the
whole carry (R240, Table 7.4). -/
def Row.unscaled (r : Row) : Row := if r.layout = 3 then { r with layout := 0 } else r

/-- The side-list products of one row with the other: each element of the other rounded once to FP32, the product once more. -/
def sideTerms (x y : Row) : List (Nat × FlagN) :=
  x.side.map fun e =>
    let v := toF32 (y.unscaled.value e.1)
    let r := f32Mul (toF32 (decodeNum 0xC false e.2).1).1 v.1
    (r.1, v.2.add r.2)

/-- Whether a format's products go straight to stage 6 (R231). -/
def wideFmt (fmt : Nat) : Bool := fmt == 0xB || fmt == 0xC || fmt == 0xD

/-- The group term of stage 3 (R222, R229, R232). -/
def groupTerm (s1a s1b : Num) (xs ys : List Num) : Nat × FlagN :=
  if s1a.isNan || s1b.isNan then toF32 (.nan (Config.nanSign 0 7))
  else if s1a.isZero || s1b.isZero then (0, .none)
  else toF32 (numMul (numMul ((List.zipWith numMul xs ys).foldl numAdd num0) s1a) s1b)

/-- The scaled dot product of two rows in FP32 (Table 7.4): the additions of stages 4 and 6 in an order of free choices
numbered from `key`. SAT counts once for the result (R233). -/
def dotRows (key : Nat) (a b : Row) : Nat × FlagN :=
  let sides := sideTerms a b ++ sideTerms b a
  let (terms, flags) : List Nat × List FlagN :=
    if wideFmt a.fmt ∨ wideFmt b.fmt then
      let ps := List.zipWith (fun x y => toF32 (numMul x y)) a.vals b.vals
      (ps.map (·.1), ps.map (·.2))
    else
      let g := if a.layout = 1 ∨ a.layout = 2 then a.g else if b.layout = 1 ∨ b.layout = 2 then b.g else 128
      let gt := (indexed ((cut g a.vals).zip (cut g b.vals))).map fun t => groupTerm (a.scale1 t.1) (b.scale1 t.1) t.2.1 t.2.2
      if a.layout = 1 ∨ b.layout = 1 then
        let bl := (indexed (cut 16 gt)).map fun kt =>
          let k := kt.1
          let ts := kt.2
          let (v, f) := sumTerms (key + (k + 1) * 4096) (ts.map (·.1))
          let (s, h) := f32Mul (if a.layout = 1 then a.s2.getD k 0 else 0x3F800000) (if b.layout = 1 then b.s2.getD k 0 else 0x3F800000)
          let (t, i) := f32Mul v s
          (t, (f.add h).add i)
        (bl.map (·.1), bl.map (·.2) ++ gt.map (·.2))
      else (gt.map (·.1), gt.map (·.2))
  let (c, f) := sumTerms key (terms ++ sides.map (·.1))
  let (r, h) := if a.layout = 3 ∨ b.layout = 3 then
      let (s, x) := f32Mul (if a.layout = 3 then a.st else 0x3F800000) (if b.layout = 3 then b.st else 0x3F800000)
      let (v, y) := f32Mul c s
      (v, x.add y)
    else (c, .none)
  let all := (flags ++ sides.map (·.2)).foldl FlagN.add (f.add h)
  (r, { sat := min 1 all.sat })

/-- The exact sum of R234, both operands integer formats of layout NONE, with the side-list products (R240), which FP32 holds
exactly unless they leave its range. -/
def dotInts (a b : Row) : Num :=
  (List.zipWith numMul a.vals b.vals ++ (sideTerms a b ++ sideTerms b a).map fun t => f32 t.1).foldl numAdd num0

/-- The squared L2 distance of R237. -/
def l2Rows (key : Nat) (q x : Row) : Nat × FlagN :=
  let (qq, f) := dotRows key q q
  let (qx, g) := dotRows (key + 2 ^ 40) q x
  let (xx, h) := dotRows (key + 2 ^ 41) x x
  let (d, i) := f32Mul 0xC0000000 qx
  let (v, j) := sumTerms (key + 2 ^ 42) [qq, d, xx]
  (v, { sat := min 1 (f.sat + g.sat + h.sat + i.sat + j.sat) })

/-! ### Refine records (Table 3.8) -/

/-- The element format of a collection's refine format: 1 INT4, 2 INT8. -/
def refineElem (fmt : Nat) : Nat := if fmt = 1 then 0x4 else 0x8

/-- A stored refine record as a row. -/
def refineRow (fmt group dim : Nat) (r : Bytes) : Row :=
  let vb := if fmt = 1 then dim / 2 else dim
  let g := dim / group
  { fmt := refineElem fmt, u := false, layout := 1, g := group,
    codes := (List.range dim).map fun i => elemAt (refineElem fmt) r i,
    s1 := (List.range g).map fun j => byteAt r (vb + j),
    s2 := (List.range (ceilDiv g 16)).map fun b => leAt r (vb + g + 4 * b) 4, st := 0, side := [] }

/-- FP16 values of a query or of an entry's refine data. -/
def fp16s (bs : Bytes) (dim : Nat) : List Num := (List.range dim).map fun i => (decodeNum 0xB false (leAt bs (2 * i) 2)).1

/-- A vector of FP16 values encoded to a refine format (R117, R225), as a row and as a record's bytes. -/
def encodeRefine (fmt group dim : Nat) (bs : Bytes) : Row × FlagN :=
  let (e, f) := encodeRow (refineElem fmt) false 1 group num0 (fp16s bs dim)
  ({ fmt := refineElem fmt, u := false, layout := 1, g := group, codes := e.codes, s1 := e.s1, s2 := e.s2, st := 0, side := [] }, f)

/-- A refine row as the bytes of a record of `n` bytes. -/
def refineOut (r : Row) (n : Nat) : Bytes :=
  padTo n (packRow r.fmt r.codes ++ r.s1.flatMap (natLE 1) ++ r.s2.flatMap (natLE 4))

end Sys2Proof.Machine
end

