-- ==== Sys2Proof/Machine/Search.lean ====
section
/-!
DEFINITION. SEARCH, SEARCH_X and SEARCH_SHARD (Tables 3.13 to 3.17, R119 to R127): parameters, validation, fan-out, the
start and end of shard walks, refine, selection, the merge and the reply.
-/

namespace Sys2Proof.Machine

/-! ### Parameters -/

/-- A search block with every field resolved (Tables 3.14 and 3.15, R121). -/
structure SearchArgs where
  coll : Nat
  k : Nat
  options : Nat
  place : Nat
  beam : Nat
  depth : Nat
  width : Nat
  metric : Nat
  maxExpand : Nat
  batchWin : Nat
  pageWin : Nat
  entryBeam : Nat
  one : Bool
  shard : Nat
  perK : Nat
  maxFrames : Nat
  entries : List (Nat × Nat)
  replica : Nat
  query : Bytes
  qrefine : Bytes
  deriving DecidableEq, Repr

def SearchArgs.refine (a : SearchArgs) : Bool := nbit a.options 0
def SearchArgs.payload (a : SearchArgs) : Bool := nbit a.options 1
def SearchArgs.partialOk (a : SearchArgs) : Bool := nbit a.options 2

/-- A value, or the descriptor's where it is 0. -/
def orElse0 (v d : Nat) : Nat := if v = 0 then d else v

/-- The block of the opcode as a SEARCH_X block: SEARCH lacks the fields from byte 5 to 31, SEARCH_SHARD puts 16 bytes
before it. -/
def searchBlock (opcode : Nat) (params : Bytes) : Bytes :=
  if opcode = 0x0301 then params.take 5 ++ zeros 27 ++ params.drop 8
  else if opcode = 0x0303 then params.drop 16 else params

/-- The packet offset of the search block of an opcode. -/
def searchOff (opcode : Nat) : Nat := if opcode = 0x0303 then 80 else 64

/-- The arguments under a descriptor. -/
def searchArgs (d : Bytes) (b : Bytes) : SearchArgs :=
  let n := byteAt b 26
  let l := dCodeBytes d
  let opt := byteAt b 4
  let nb := nbit opt 3
  { coll := leAt b 0 2, k := leAt b 2 2, options := opt, place := byteAt b 5, beam := orElse0 (leAt b 6 2) (dBeam d),
    depth := orElse0 (leAt b 8 2) (dDepth d), width := orElse0 (byteAt b 10) (dWidth d),
    metric := orElse0 (byteAt b 11) (dMetric d), maxExpand := orElse0 (leAt b 12 2) (dMaxExpand d),
    batchWin := if nb then 0 else orElse0 (leAt b 14 2) (dBatchWin d),
    pageWin := if nb then 0 else orElse0 (leAt b 16 2) (dPageWin d),
    entryBeam := orElse0 (leAt b 18 2) (dEntryBeam d), one := nbit (leAt b 20 2) 15, shard := leAt b 20 2 % 4096,
    perK := orElse0 (leAt b 22 2) (leAt b 2 2), maxFrames := orElse0 (leAt b 24 2) (dMaxFrames d),
    entries := (List.range n).map fun i => (leAt b (32 + 8 * i) 5, byteAt b (37 + 8 * i)),
    replica := byteAt b 27, query := (b.drop (32 + 8 * n)).take l,
    qrefine := if nbit opt 0 then (b.drop (32 + 8 * n + l)).take (2 * dDim d) else [] }

/-- A search block written out with the coordinator's values, for one shard (Table 3.16). -/
def searchBytes (a : SearchArgs) (shard : Nat) : Bytes :=
  natLE 2 a.coll ++ natLE 2 a.k ++ natLE 1 a.options ++ natLE 1 a.place ++ natLE 2 a.beam ++ natLE 2 a.depth ++
  natLE 1 a.width ++ natLE 1 a.metric ++ natLE 2 a.maxExpand ++ natLE 2 a.batchWin ++ natLE 2 a.pageWin ++
  natLE 2 a.entryBeam ++ natLE 2 (0x8000 + shard) ++ natLE 2 a.perK ++ natLE 2 a.maxFrames ++ natLE 1 a.entries.length ++
  natLE 1 a.replica ++ zeros 4 ++ a.entries.flatMap (fun e => natLE 5 e.1 ++ natLE 1 e.2 ++ zeros 2) ++ a.query ++ a.qrefine

/-- The descriptor of an open collection of a tenant, by a command's COLL_ID at a parameter offset. -/
def openDesc (s : State) (c : Cmd) (off : Nat) : Option Bytes :=
  let id := leAt c.params off 2
  if collOpen s id c.tenant && !(utReserved s id) then (collOf s id).map (·.desc) else none

/-- The descriptor of a collection bound to a command's tenant and not closing, open or not (R90, R95): what the commands of class
0x04 ask for (R128). -/
def tenantDesc (s : State) (c : Cmd) (off : Nat) : Option Bytes :=
  match collOf s (leAt c.params off 2) with
  | some x => if x.tenant = c.tenant ∧ x.state ≠ 2 ∧ utReserved s x.id = false then some x.desc else none
  | none => none

/-- A collection with the settings and map that take effect at the next Bell (R94). -/
def Coll.coming (x : Coll) : Coll :=
  { x with desc := x.tuned.getD x.desc, map := x.mapNext.foldl (fun m e => aset m e.1 e.2) x.map }

/-- The state as a command accepted now will find it at its admission, as far as collections go: what it takes and sends at
acceptance is resolved under that (R94, R122). -/
def coming (s : State) : State := { s with sys := { s.sys with colls := s.sys.colls.map (·.coming) } }

/-- The byte of a command's parameters at which COLL_ID stands. -/
def searchColl (c : Cmd) : Nat := if c.opcode = 0x0303 then 16 else 0

/-- Whether a map entry exists for a shard, and what it says. -/
def mapOf (s : State) (coll shard : Nat) : Option Word :=
  match collOf s coll with
  | some c => aget c.map shard
  | none => none

/-- The home a search goes to: the partner for REPLICA 2, or for REPLICA 0 with the primary down; else the primary (R122). -/
def searchHome (replica : Nat) (w : Word) : Nat × Nat :=
  if replica = 2 ∨ (replica = 0 ∧ mDown w) then (mPartnerPart w, mPartnerPartition w) else (mPart w, mPartition w)

/-- The shards a search visits. -/
def searchShards (d : Bytes) (a : SearchArgs) : List Nat := if a.one then [a.shard] else List.range (dShards d)

/-! ### Validation -/

/-- The length of the fixed part: SEARCH 8 + L, SEARCH_X 32 + 8 × ENTRY_N + L, plus 2d with REFINE; without the descriptor
of an open collection only the part before the query. -/
def searchLen (s : State) (c : Cmd) : Nat :=
  let head := if c.opcode = 0x0301 then 8 else if c.opcode = 0x0302 then 32 else 48
  let b := searchBlock c.opcode c.params
  match openDesc s c (searchColl c) with
  | some d => head + 8 * byteAt b 26 + dCodeBytes d + (if nbit (byteAt b 4) 0 then 2 * dDim d else 0)
  | none => head

/-- Step 6 of a search: ranges of Table 3.15, reserved bits, then the cases of R120; those that need the descriptor or the
map only for a collection found open. -/
def searchRange (s : State) (c : Cmd) : Option Nat :=
  let b := searchBlock c.opcode c.params
  let o := searchOff c.opcode
  let x (off : Nat) : Nat := if c.opcode = 0x0301 then 64 + off else o + off
  let opt := byteAt b 4
  let reserved := if c.opcode = 0x0301 then leAt c.params 5 3 ≠ 0 else leAt b 28 4 ≠ 0
  let plain := firstBad [
    (c.opcode = 0x0303 && leAt c.params 8 8 != 0, 72),
    (256 < leAt b 2 2, x 2),
    (16 ≤ opt || (c.opcode == 0x0301 && nbit opt 3), x 4),
    (c.opcode == 0x0301 && decide reserved, 69),
    (1 < byteAt b 5, x 5), (256 < leAt b 6 2, x 6), (256 < leAt b 8 2, x 8), (16 < byteAt b 10, x 10),
    (2 < byteAt b 11, x 11), (256 < leAt b 18 2, x 18), (nfld (leAt b 20 2) 14 12 != 0, x 20), (256 < leAt b 22 2, x 22),
    (32 < byteAt b 26, x 26), (2 < byteAt b 27, x 27),
    (c.opcode != 0x0301 && decide reserved, x 28)]
  match plain with
  | some d => some d
  | none =>
    let a0 := searchArgs [] b
    match openDesc s c (searchColl c) with
    | none => firstBad [(decide (0 < byteAt b 26) && !a0.one, x 26)]
    | some d =>
      let a := searchArgs d b
      let maps := (searchShards d a).map fun i => mapOf s a.coll i
      firstBad ([
        (decide (a.beam < a.k), x 2),
        (a.refine && dRefineFmt d == 0, x 4),
        (a.refine && decide (a.depth < a.k), x 2), (a.refine && decide (a.beam < a.depth), x 8),
        (decide (a.beam < a.perK), x 22),
        (a.entries != [] && !a.one, x 26)] ++
        (if c.opcode = 0x0303 then [(!a.one || decide (dShards d ≤ a.shard), x 20)]
         else [
          (maps.any (·.isNone), x 20),
          (a.replica == 2 && maps.any (fun w => match w with | some w => !(mPartnerValid w) | none => false), x 27),
          (a.replica == 1 && maps.any (fun w => match w with | some w => mDown w | none => false), x 27)]))

/-- Whether a partition holds the record of a shard. -/
def holdsShard (s : State) (p : Fin 4) (coll shard : Nat) : Bool := (shardOf s p coll shard).isSome

/-- The entries of the result block: K, or PER_SHARD_K for a share (R127). -/
def searchK (a : SearchArgs) (opcode : Nat) : Nat := if opcode = 0x0303 then a.perK else a.k

/-- The body of a search: the result block and 32 bytes of walk summary. -/
def searchBody (s : State) (c : Cmd) : Nat :=
  match openDesc s c (searchColl c) with
  | some d => let a := searchArgs d (searchBlock c.opcode c.params); blockSize (searchK a c.opcode) a.payload + 32
  | none => 0

/-- Whether a search chooses its best by a higher score: refine with METRIC 1. -/
def searchDir (a : SearchArgs) : Bool := a.refine && a.metric == 1

/-- The result of a search with K = 0: an empty block and a summary of zeros (R182). -/
def searchEmpty (dirHigh payload : Bool) (k : Nat) : Bytes :=
  blockOut { k, dirHigh, payload, massExp := false, trunc := false, dups := 0, tied := 0, presented := 0, sel := 0,
             left := 0, ref := 0, nonfinite := 0, entries := [] } ++ zeros 32

/-- Step 10 of a search. -/
def searchZero (s : State) (c : Cmd) : Option Bytes :=
  match openDesc s c (searchColl c) with
  | some d =>
    let a := searchArgs d (searchBlock c.opcode c.params)
    if searchK a c.opcode = 0 then some (searchEmpty (searchDir a) a.payload 0) else none
  | none => none

/-- The pieces of a search: one per shard visited, at its home; a share walks its one shard here. -/
def searchPieces (s : State) (p : Fin 4) (c : Cmd) (d : Bytes) (a : SearchArgs) : List Piece :=
  if c.opcode = 0x0303 then [match movedTo s p a.coll a.shard with
    | some h => mkPiece s p a.shard h.1 h.2 [] (blockSize a.perK a.payload + 32)
    | none => { mkPiece s p a.shard (partId s) p.val [] 0 with loc := true }]
  else (searchShards d a).map fun i =>
    let h := searchHome a.replica ((mapOf s a.coll i).getD 0)
    mkPiece s p i h.1 h.2 [] (blockSize a.perK a.payload + 32)

/-- Whether the comparisons of an own walk run on the partition's hub lanes: SIEVE_PLACE 1, or a shard in the Pantry
(Table 3.10). -/
def searchHub (s : State) (p : Fin 4) (a : SearchArgs) (x : Piece) : Bool :=
  x.loc && (a.place == 1 || match shardOf s p a.coll x.unit with | some h => rPlacement h.cur == 2 | none => false)

/-- Step 7 of a search: the collection open under its tenant (R119), a share's shard held here, and a hub Sieve lane group
bound to the tenant where an own walk needs one (R485, R487). -/
def searchBound (s : State) (p : Fin 4) (c : Cmd) : Bool :=
  match openDesc s c (searchColl c) with
  | none => false
  | some d =>
    let a := searchArgs d (searchBlock c.opcode c.params)
    (c.opcode != 0x0303 || holdsShard s p (leAt c.params 16 2) a.shard) &&
      (searchK a c.opcode == 0 || lanesServe s p c.tenant || !((searchPieces s p c d a).any (searchHub s p a)))

/-- Slots the command's own walks take. -/
def searchSlots (d : Bytes) (a : SearchArgs) (ps : List Piece) : Nat :=
  ps.countP (·.loc) * slotsFor a.beam (dCodeBytes d)

/-- Step 9 of a search: walk contexts (0x0301) and fan-out records (0x0302); a tenant with no walk-context block of the
partition gets the first (R112, R485). -/
def searchPool (s : State) (p : Fin 4) (c : Cmd) : Option Nat :=
  let s := coming s
  match openDesc s c (searchColl c) with
  | none => none
  | some d =>
    let a := searchArgs d (searchBlock c.opcode c.params)
    let ps := searchPieces s p c d a
    if searchK a c.opcode = 0 then none
    else if (takeSlots s p c.tenant (searchSlots d a ps)).isNone then some 0x0301
    else if (layReplies ps (recordsUsed (psys s p)) none).isNone then some 0x0302
    else none

/-- SEARCH (0x0301). -/
def specSearch : OpSpec :=
  { len := fun s _ c => searchLen s c, range := fun s _ c => searchRange s c, bound := searchBound,
    body := fun s _ c => searchBody s c, pool := searchPool, zero := fun s _ c => searchZero s c }

/-- SEARCH_X (0x0302). -/
def specSearchX : OpSpec := specSearch

/-- SEARCH_SHARD (0x0303): for Stewards alone. -/
def specSearchShard : OpSpec := { specSearch with permit := stewardOnly }

/-! ### Acceptance and admission -/

/-- The arguments of a search under the descriptor it was last resolved under. -/
def Cmd.search (c : Cmd) : SearchArgs := searchArgs c.desc (searchBlock c.opcode c.params)

/-- The shares of a search sent to the homes that are not this partition (R122). -/
def searchSend (p : Fin 4) (ref : Nat) : Upd :=
  .read fun s =>
    match cmdOf s p ref with
    | none => .skip
    | some c =>
        let a := c.search
        .each (c.pieces.filter fun x => !x.loc && !x.sent && x.done.isNone) fun x =>
          sendShare p ref x 0x0303 0 (searchBytes a x.unit) (blockSize a.perK a.payload + 32)

/-- A search accepted: slots and records taken, shares sent unless FENCE holds them (R112, R122). -/
def searchAccept (p : Fin 4) (ref : Nat) : Upd :=
  .read fun s =>
    let s := coming s
    match cmdOf s p ref with
    | none => .skip
    | some c => match openDesc s c (searchColl c) with
      | none => .skip
      | some d =>
        let a := searchArgs d (searchBlock c.opcode c.params)
        let ps := searchPieces s p c d a
        .seq [cmdMod p ref fun c => { c with
            desc := d
            slots := (takeSlots s p c.tenant (searchSlots d a ps)).getD []
            pieces := (layReplies ps (recordsUsed (psys s p)) none).getD ps },
          .when (!c.hasFence) (searchSend p ref)]

/-- The walk of one of a command's own shards, made queued (Table 3.12). -/
def searchWalk (s : State) (p : Fin 4) (c : Cmd) (d : Bytes) (a : SearchArgs) (shard : Nat) (slots : List Nat) : Option Walk :=
  match shardOf s p a.coll shard with
  | none => none
  | some h => some {
      id := slots.headD 0, why := .search, ref := c.ref, state := .queued, spot := .steward, started := false, cls := c.cls,
      tenant := c.tenant, coll := a.coll, shard, rcd := h.cur, shelf := h.shelf, width := a.width, beam := a.beam,
      maxExpand := a.maxExpand, maxFrames := a.maxFrames, entryBeam := a.entryBeam, batchWin := a.batchWin,
      pageWin := a.pageWin, hub := a.place == 1, seeds := a.entries, query := a.query, queue := [], filter := [],
      flight := [], layer := none, stop := 0, accFrame := c.accFrame, admFrame := 0, slots, expansions := 0,
      compared := 0, suppressed := 0, stale := 0, transit := 0, parks := 0, degree := dDegree d,
      codeBytes := dCodeBytes d, refine := a.refine, refineDepth := a.depth, refineFmt := dRefineFmt d,
      refineGroup := dGroup d, refineDim := dDim d, metric := a.metric, k := a.perK, payload := a.payload,
      qrefine := a.qrefine }

/-- The home of a search's piece now: where its shard has moved, else as the map in force gives (R94, R122). -/
def searchHomeNow (p : Fin 4) (c : Cmd) (a : SearchArgs) (s : State) (x : Piece) : Option (Nat × Nat) :=
  match (if x.loc then movedTo s p a.coll x.unit else none) with
  | some h => some h
  | none => if c.opcode = 0x0303 then none else (mapOf s a.coll x.unit).map (searchHome a.replica)

/-- The walk-context slots of a command taken anew where the walks it runs itself need another number of them; where the pool has too
few, its own pieces end with RETRY. -/
def retakeSlots (p : Fin 4) (ref : Nat) (need : Cmd → Nat) : Upd :=
  .read fun s => match cmdOf s p ref with
    | none => .skip
    | some c =>
      if need c = c.slots.length then .skip
      else .seq [cmdMod p ref fun c => { c with slots := [] },
        .read fun s => match takeSlots s p c.tenant (need c) with
          | some l => cmdMod p ref fun c => { c with slots := l }
          | none => .each (c.pieces.filter (·.loc)) fun x => pieceDone p ref x.unit ⟨stRetry, 0x0301, 0, []⟩]

/-- A search resolved again at its admission: settings and homes of the pieces not yet sent as then in force (R94), and slots for
the walks of its own shards; where the pool has too few, those shards end with RETRY. -/
def searchResolve (p : Fin 4) (ref : Nat) : Upd :=
  .read fun s =>
    match cmdOf s p ref with
    | none => .skip
    | some c => match openDesc s c (searchColl c) with
      | none => .skip
      | some d =>
        let a := searchArgs d (searchBlock c.opcode c.params)
        .seq [cmdMod p ref fun c => { c with desc := d },
          rehome p ref (searchHomeNow p c a) (fun _ => blockSize a.perK a.payload + 32),
          retakeSlots p ref fun c => searchSlots d a c.pieces]

/-- The admission of a search at a Bell: fenced shares sent, the walks of its own shards queued; a shard whose record is
not held ends at once with NOT_BOUND (R119). -/
def searchAdmit (p : Fin 4) (ref : Nat) : Upd :=
  .seq [searchResolve p ref, searchSend p ref,
    .read fun s =>
      match cmdOf s p ref with
      | none => .skip
      | some c =>
          let a := c.search
          let n := slotsFor a.beam (dCodeBytes c.desc)
          .seq [.each (c.pieces.filter fun x => x.loc && x.done.isNone) fun x =>
              .read fun s =>
                match cmdOf s p ref with
                | none => .skip
                | some c => match searchWalk s p c c.desc a x.unit (c.slots.take n) with
                  | some w => .seq [.part p fun y => { y with walks := y.walks ++ [w] },
                      cmdMod p ref fun c => { c with slots := c.slots.drop n }]
                  | none => .seq [cmdMod p ref fun c => { c with slots := c.slots.drop n },
                      pieceDone p ref x.unit ⟨stNotBound, 0, 0, []⟩],
            cmdMod p ref fun c => { c with slots := [] }, placeWalks p]]

/-! ### The reply -/

/-- A walk summary (Table 3.17). -/
structure Summary where
  expansions : Nat
  compared : Nat
  suppressed : Nat
  stale : Nat
  transit : Nat
  missing : Nat
  stop : Nat
  parks : Nat
  frames : Nat
  admFr : Nat
  deriving DecidableEq, Repr

/-- The bytes of a summary. -/
def summaryOut (x : Summary) : Bytes :=
  natLE 4 x.expansions ++ natLE 4 x.compared ++ natLE 4 x.suppressed ++ natLE 4 x.stale ++ natLE 2 (min x.transit 0xFFFF) ++
  natLE 2 x.missing ++ natLE 1 x.stop ++ natLE 1 (min x.parks 255) ++ natLE 2 (min x.frames 0xFFFF) ++ natLE 6 x.admFr ++ zeros 2

/-- A summary read from its bytes. -/
def summaryIn (b : Bytes) : Summary :=
  ⟨leAt b 0 4, leAt b 4 4, leAt b 8 4, leAt b 12 4, leAt b 16 2, leAt b 18 2, byteAt b 20, byteAt b 21, leAt b 22 2,
   leAt b 24 6⟩

/-- Summaries of several shards together: sums, the largest stop reason, the earliest admission; where none is known, the command's
own admission frame (R122, log entry 68). -/
def summarySum (now own missing : Nat) (l : List Summary) : Summary :=
  let sum (f : Summary → Nat) : Nat := (l.map f).sum
  let adm := match l with | [] => own | x :: r => (r.map (·.admFr)).foldl min x.admFr
  { expansions := sum (·.expansions), compared := sum (·.compared), suppressed := sum (·.suppressed),
    stale := sum (·.stale), transit := sum (·.transit), missing, stop := (l.map (·.stop)).foldl max 0,
    parks := sum (·.parks), frames := now - adm + 1, admFr := adm }

/-- The summary of one walk, as it ends. -/
def walkSummary (now : Nat) (w : Walk) : Summary :=
  { expansions := w.expansions, compared := w.compared, suppressed := w.suppressed, stale := w.stale, transit := w.transit,
    missing := 0, stop := w.stop, parks := w.parks, frames := now - w.admFrame + 1, admFr := w.admFrame }

/-- The walks of a command that end with it. -/
def dropWalks (p : Fin 4) (ref : Nat) : Upd :=
  .read fun s => .each ((psys s p).walks.filter (·.ref == ref)) fun w => walkDrop p w.id

/-- A coordinated search over: the merge of its shards' lists, or the first failing status (R124, R125, R190); lists that
differ in direction or mass mode are refused with BAD_PARAM (R189). -/
def searchPost (p : Fin 4) (ref : Nat) : Upd :=
  .read fun s =>
    match cmdOf s p ref with
    | none => .skip
    | some c =>
        let a := c.search
        let good := c.pieces.filterMap fun x => match x.done with
          | some r => if statusFails r.status then none else some r.body
          | none => none
        match (if a.partialOk && c.opcode != 0x0303 then none else worstPiece c) with
        | some x =>
          let n := c.pieces.countP fun y => y.done.map (·.status) == x.done.map (·.status)
          .seq [dropWalks p ref, postPieceStatus p c x n]
        | none =>
          let seed := opKey s.sys.free
          let lists := good.map blockIn
          let merged := if c.opcode = 0x0303 then (lists.headD (blockIn []), FlagN.none)
            else mergeBlocks seed (searchDir a) a.payload false false 0 a.k lists
          let sum := summarySum (frameNow s) c.admFrame (c.pieces.length - good.length)
            (good.map fun b => summaryIn (b.drop (b.length - 32)))
          let body := blockOut merged.1 ++ summaryOut sum
          if c.opcode != 0x0303 && !(mergeable lists) then .seq [dropWalks p ref, postReply p c stBadParam 0 []]
          else .seq [.sys fun y => { y with free := y.free + 1 }, raiseFlags p merged.2, dropWalks p ref,
            postReply p c (if merged.1.entries.length < searchK a c.opcode then stShort else stOk) 0 body]

/-- A search ended when its last piece is done. -/
def searchCheck (p : Fin 4) (ref : Nat) : Upd :=
  .read fun s =>
    match cmdOf s p ref with
    | some c => .when (allDone c && c.pieces != []) (searchPost p ref)
    | none => .skip

/-! ### The end of a walk (R107, R116) -/

/-- An entry of the Sorter for a candidate: generation from its tag, PAYLOAD from its node record's header; the bytes of both are taken
as good whatever poison lies there (DESIGN CHOICE, log entry 106). -/
def walkEntry (s : State) (w : Walk) (u : Nat) (score : BitVec 32) : Entry :=
  { score, node := u, gen := (tagOf s w.rcd w.codeBytes u).gen, coll := w.coll, shard := w.shard,
    payload := if w.payload then some (memLE s (nodeAddr w.rcd w.degree w.codeBytes u + 16) 8) else none }

/-- A distance as FP32, exactly (R168). -/
def distF32 (d : Nat) : BitVec 32 := BitVec.ofNat 32 (toF32 (.fin false d 0)).1

/-- Whether a selection gives a higher score the better place. -/
def walkDir (w : Walk) : Bool := w.refine && w.metric == 1

/-- The result of a walk's selection: its block and summary, as a piece of its command. -/
def walkResult (p : Fin 4) (w : Walk) (row : List Entry) : Upd :=
  .read fun s =>
    let b := selectBlock (opKey s.sys.free) (walkDir w) false w.payload false 0 w.k row
    let body := blockOut b.1 ++ summaryOut (walkSummary (frameNow s) w)
    .seq [.sys fun y => { y with free := y.free + 1 }, raiseFlags p b.2, walkDrop p w.id,
      pieceDone p w.ref w.shard ⟨if b.1.entries.length < w.k then stShort else stOk, 0, 0, body⟩, searchCheck p w.ref]

/-- A row handed to the Sorter; an empty row's block is written at once. -/
def sendRow (p : Fin 4) (w : Walk) (row : List Entry) : Upd :=
  if row = [] then walkResult p w []
  else .part p fun y => { y with
    walks := y.walks.map fun v => if v.id = w.id then { v with state := .finishing } else v,
    sels := (placeBlocks { y with sels := y.sels ++ [⟨w.id, w.id, w.cls, walkDir w, w.k, w.payload, row, [], false, []⟩] }).sels }

/-- A search walk over: to refine, or its non-transit entries to the Sorter (R116). -/
def searchFinish (p : Fin 4) (id : Nat) : Upd :=
  .read fun s =>
    match walkOf s p id with
    | none => .skip
    | some w =>
      if w.refine then walkMod p id fun w => { w with state := .finishing, flight := [] }
      else sendRow p { w with state := .finishing } ((w.queue.filter (!·.transit)).map fun c => walkEntry s w c.node (distF32 c.dist))

/-- A search walk that ends with a status and no result. -/
def walkFail (p : Fin 4) (w : Walk) (status faultRef : Nat) : Upd :=
  .seq [walkDrop p w.id, pieceDone p w.ref w.shard ⟨status, 0, faultRef, []⟩, searchCheck p w.ref]

/-! ### Refine (R116, R117, R600) -/

/-- The refine record of a candidate: its address and bytes. -/
def refineBytesOf (w : Walk) : Nat := refineRecBytes w.refineFmt w.refineGroup w.refineDim

/-- Whether a walk's refine work is due. -/
def refineDue (y : PSys) (w : Walk) : Bool := w.refine && w.state == .finishing && w.why == .search && !(y.sels.any (·.walk == w.id))

/-- A finishing walk refined: its refine-depth best non-transit entries scored against the query vector; one whose record
reads as poison is left out and counts in STALE. The row goes to the Sorter. -/
def refineWalk (p : Fin 4) (id : Nat) : Upd :=
  .read fun s =>
    match walkOf s p id with
    | none => .skip
    | some w =>
      if !(refineDue (psys s p) w) then .skip
      else
        let n := refineBytesOf w
        let (q, f) := encodeRefine w.refineFmt w.refineGroup w.refineDim w.qrefine
        let cands := (w.queue.filter (!·.transit)).take w.refineDepth
        let bad := cands.filter fun c => (poisonIn s (refineAddr w.rcd n c.node) n).isSome
        let good := cands.filter fun c => (poisonIn s (refineAddr w.rcd n c.node) n).isNone
        let scored := (indexed good).map fun x =>
          let r := refineRow w.refineFmt w.refineGroup w.refineDim (memBytes s (refineAddr w.rcd n x.2.node) n)
          let key := opKey s.sys.free + x.1 * 2 ^ 44
          (x.2, if w.metric = 1 then dotRows key q r else l2Rows key q r)
        let row := scored.map fun x => walkEntry s w x.1.node (BitVec.ofNat 32 x.2.1)
        let flags := scored.foldl (fun a x => a.add x.2.2) f
        let w' := { w with stale := w.stale + bad.length }
        if good.any (fun c => !(cellHolds s w.tenant (unalias s (refineAddr w.rcd n c.node)))) then
          .seq [memErr .unmapped p (sourceCode .mill) (refineAddr w.rcd n ((good.headD ⟨0, 0, false, false⟩).node)),
            walkFail p w stNotBound 0]
        else
          .seq [.sys fun y => { y with free := y.free + 1 },
            .each bad (fun c => match poisonIn s (refineAddr w.rcd n c.node) n with
              | some l => memErr .poison p (sourceCode .mill) l | none => .skip),
            .each good (fun c => chargeRead s w.tenant (refineAddr w.rcd n c.node) n),
            raiseFlags p flags, walkMod p id (fun _ => w'), sendRow p w' row]

end Sys2Proof.Machine
end

