-- ==== Sys2Proof/Machine/Update.lean ====
section
/-!
DEFINITION. Update commands (chapter 4): parameters and validation, shares and their homes, staging of INSERT, DELETE and
REPLACE entries, the end of an insert walk, commit, the delta list, parked updates, and the reply.
-/

namespace Sys2Proof.Machine

/-! ### Parameters (Tables 4.2 to 4.5) -/

/-- One entry of an update command: target (or none for an insert), PAYLOAD, code and refine data as given. -/
structure UpdIn where
  word : Nat
  payload : Bytes
  code : Bytes
  refine : Bytes
  raw : Bytes
  deriving DecidableEq, Repr

/-- An update block read under a descriptor. -/
structure UpdArgs where
  opcode : Nat
  coll : Nat
  shard : Nat
  n : Nat
  refineIn : Nat
  fields : Nat
  usn : Nat
  entries : List UpdIn
  deriving DecidableEq, Repr

/-- The original opcode of an UPDATE_SHARD's block, from its shape: FIELDS in byte 5 is never 0 in a REPLACE, N in bytes 4
and 5 of an INSERT is 1 to 64, and both bytes are 0 in a DELETE. -/
def shapeOpcode (b : Bytes) : Nat := if byteAt b 5 ≠ 0 then 0x0403 else if byteAt b 4 ≠ 0 then 0x0401 else 0x0402

/-- Bytes of refine data per entry for a REFINE_IN. -/
def refineInBytes (d : Bytes) (ri : Nat) : Nat :=
  if ri = 1 then 2 * dDim d else if ri = 2 then refineRecBytes (dRefineFmt d) (dGroup d) (dDim d) else 0

/-- Bytes of one entry of an update block. -/
def updEntryBytes (d : Bytes) (opcode refineIn fields : Nat) : Nat :=
  if opcode = 0x0402 then 8
  else if opcode = 0x0401 then roundUp (8 + dCodeBytes d + refineInBytes d refineIn) 8
  else roundUp (8 + (if nbit fields 2 then 8 else 0) + (if nbit fields 0 then dCodeBytes d else 0) +
    (if nbit fields 1 then refineInBytes d refineIn else 0)) 8

/-- An update block's fields and entries. -/
def updArgs (d : Bytes) (opcode : Nat) (b : Bytes) : UpdArgs :=
  let ins := opcode == 0x0401
  let n := if ins then leAt b 4 2 else leAt b 2 2
  let ri := if ins then byteAt b 6 else if opcode = 0x0403 then byteAt b 4 else 0
  let fields := if opcode = 0x0403 then byteAt b 5 % 8 else if ins then 7 else 0
  let sz := updEntryBytes d opcode ri fields
  let l := dCodeBytes d
  { opcode, coll := leAt b 0 2, shard := if ins then leAt b 2 2 else 0xFFFF, n, refineIn := ri, fields, usn := leAt b 8 8,
    entries := (List.range n).map fun i =>
      let e := (b.drop (16 + i * sz)).take sz
      if opcode = 0x0402 then ⟨leAt e 0 8, [], [], [], e⟩
      else if ins then ⟨0, e.take 8, (e.drop 8).take l, (e.drop (8 + l)).take (refineInBytes d ri), e⟩
      else
        let p := if nbit fields 2 then 8 else 0
        let c := if nbit fields 0 then l else 0
        ⟨leAt e 0 8, (e.drop 8).take p, (e.drop (8 + p)).take c,
         if nbit fields 1 then (e.drop (8 + p + c)).take (refineInBytes d ri) else [], e⟩ }

/-- The target word's fields (Table 4.4). -/
def wordShard (w : Nat) : Nat := nfld w 59 48
def wordGen (w : Nat) : Nat := nfld w 47 40
def wordNode (w : Nat) : Nat := nfld w 39 0

/-- An update command's block: UPDATE_SHARD puts 16 bytes before it. -/
def updBlock (c : Cmd) : Bytes := if c.opcode = 0x0404 then c.params.drop 16 else c.params

/-- The opcode an update command's block has. -/
def updOpcode (c : Cmd) : Nat := if c.opcode = 0x0404 then shapeOpcode (updBlock c) else c.opcode

/-- The packet offset of the block of an update command, and the parameter offset of its COLL_ID. -/
def updOff (c : Cmd) : Nat := if c.opcode = 0x0404 then 80 else 64
def updColl (c : Cmd) : Nat := if c.opcode = 0x0404 then 16 else 0

/-- The arguments of a command, for a collection of its tenant; of an UPDATE_SHARD, for one open here (R132). -/
def updOf (s : State) (c : Cmd) : Option (Bytes × UpdArgs) :=
  (if c.opcode = 0x0404 then openDesc s c (updColl c) else tenantDesc s c (updColl c)).map fun d => (d, updArgs d (updOpcode c) (updBlock c))

/-- The length its fields give (R131). -/
def updLen (s : State) (c : Cmd) : Nat :=
  let head := if c.opcode = 0x0404 then 32 else 16
  match updOf s c with
  | some (d, a) => head + a.n * updEntryBytes d a.opcode a.refineIn a.fields
  | none => head

/-- Where updates of a shard go: the primary, or the partner that acts as home while PRIMARY_DOWN is set (R528). -/
def updHome (w : Word) : Nat × Nat :=
  if mDown w && mPartnerValid w then (mPartnerPart w, mPartnerPartition w) else (mPart w, mPartition w)

/-- The shard that takes an INSERT with SHARD 0xFFFF (R130). -/
def chooseShard (s : State) (p : Fin 4) (d : Bytes) (coll : Nat) : Option Nat :=
  let up := (List.range (dShards d)).filter fun i => match mapOf s coll i with
    | some w => !(mDown w) && !(mCellar w) | none => false
  let here := up.filter fun i => match mapOf s coll i with
    | some w => mPart w == partId s && mPartition w == p.val | none => false
  let freeOf (i : Nat) : Nat := match shardOf s p coll i with | some h => h.free.length | none => 0
  match here.foldl (fun (a : Option Nat) i => match a with
      | none => some i | some j => if freeOf j < freeOf i then some i else a) none with
  | some i => some i
  | none => up.head?

/-- Step 6 of an update command (R130 to R132). -/
def updRange (s : State) (p : Fin 4) (c : Cmd) : Option Nat :=
  let b := updBlock c
  let o := updOff c
  let op := updOpcode c
  let ins := op == 0x0401
  let n := if ins then leAt b 4 2 else leAt b 2 2
  let ri := if ins then byteAt b 6 else byteAt b 4
  let pos (tag : Nat) : Nat := extPos tag c.params 512 (roundUp (updLen s c) 8)
  let ext : List (Bool × Nat) := if ins then
      [(decide (256 < extVal c 1 1) || extVal c 1 1 == 0, pos 1), (decide (1 < extVal c 2 0), pos 2)] else []
  let plain := firstBad ([
    (c.opcode == 0x0404 && leAt c.params 8 8 != 0, 72),
    (decide ((if op = 0x0402 then 510 else 64) < n), if ins then o + 4 else o + 2),
    (op != 0x0402 && decide (2 < ri), if ins then o + 6 else o + 4),
    (op == 0x0403 && byteAt b 5 % 8 == 0, o + 5)] ++ ext)
  match plain with
  | some x => some x
  | none => match updOf s c with
    | none => none
    | some (d, a) => firstBad ([
        (a.opcode != 0x0402 && dRefineFmt d == 0 && a.refineIn != 0, if ins then o + 6 else o + 4),
        (a.opcode == 0x0401 && dRefineFmt d != 0 && a.refineIn == 0, o + 6),
        (a.opcode == 0x0403 && nbit a.fields 1 && dRefineFmt d != 0 && a.refineIn == 0, o + 4),
        (ins && decide (dDegree d < extVal c 3 (dDegree d)), pos 3),
        (ins && c.opcode != 0x0404 && a.shard == 0xFFFF && (chooseShard s p d a.coll).isNone, 66),
        (ins && a.shard != 0xFFFF && decide (dShards d ≤ a.shard), o + 2)] ++
        (indexed a.entries).map fun e =>
          (!ins && e.2.word / 2 ^ 60 != 0,
           o + 16 + e.1 * updEntryBytes d a.opcode a.refineIn a.fields))

/-- The shards an update command names, each with its entries' indices in order. -/
def updShards (s : State) (p : Fin 4) (d : Bytes) (a : UpdArgs) : List (Nat × List Nat) :=
  if a.opcode = 0x0401 then
    let i := if a.shard = 0xFFFF then (chooseShard s p d a.coll).getD 0 else a.shard
    [(i, List.range a.n)]
  else
    let shards := (a.entries.map fun e => wordShard e.word).eraseDups
    shards.map fun h => (h, (indexed a.entries).filterMap fun x => if wordShard x.2.word = h then some x.1 else none)

/-- The pieces of an update command: one per home shard; a share has one piece, here. Entries whose shard has no map entry
have no home. -/
def updPieces (s : State) (p : Fin 4) (c : Cmd) (d : Bytes) (a : UpdArgs) : List Piece :=
  if c.opcode = 0x0404 then (updShards s p d a).map fun x => match movedTo s p a.coll x.1 with
    | some h => mkPiece s p x.1 h.1 h.2 x.2 (16 * x.2.length)
    | none => { mkPiece s p x.1 (partId s) p.val x.2 0 with loc := true }
  else (updShards s p d a).filterMap fun x => (mapOf s a.coll x.1).map fun w =>
    let h := updHome w
    mkPiece s p x.1 h.1 h.2 x.2 (16 * x.2.length)

/-- Slots the command's own insert walks take: one walk per entry homed here. -/
def updSlots (c : Cmd) (d : Bytes) (a : UpdArgs) (ps : List Piece) : Nat :=
  if a.opcode = 0x0401 then ((ps.filter (·.loc)).map (·.entries.length)).sum * slotsFor (extVal c 1 (dBeam d)) (dCodeBytes d)
  else 0

/-- Update entries a partition has accepted and not yet seen committed (R135). -/
def entriesPending (y : PSys) : Nat :=
  ((y.cmds.filter fun c => [0x0401, 0x0402, 0x0403, 0x0404].contains c.opcode).map fun c =>
    ((c.pieces.filter (·.done.isNone)).map (·.entries.length)).sum).sum

/-- Step 9 of an update command, under the settings of its admission (R94). -/
def updPool (s : State) (p : Fin 4) (c : Cmd) : Option Nat :=
  let s := coming s
  match updOf s c with
  | none => none
  | some (d, a) =>
    let ps := updPieces s p c d a
    if a.n = 0 then none
    else if (takeSlots s p c.tenant (updSlots c d a ps)).isNone then some 0x0301
    else if (layReplies ps (recordsUsed (psys s p)) none).isNone then some 0x0302
    else if 65536 < entriesPending (psys s p) + a.n then some 0x0401
    else none

/-- Step 7 of an update command: the collection its tenant's (R90, R95), for a share open here (R132), and for entries inserted here a hub Sieve lane
group bound to the tenant, which the distances between candidates need (R137, R485, R487). -/
def updBound (s : State) (p : Fin 4) (c : Cmd) : Bool :=
  match updOf s c with
  | none => false
  | some (d, a) => a.opcode != 0x0401 || a.n == 0 || lanesServe s p c.tenant || !((updPieces s p c d a).any (·.loc))

/-- What INSERT, DELETE, REPLACE and UPDATE_SHARD share. -/
def specUpdate : OpSpec :=
  { len := fun s _ c => updLen s c, exact := fun s _ c => (updOf s c).isSome, range := updRange, bound := updBound,
    body := fun s _ c => match updOf s c with | some (_, a) => 16 * a.n | none => 0, pool := updPool,
    zero := fun s _ c => match updOf s c with | some (_, a) => if a.n = 0 then some [] else none | none => none }

/-- INSERT (0x0401), with the tags of Table 4.3. -/
def specInsert : OpSpec := { specUpdate with tags := some [(1, 2), (2, 1), (3, 1)] }

/-- DELETE (0x0402) and REPLACE (0x0403). -/
def specDelete : OpSpec := specUpdate
def specReplace : OpSpec := specUpdate

/-- UPDATE_SHARD (0x0404): for Stewards; an INSERT's share may carry its extension list. -/
def specUpdateShard : OpSpec :=
  { specInsert with
    permit := stewardOnly
    bound := fun s p c => updBound s p c && match updOf s c with
      | some (_, a) => (updShards s p [] a).all fun x => holdsShard s p a.coll x.1
      | none => false }

/-! ### Acceptance -/

/-- A share's block: the original parameters restricted to its entries (R131). -/
def shareBlock (c : Cmd) (a : UpdArgs) (x : Piece) : Bytes :=
  let es := (x.entries.map fun i => ((a.entries[i]?).map (·.raw)).getD []).flatten
  let b := updBlock c
  let ext := if c.ext = [] then [] else c.ext.flatMap fun t =>
    natLE 2 t.1 ++ natLE 2 t.2.length ++ zeros 4 ++ padTo (roundUp t.2.length 8) t.2
  (if a.opcode = 0x0401 then b.take 2 ++ natLE 2 x.unit ++ natLE 2 x.entries.length ++ (b.drop 6).take 10
   else b.take 2 ++ natLE 2 x.entries.length ++ (b.drop 4).take 12) ++ es ++ ext

/-- The arguments of an update command under the descriptor it was last resolved under. -/
def Cmd.upd (c : Cmd) : UpdArgs := updArgs c.desc (updOpcode c) (updBlock c)

/-- The shares of an update command sent (R131). -/
def updSend (p : Fin 4) (ref : Nat) : Upd :=
  .read fun s =>
    match cmdOf s p ref with
    | none => .skip
    | some c => .each (c.pieces.filter fun x => !x.loc && !x.sent && x.done.isNone) fun x =>
        sendShare p ref x 0x0404 (if c.ext = [] then 0 else 1) (shareBlock c c.upd x) (16 * x.entries.length)

/-- An update command accepted: slots and records taken, shares sent unless FENCE holds them; resolved under the settings and the map
of its admission (R94). -/
def updAccept (p : Fin 4) (ref : Nat) : Upd :=
  .read fun s =>
    let s := coming s
    match cmdOf s p ref with
    | none => .skip
    | some c => match updOf s c with
      | none => .skip
      | some (d, a) =>
        let ps := updPieces s p c d a
        .seq [cmdMod p ref fun c => { c with
            desc := d
            slots := (takeSlots s p c.tenant (updSlots c d a ps)).getD []
            pieces := (layReplies ps (recordsUsed (psys s p)) none).getD ps },
          .when (!c.hasFence) (updSend p ref)]

/-! ### Results and the reply -/

/-- An entry result (Table 4.6). -/
def resultBytes (status shard node gen commit : Nat) : Bytes :=
  natLE 2 status ++ natLE 2 shard ++ natLE 5 node ++ natLE 1 gen ++ natLE 6 commit

/-- The result of an entry of a share: COMMIT_FRAME 0 when it took no effect. -/
def entryResult (shard commit : Nat) (e : UpdEntry) : Bytes :=
  resultBytes e.status shard e.node e.gen (if e.status = stOk then commit else 0)

/-- A result of an entry of which no share reports one: STATUS, one of Table 4.6's, and COMMIT_FRAME are free values (log entry 70). -/
def openResult (seed i : Nat) (insert : Bool) (unit node gen : Nat) : Bytes :=
  let st := [stRetry, stOk, stSuperseded, stBadParam, stNotBound].getD (Config.pick (seed + 2 * i) 5 % 5) stRetry
  resultBytes st unit (if insert then 0 else node) (if insert then 0 else gen) (Config.pick (seed + 2 * i + 1) (2 ^ 48) % 2 ^ 48)

/-- The results of a command's entries in entry order, from its pieces; an entry of a piece that ended without results has the piece's
status where that is NOT_BOUND, BAD_PARAM or RETRY (R132), an open one else (R165); BAD_PARAM where no shard homes it. -/
def updResults (seed : Nat) (c : Cmd) (a : UpdArgs) : List Bytes :=
  (indexed a.entries).map fun x =>
    let (i, e) := x
    match c.pieces.find? fun y => y.entries.contains i with
    | none => resultBytes stBadParam (wordShard e.word) (wordNode e.word) (wordGen e.word) 0
    | some y =>
      let j := y.entries.findIdx (· == i)
      let insert := a.opcode == 0x0401
      let free := openResult seed i insert y.unit (wordNode e.word) (wordGen e.word)
      match y.done with
      | none => free
      | some d => if 16 * (j + 1) ≤ d.body.length then (d.body.drop (16 * j)).take 16
          else if d.status = stNotBound ∨ d.status = stBadParam ∨ d.status = stRetry then
            (if insert then resultBytes d.status y.unit 0 0 0 else resultBytes d.status y.unit (wordNode e.word) (wordGen e.word) 0)
          else free

/-- The reply STATUS and DETAIL of an update command from its entry results (R133). With RETRY for every entry no pool is named; DETAIL
is then 0 (DESIGN CHOICE, log entry 109). -/
def updStatus (rs : List Bytes) : Nat × Nat :=
  let sts := rs.map fun r => leAt r 0 2
  if rs = [] then (stOk, 0)
  else if sts.all (· == stRetry) then (stRetry, 0)
  else if sts.all (· == stSuperseded) then (stSuperseded, 0)
  else (stOk, sts.countP (· != stOk))

/-- A command put in the commit journal of 65,536 commands, keyed by ring and CMD_SEQ (R165). -/
def journalPut (p : Fin 4) (c : Cmd) (frame : Nat) (results : Bytes) : Upd :=
  .part p fun y => { y with journal :=
    (⟨c.ring, c.seq, frame, results⟩ :: y.journal.filter fun j => !(j.ring == c.ring && j.seq == c.seq)).take 65536 }

/-- An update command over: the first status of Table 2.14 among shares that ended by a timeout or a reset, else the
status of its entries. -/
def updPost (p : Fin 4) (ref : Nat) : Upd :=
  .read fun s =>
    match cmdOf s p ref with
    | none => .skip
    | some c =>
      let rs := updResults (opKey s.sys.free) c c.upd
      let bad := c.pieces.filter fun x => match x.done with | some d => decide (statusRank d.status < 4) | none => false
      let frames := rs.map fun r => leAt r 10 6
      let effect := if frames.foldl max 0 = 0 then 0 else frames.foldl max 0 + 1
      .seq [.sys fun y => { y with free := y.free + 1 }, .when (c.opcode != 0x0404) (journalPut p c (frameNow s) rs.flatten),
        match (if bad = [] then none else worstPiece { c with pieces := bad }) with
        | some x => postPieceStatus p c x (bad.countP fun y => y.done.map (·.status) == x.done.map (·.status))
        | none =>
          let (st, det) := updStatus rs
          let det := if st = stRetry ∧ c.pieces.any (fun x => x.done.any fun d => d.detail == 0x0901 && d.status == stRetry) then 0x0901 else det
          postReply p c st det (if st = stRetry then [] else rs.flatten) 0 effect]

/-- An update command ended when its last piece is done. -/
def updCheck (p : Fin 4) (ref : Nat) : Upd :=
  .read fun s =>
    match cmdOf s p ref with
    | some c => .when (allDone c) (updPost p ref)
    | none => .skip

/-! ### Shares at their home -/

/-- A share of a partition. -/
def shareOf (s : State) (p : Fin 4) (ref coll shard : Nat) : Option UpdShare :=
  (psys s p).shares.find? fun x => x.ref == ref && x.coll == coll && x.shard == shard

/-- A share changed. -/
def shareMod (p : Fin 4) (ref coll shard : Nat) (f : UpdShare → UpdShare) : Upd :=
  .part p fun y => { y with shares := y.shares.map fun x => if x.ref = ref ∧ x.coll = coll ∧ x.shard = shard then f x else x }

/-- An entry of a share changed. -/
def entryMod (p : Fin 4) (ref coll shard i : Nat) (f : UpdEntry → UpdEntry) : Upd :=
  shareMod p ref coll shard fun x => { x with entries := x.entries.modify i f }

/-- A share whose last entry is staged: its edits judged, those in the stage and those its entries keep (R139). -/
def judgeIfEnded (p : Fin 4) (ref coll shard : Nat) : Upd :=
  .read fun s =>
    match shareOf s p ref coll shard, shardOf s p coll shard with
    | some x, some h =>
      let g := graphOf s h h.shelf
      .when (x.entries.all (·.ready) && !x.judged) (.seq [judgeStage p g ref,
        shareMod p ref coll shard fun x => { x with judged := true, entries := x.entries.map fun e =>
          { e with edits := e.edits.filterMap fun y => (judgeEdit (g.tag s p) y.2).map (y.1, ·) } }])
    | _, _ => .skip

/-- An entry of a share staged, or refused: nothing more of it is to come. -/
def entryReady (p : Fin 4) (ref coll shard i : Nat) (f : UpdEntry → UpdEntry) : Upd :=
  .seq [entryMod p ref coll shard i fun e => { f e with ready := true }, judgeIfEnded p ref coll shard]

/-- An entry of a share before anything is done for it: refine data as stored. -/
def entryStart (d : Bytes) (a : UpdArgs) (e : UpdIn) : UpdEntry × FlagN :=
  let n := refineRecBytes (dRefineFmt d) (dGroup d) (dDim d)
  let (rf, f) := if a.refineIn = 1 ∧ e.refine ≠ [] then
      let (r, f) := encodeRefine (dRefineFmt d) (dGroup d) (dDim d) e.refine
      (refineOut r n, f)
    else (e.refine, .none)
  ({ status := stOk, node := wordNode e.word, gen := wordGen e.word, fields := a.fields, payload := e.payload,
     code := e.code, refine := rf, ready := false, edits := [], usn := a.usn }, f)

/-- The share of a piece homed here. -/
def shareStart (p : Fin 4) (c : Cmd) (d : Bytes) (a : UpdArgs) (x : Piece) : UpdShare × FlagN :=
  let es := x.entries.map fun i => (a.entries[i]?).getD ⟨0, [], [], [], []⟩
  let started := es.map (entryStart d a)
  ({ ref := c.ref, kind := .command, coll := a.coll, shard := x.unit, opcode := a.opcode, tenant := c.tenant, usn := a.usn,
     insBeam := extVal c 1 (dBeam d), prune := extVal c 2 0 == 1, reverseMax := extVal c 3 (dDegree d),
     entries := started.map (·.1), judged := false, src := if c.steward then c.srcPart else c.replyPart,
     srcPartition := c.srcPartition, cmdSeq := c.seq, raw := (es.map (·.raw)).flatten, owner := p.val, dayCommit := 0 },
   (started.map (·.2)).foldl FlagN.add .none)

/-- The queued walk of an insert entry (R137). -/
def insertWalk (c : Cmd) (d : Bytes) (h : Shard) (x : UpdShare) (i : Nat) (code : Bytes) (slots : List Nat) : Walk :=
  { id := slots.headD 0, why := .insert i, ref := c.ref, state := .queued, spot := .steward, started := false, cls := c.cls,
    tenant := x.tenant, coll := x.coll, shard := x.shard, rcd := h.cur, shelf := h.shelf, width := dWidth d,
    beam := x.insBeam, maxExpand := dMaxExpand d, maxFrames := 0, entryBeam := dEntryBeam d, batchWin := dBatchWin d,
    pageWin := dPageWin d, hub := false, seeds := [], query := code, queue := [], filter := [], flight := [],
    layer := none, stop := 0, accFrame := c.accFrame, admFrame := 0, slots, expansions := 0, compared := 0,
    suppressed := 0, stale := 0, transit := 0, parks := 0, degree := dDegree d, codeBytes := dCodeBytes d,
    refine := false, refineDepth := 0, refineFmt := 0, refineGroup := 32, refineDim := 0, metric := 1, k := 0,
    payload := false, qrefine := [] }

/-- Whether a shard is being migrated away and is read-only here (Table 4.13). -/
def migOf (s : State) (p : Fin 4) (coll shard : Nat) : Option Migration :=
  (psys s p).migs.find? fun m => m.kind == 0 && m.id == coll && m.shard == shard

/-- What an insert writes before its node is visible, on one shelf: code, refine record and header (R137). -/
def insertContents (g : Graph) (node usn : Nat) (payload code refine : Bytes) : Upd :=
  .seq [memStore (codeAddr g.rcd g.codeBytes node) code,
    .when (refine != []) (memStore (refineAddr g.rcd refine.length node) refine),
    memStore (nodeAddr g.rcd g.deg g.codeBytes node)
      (natLE 5 node ++ zeros 3 ++ natLE 8 usn ++ padTo 8 payload ++ zeros 8)]

/-- Committed deltas of the home's own, or of a share whose edits the stage holds (`staged`), on the shard's delta list, or on both
shelves once they are mirrored; a list that would pass 1,048,576 entries ends the build (R151, R153, R158). -/
def deltaList (p : Fin 4) (coll shard ref commit : Nat) (staged : Bool) (ds : List Delta) : Upd :=
  .read fun s =>
    match shardOf s p coll shard with
    | none => .skip
    | some h =>
      match h.shelfState with
      | .building | .replaying =>
        if commit < h.startFrame then .skip
        else if 1048576 < h.delta.length + ds.length then
          .seq [shardMod p coll shard fun h => { h with shelfState := .aborted, delta := [] },
            .each ((psys s p).cmds.filter fun c => c.opcode == 0x0407 && c.phase == .running &&
                par c 0 2 == coll && par c 2 2 == shard) fun c => postPlain p c stBadParam 66]
        else shardMod p coll shard fun h => { h with delta := h.delta ++ ds }
      | .mirrored =>
        match h.next with
        | none => .skip
        | some _ =>
          let g := graphOf s h (1 - h.shelf)
          .each ds fun d => .seq [
            .when (d.opcode == 0x0401) (insertContents g d.node d.usn d.payload d.code d.refine),
            .when (!staged) (stageEdits p g ref (some commit) d.edits)]
      | _ => .skip

/-- Edits that the home itself commits, a repair or compaction share of `n` entries (R135, R139, R147): edges judged,
staged with this frame as commit frame, on the delta list as any share; an entry layer has no deltas. -/
def commitEdits (p : Fin 4) (g : Graph) (ref n : Nat) (es : List (Nat × Edit)) : Upd :=
  .read fun s =>
    let kept := es.filterMap fun e => (judgeEdit (g.tag s p) e.2).map (e.1, ·)
    .when (kept != []) (.seq [stageEdits p g ref (some (frameNow s)) kept,
      .when (decide (g.shelf < 2)) (deltaList p g.coll g.shard ref (frameNow s) false [⟨0, frameNow s, 0, 0, 0, 0, [], [], [], kept⟩]),
      .part p fun y => { y with committedN := y.committedN + n }])

/-- The home of an update's piece now: where its shard has moved, else as the map in force gives (R94, R131). -/
def updHomeNow (p : Fin 4) (c : Cmd) (s : State) (x : Piece) : Option (Nat × Nat) :=
  match (if x.loc then movedTo s p c.upd.coll x.unit else none) with
  | some h => some h
  | none => if c.opcode = 0x0404 then none else (mapOf s c.upd.coll x.unit).map updHome

/-- An update command resolved again at its admission: the settings, the homes of the pieces not yet sent as then in force (R94), and
slots for its own insert walks. -/
def updResolve (p : Fin 4) (ref : Nat) : Upd :=
  .read fun s =>
    match cmdOf s p ref with
    | none => .skip
    | some c => match updOf s c with
      | none => .skip
      | some (d, _) => .seq [cmdMod p ref fun c => { c with desc := d },
          rehome p ref (updHomeNow p { c with desc := d }) (fun x => 16 * x.entries.length),
          retakeSlots p ref fun c => updSlots c d c.upd c.pieces]

/-- The admission of an update command at a Bell: fenced shares sent; for each piece homed here the share begun, and the
walks of an insert queued. A shard with no record ends its share with NOT_BOUND (R132); a Cellar shard takes DELETE alone
(R144). -/
def updAdmit (p : Fin 4) (ref : Nat) : Upd :=
  .seq [updResolve p ref, updSend p ref,
    .read fun s =>
      match cmdOf s p ref with
      | none => .skip
      | some c =>
        let d := c.desc
        let a := c.upd
        let n := slotsFor (extVal c 1 (dBeam d)) (dCodeBytes d)
        .seq [.each (c.pieces.filter fun x => x.loc && x.done.isNone) fun x =>
            match (if collOpen s a.coll c.tenant then shardOf s p a.coll x.unit else none) with
            | none => pieceDone p ref x.unit ⟨stNotBound, 0, 0, []⟩
            | some h =>
              let (sh, f) := shareStart p c d a x
              let cellar := rPlacement h.cur == 1 && a.opcode != 0x0402
              let sh := if cellar then { sh with judged := true, entries := sh.entries.map fun e => { e with status := stBadParam, ready := true } } else sh
              .seq [raiseFlags p f, .part p (fun y => { y with shares := y.shares ++ [sh] }),
                .when (a.opcode == 0x0401 && !cellar) (.each (indexed sh.entries) fun e =>
                  .read fun s => match cmdOf s p ref with
                    | none => .skip
                    | some c => .seq [
                        .part p fun y => { y with walks := y.walks ++ [insertWalk c d h sh e.1 e.2.code (c.slots.take n)] },
                        cmdMod p ref fun c => { c with slots := c.slots.drop n }])],
          cmdMod p ref fun c => { c with slots := [] }, placeWalks p]]

/-- An insert entry begun at its home: a free slot taken and written (R137); RETRY where the shard has none. The slot is
one of the free ones, which the spec does not single out; an entry of a Daybook record names it (R526). -/
def insertStart (p : Fin 4) (w : Walk) (i : Nat) : Upd :=
  .read fun s =>
    match shardOf s p w.coll w.shard, shareOf s p w.ref w.coll w.shard with
    | some h, some x =>
      match x.entries[i]? with
      | none => walkDrop p w.id
      | some e =>
        let given := x.kind == .daybook
        if h.free = [] ∧ !given then
          .seq [entryReady p w.ref w.coll w.shard i fun e => { e with status := stRetry, node := 0, gen := 0 },
            walkDrop p w.id]
        else
          let slot := if given then e.node - rBase h.cur else if h.free.length = 1 then h.free.headD 0
            else h.free.getD (Config.pick (opKey s.sys.free) h.free.length % h.free.length) 0
          let g := graphOf s h h.shelf
          let node := rBase g.rcd + slot
          let gen := if given then e.gen else (tagOf s g.rcd g.codeBytes node).gen
          let na := nodeAddr g.rcd g.deg g.codeBytes node
          let ca := codeAddr g.rcd g.codeBytes node
          .seq [.sys (fun y => { y with free := y.free + 1 }),
            shardMod p w.coll w.shard fun h => { h with free := h.free.erase slot },
            memStore ca e.code, chargeWrite s w.tenant ca e.code.length,
            .when (e.refine != []) (.seq [memStore (refineAddr g.rcd e.refine.length node) e.refine,
              chargeWrite s w.tenant (refineAddr g.rcd e.refine.length node) e.refine.length]),
            memStore na (natLE 5 node ++ zeros 3 ++ natLE 8 x.usn ++ padTo 8 e.payload ++ zeros 8),
            chargeWrite s w.tenant na 32,
            entryMod p w.ref w.coll w.shard i fun e => { e with node, gen },
            walkSeed p w.id]
    | _, _ => walkDrop p w.id

/-- The end of an insert walk: neighbours chosen, edges and tag staged on the current shelf, the entry ready (R137). The hub lanes' distances
count in PAIRS, a number the spec does not fix. -/
def insertFinish (p : Fin 4) (id i : Nat) : Upd :=
  .read fun s =>
    match walkOf s p id with
    | none => .skip
    | some w =>
      match shardOf s p w.coll w.shard, shareOf s p w.ref w.coll w.shard with
      | some h, some x =>
        let e := (x.entries[i]?).getD ⟨0, 0, 0, 0, [], [], [], false, [], 0⟩
        let g := graphOf s h h.shelf
        let es := linkEdits s p g e.node e.gen x.prune x.reverseMax (opKey s.sys.free) w.queue ++
          [(e.node, Edit.tag e.gen true false)]
        .seq [.fresh (fun v => ledger w.tenant 5 (v.toNat % 2 ^ 20)), stageEdits p g w.ref none es,
          entryReady p w.ref w.coll w.shard i fun e => { e with edits := es }, walkDrop p id]
      | _, _ => walkDrop p id

/-- An insert walk that met memory not bound to the tenant, or a closing collection: the entry gets NOT_BOUND and the slot it has taken
returns. -/
def insertFail (p : Fin 4) (w : Walk) (i : Nat) : Upd :=
  .read fun s =>
    match shareOf s p w.ref w.coll w.shard with
    | none => walkDrop p w.id
    | some x =>
      let e := (x.entries[i]?).getD ⟨0, 0, 0, 0, [], [], [], false, [], 0⟩
      .seq [.when w.started (shardMod p w.coll w.shard fun h => { h with free := (e.node - rBase h.cur) :: h.free }),
        entryReady p w.ref w.coll w.shard i fun e => { e with status := stNotBound, node := 0, gen := 0 }, walkDrop p w.id]

/-- The entries that repair may still commit in this frame: what the 4,096 leave beside every entry of the shares under way, so that
it never holds back an update (R135, R147). -/
def repairRoom (s : State) (p : Fin 4) : Nat :=
  let y := psys s p
  4096 - (y.committedN + ((y.shares.filter (·.kind != .drained)).map (·.entries.length)).sum)

/-- The relink of a node by repair (R145): its new edge list and the reverse edits staged and committed at once. -/
def relinkFinish (p : Fin 4) (id node : Nat) : Upd :=
  .read fun s =>
    match walkOf s p id with
    | none => .skip
    | some w =>
      match shardOf s p w.coll w.shard with
      | none => walkDrop p id
      | some h =>
        let g := graphOf s h (if w.shelf < 2 then h.shelf else 2 + h.shelf)
        let t := g.tag s p node
        let es := linkEdits s p g node t.gen false g.deg (opKey s.sys.free) w.queue
        if !t.live ∨ t.tomb then walkDrop p id
        else if repairRoom s p = 0 then .skip
        else .seq [commitEdits p g 0 1 es, walkDrop p id]

/-- The status of a DELETE or REPLACE entry at staging (R132, R140, R148 to R150). -/
def targetStatus (s : State) (p : Fin 4) (g : Graph) (x : UpdShare) (i : Nat) (e : UpdEntry) (usn : Nat) : Nat :=
  let t := g.tag s p e.node
  if !(inShard g.rcd e.node) || !t.live || t.gen != e.gen then stBadParam
  else if (x.entries.drop (i + 1)).any (·.node == e.node) then stSuperseded
  else if t.tomb then (if x.opcode = 0x0402 then stOk else stSuperseded)
  else if g.usn s p e.node < usn then stOk
  else stSuperseded

/-- The edits of a DELETE or REPLACE entry. -/
def targetEdits (x : UpdShare) (e : UpdEntry) (tomb : Bool) (usn : Nat) : List (Nat × Edit) :=
  if x.opcode = 0x0402 then (if tomb then [] else [(e.node, .tag e.gen true true), (e.node, .usn usn)])
  else [(e.node, Edit.usn usn)] ++ (if nbit e.fields 2 then [(e.node, .payload e.payload)] else []) ++
    (if nbit e.fields 0 then [(e.node, .code e.code)] else []) ++
    (if nbit e.fields 1 && e.refine != [] then [(e.node, .refine e.refine)] else []) ++ [(e.node, .relink)]

/-- The USN under which an entry with USN 0 is compared at staging: one its commit in this frame (of a drained share: in frame C − 1)
could give (R129), above those of the entries with USN 0 staged before it, which its share follows (R148). -/
def stagingUsn (s : State) (p : Fin 4) (x : UpdShare) : Nat :=
  let past := x.kind == .drained
  let staged := ((psys s p).shares.filter fun z => z.usn == 0 && (z.kind == .drained) == past).flatMap fun z =>
    (z.entries.filter fun e => e.ready && e.status == stOk).map (·.usn)
  let base := if past then x.dayCommit * 65536 + (aget (psys s p).pastN x.dayCommit).getD 0 else frameNow s * 65536 + (psys s p).committedN
  max base (staged.foldl max 0 + 1)

/-- One DELETE or REPLACE entry staged. -/
def targetStage (p : Fin 4) (ref coll shard i : Nat) : Upd :=
  .read fun s =>
    match shardOf s p coll shard, shareOf s p ref coll shard with
    | some h, some x =>
      match x.entries[i]? with
      | none => .skip
      | some e =>
        if e.ready then .skip
        else
          let g := graphOf s h h.shelf
          let usn := if x.usn = 0 then stagingUsn s p x else x.usn
          let st := targetStatus s p g x i e usn
          let es := if st = stOk then targetEdits x e (g.tag s p e.node).tomb usn else []
          .seq [stageEdits p g ref none es,
            entryReady p ref coll shard i fun e => { e with status := st, edits := es, usn }]
    | _, _ => .skip

/-! ### Commit (R134, R135, R139, R151, R153) -/

/-- An edit with the USN its entry got at commit. -/
def withUsn (usn : Nat) : Edit → Edit
  | .usn _ => .usn usn
  | e => e

/-- The deltas of a committed share: its entries that took effect. -/
def shareDeltas (x : UpdShare) (commit : Nat) : List Delta :=
  (x.entries.filter (·.status == stOk)).map fun e =>
    ⟨x.opcode, commit, e.node, e.gen, e.usn, e.fields, e.payload, e.code, e.refine, e.edits⟩

/-- A committed share on the delta list, or on both shelves. -/
def deltaPut (p : Fin 4) (x : UpdShare) (commit : Nat) : Upd := deltaList p x.coll x.shard x.ref commit true (shareDeltas x commit)

/-- Deltas kept for a migrating unit until its new home acknowledges them (R162). -/
def migPut (p : Fin 4) (x : UpdShare) (commit : Nat) : Upd :=
  .part p fun y => { y with migs := y.migs.map fun m =>
    if m.kind = 0 ∧ m.id = x.coll ∧ m.shard = x.shard ∧ !m.cutDone then
      { m with unacked := m.unacked ++ ((indexed x.entries).filter (·.2.status == stOk)).map fun e => (commit, p.val, x.ref, e.1) } else m }

/-- The share's results given to the command that waits for them. A drained share's reference also carries the partition
it was parked in, above bit 40 (R161, R162). -/
def shareDone (x : UpdShare) (body : Bytes) (detail : Nat) : Upd :=
  let p := toP x.owner
  let ref := x.ref % 2 ^ 40
  .seq [pieceDone p ref x.shard ⟨if detail = 0x0901 then stRetry else stOk, detail, 0, body⟩, updCheck p ref]

/-- A share's entries as they are committed: USNs assigned from the count `n` of entries committed in the frame (R129). A REPLACE whose
USN is by then below that of the node as visible takes no place in memory (R150). -/
def commitEntries (s : State) (g : Graph) (x : UpdShare) (commit n : Nat) : List UpdEntry :=
  (indexed x.entries).map fun e =>
    let usn := if x.usn = 0 then commit * 65536 + (n + (x.entries.take e.1).countP (·.status == stOk)) % 65536 else x.usn
    let late := x.opcode == 0x0403 && decide (usn < memLE s (nodeAddr g.rcd g.deg g.codeBytes e.2.node + 8) 8)
    { e.2 with usn, edits := if late then [] else e.2.edits.map fun y => (y.1, withUsn usn y.2) }

/-- A share's staged edits committed in their places, so that the edits of several shares at one record are applied in the order in which
they were staged (R138); on both shelves of a mirrored shard (R153). `es` are the entries as committed. -/
def commitStage (p : Fin 4) (h : Shard) (x : UpdShare) (es : List UpdEntry) (commit : Nat) : Upd :=
  let put (z : Staged) : List Staged :=
    if h.shelfState = .mirrored ∧ h.next.isSome then [z, { z with shelf := 1 - h.shelf }] else [z]
  let one (z : Staged) : List Staged :=
    if z.ref = x.ref ∧ z.coll = x.coll ∧ z.shard = x.shard ∧ z.commit.isNone then
      match es.find? fun e => x.opcode != 0x0401 && e.status == stOk && e.node == z.node with
      | none => put { z with commit := some commit, shelf := h.shelf }
      | some e => if e.edits = [] then [] else put { z with commit := some commit, shelf := h.shelf, edit := withUsn e.usn z.edit }
    else [z]
  .part p fun y => { y with stage := y.stage.flatMap one }

/-- What a share has staged taken out of the stage, and the share out of the partition's. -/
def shareGone (p : Fin 4) (x : UpdShare) : Upd :=
  .part p fun y => { y with
    stage := y.stage.filter fun z => !(z.ref == x.ref && z.coll == x.coll && z.shard == x.shard && z.commit.isNone)
    shares := y.shares.filter fun z => !(z.ref == x.ref && z.coll == x.coll && z.shard == x.shard) }

/-- The committed writes of a share applied at once: those of a drained buffer, before any lookup (R161). -/
def applyShare (p : Fin 4) (x : UpdShare) : Upd :=
  .read fun s =>
    let mine (z : Staged) : Bool := z.ref == x.ref && z.coll == x.coll && z.shard == x.shard && z.commit.isSome
    .seq [.each ((psys s p).stage.filter mine) (applyStaged p (frameNow s)),
      .part p fun y => { y with stage := y.stage.filter fun z => !(mine z) }]

/-- The count of entries committed in a frame raised: the frame now, or the one before a cut-over. -/
def commitCount (p : Fin 4) (x : UpdShare) (took : Nat) : Upd :=
  .part p fun y =>
    if x.kind = .drained then { y with pastN := aset y.pastN x.dayCommit ((aget y.pastN x.dayCommit).getD 0 + took) }
    else { y with committedN := y.committedN + took }

/-- The Daybook record of a committed share (Table 18.8). -/
def shareRecord (s : State) (p : Fin 4) (x : UpdShare) (commit : Nat) (results : Bytes) : DayRec :=
  { lsn := 0, commit, opcode := x.opcode, tenant := x.tenant, id := x.coll, shard := x.shard, cmdSeq := x.cmdSeq, src := x.src,
    srcPartition := x.srcPartition, usn := x.usn, results, entries := x.raw, n := x.entries.length, durable := false,
    partner := partnerOf s p x.coll x.shard, sent := false, partnerDurable := false }

/-- A share committed: every entry staged, within 4,096 entries of the frame; one commit frame for all (R134); logged in the Daybook
(R524), or RETRY for want of space (R527). A drained share has commit frame C − 1, whose 4,096 it does not count against, and is
applied at once (R161, R163). -/
def shareCommit (p : Fin 4) (ref shard : Nat) : Upd :=
  .read fun s =>
    match (psys s p).shares.find? fun x => x.ref == ref && x.shard == shard && x.judged with
    | none => .skip
    | some x0 =>
      let past := x0.kind == .drained
      match shardOf s p x0.coll shard with
      | none => .skip
      | some h =>
        if !past ∧ 4096 < x0.entries.length + (psys s p).committedN then .skip
        else
          let commit := if past then x0.dayCommit else frameNow s
          let g := graphOf s h h.shelf
          let x := { x0 with entries := commitEntries s g x0 commit (if past then (aget (psys s p).pastN commit).getD 0 else (psys s p).committedN) }
          let results := (x.entries.map (entryResult shard commit)).flatten
          let r := shareRecord s p x commit results
          let took := x.entries.countP (·.status == stOk)
          let logs := x.kind != .daybook && took != 0
          if logs && !(dayFits s p (dayLen r)) then
            .seq [shareGone p x,
              .when (x.opcode == 0x0401) (shardMod p x.coll shard fun h => { h with
                free := h.free ++ (x.entries.filter (·.status == stOk)).map fun e => e.node - rBase h.cur }),
              shareDone x (x.entries.map fun e => resultBytes (if e.status = stOk then stRetry else e.status) shard
                e.node e.gen 0).flatten 0x0901]
          else
            .seq [.when (x.opcode == 0x0401) (.each (x.entries.filter (·.status == stOk)) fun e =>
                insertContents g e.node e.usn e.payload e.code e.refine),
              commitStage p h x x.entries commit, shareGone p x, commitCount p x took,
              .when (x.kind == .daybook) (shardMod p x.coll shard fun h => { h with appliedFrame := max h.appliedFrame x.dayCommit }),
              deltaPut p x commit, migPut p x commit, .when past (applyShare p x),
              .when logs (dayAppend p r), .when (x.kind == .command) (dayForward p),
              if x.kind = .daybook then .skip else shareDone x results 0]

/-! ### Parking (R160, R161) -/

/-- The slots an uncommitted INSERT share has taken go back to the free list, generations unchanged (R164). -/
def slotsBack (p : Fin 4) (x : UpdShare) : Upd :=
  .read fun s =>
    match shardOf s p x.coll x.shard with
    | none => .skip
    | some h =>
      let begun (i : Nat) (e : UpdEntry) : Bool := if e.ready then e.status == stOk
        else (psys s p).walks.any fun w => w.ref == x.ref && w.why == .insert i && w.coll == x.coll && w.shard == x.shard && w.started
      let slots := ((indexed x.entries).filter fun e => begun e.1 e.2).map fun e => e.2.node - rBase h.cur
      .when (x.opcode == 0x0401) (shardMod p x.coll x.shard fun h => { h with free := h.free ++ slots })

/-- A share's staging undone: its slots back, its insert walks and its staged edits gone, its entries as they came. -/
def unstage (p : Fin 4) (x : UpdShare) : Upd :=
  .read fun s =>
    .seq [slotsBack p x,
      .each ((psys s p).walks.filter fun w => w.ref == x.ref && w.coll == x.coll && w.shard == x.shard) (fun w => walkDrop p w.id),
      .part p fun y => { y with stage := y.stage.filter fun z => !(z.ref == x.ref && z.coll == x.coll && z.shard == x.shard && z.commit.isNone) },
      shareMod p x.ref x.coll x.shard fun x => { x with judged := false, entries := x.entries.map fun e =>
        { e with status := stOk, ready := false, edits := [], usn := x.usn, node := if x.opcode = 0x0401 ∧ x.kind ≠ .daybook then 0 else e.node
                 gen := if x.opcode = 0x0401 ∧ x.kind ≠ .daybook then 0 else e.gen } }]

/-- An update share that meets a read-only unit: its staging undone and its entries parked, 4,096 entries or 1 MiB to a unit; one that
finds the buffer full gets RETRY and a record of cause PARK_OVERFLOW, with the command's ring or peer, CMD_SEQ and entry index and the
node (R160). The spec gives an entry no size: it counts 32 bytes and its data (DESIGN CHOICE, log entry 110). -/
def parkShare (p : Fin 4) (m : Migration) (x : UpdShare) : Upd :=
  .seq [unstage p x, .each (indexed x.entries) fun e =>
    .read fun s =>
      match (psys s p).migs.find? (·.ref == m.ref) with
      | none => .skip
      | some m =>
        let bytes := 32 + e.2.payload.length + e.2.code.length + e.2.refine.length
        let put (f : Migration → Migration) : Upd :=
          .part p fun y => { y with migs := y.migs.map fun z => if z.ref = m.ref then f z else z }
        let node := if x.opcode = 0x0401 then 0 else e.2.node
        if m.parked.length < 4096 ∧ m.parkedBytes + bytes ≤ 1048576 then
          put fun z => { z with parkedBytes := z.parkedBytes + bytes, parked := z.parked ++
            [⟨p.val, x.ref, e.1, x.opcode, node, e.2.gen, x.usn, e.2.fields, e.2.payload, e.2.code, e.2.refine⟩] }
        else
          let base := { faultBase 0x08 0 with tenant := x.tenant, opcode := x.opcode, cmdSeq := x.cmdSeq }
          let full := match cmdOf s p x.ref with
            | some c => ({ faultOf s p c base with opcode := x.opcode },
                ((c.pieces.find? fun (y : Piece) => y.unit == x.shard).bind fun y => y.entries[e.1]?).getD e.1)
            | none => (base, e.1)
          .seq [put fun z => { z with overflow := z.overflow + 1 },
            entryReady p x.ref x.coll x.shard e.1 fun e => { e with status := stRetry },
            fault p { full.1 with detail := natLE 2 full.2 ++ zeros 6 ++ natLE 8 node }]]

/-- Whether a unit is read-only now and parks its updates. -/
def parksNow (m : Migration) : Bool := m.checked && !m.cutDone

/-- The shares of a migrating shard that are not committed: parked, but for those that are already. -/
def parkShares (p : Fin 4) (m : Migration) (t : UpdShare → Bool) : Upd :=
  .read fun s => .each ((psys s p).shares.filter fun x => x.coll == m.id && x.shard == m.shard && x.kind == .command && t x &&
    !(m.parked.any (·.ref == x.ref))) (parkShare p m)

end Sys2Proof.Machine
end

