-- ==== Sys2Proof/Machine/Text.lean ====
section
/-!
DEFINITION. The text unit (chapter 9): UTF-8 validation, stop strings, streams and their replies, the vocabulary table,
term lookup and n-grams, and the commands of class 0x07.
-/

namespace Sys2Proof.Machine

/-! ### UTF-8 (R292, R293) -/

/-- Whether a byte lies in a range. -/
def inRange (b : Byte) (lo hi : Nat) : Bool := decide (lo ≤ b.toNat) && decide (b.toNat ≤ hi)

/-- Bytes of a well-formed sequence by its first byte; 0: none begins so. -/
def utf8Len (b : Byte) : Nat :=
  if inRange b 0 0x7F then 1 else if inRange b 0xC2 0xDF then 2 else if inRange b 0xE0 0xEF then 3
  else if inRange b 0xF0 0xF4 then 4 else 0

/-- Whether a second byte may follow a first one: no overlong form, surrogate or code point above U+10FFFF. -/
def utf8Second (a b : Byte) : Bool :=
  if a = 0xE0 then inRange b 0xA0 0xBF else if a = 0xED then inRange b 0x80 0x9F
  else if a = 0xF0 then inRange b 0x90 0xBF else if a = 0xF4 then inRange b 0x80 0x8F else inRange b 0x80 0xBF

/-- A byte string as the start of one character: none when it begins no well-formed sequence, else whether it is whole. -/
def utf8Start : Bytes → Option Bool
  | [] => none
  | a :: r =>
    let n := utf8Len a
    if n = 0 ∨ n < r.length + 1 then none
    else match r with
      | [] => some (n == 1)
      | b :: t => if utf8Second a b && t.all (fun c => inRange c 0x80 0xBF) then some (r.length + 1 == n) else none

/-- U+FFFD. -/
def fffd : Bytes := [0xEF, 0xBF, 0xBD]

/-- What one byte makes of the pending bytes: characters complete now (false) or replacements (true), and the new pending
bytes. -/
def utf8Step (pending : Bytes) (b : Byte) : List (Bool × Bytes) × Bytes :=
  let alone : List (Bool × Bytes) × Bytes := match utf8Start [b] with
    | some true => ([(false, [b])], [])
    | some false => ([], [b])
    | none => ([(true, fffd)], [])
  if pending = [] then alone
  else match utf8Start (pending ++ [b]) with
    | some true => ([(false, pending ++ [b])], [])
    | some false => ([], pending ++ [b])
    | none => ((true, fffd) :: alone.1, alone.2)

/-- Whether a byte string is well-formed UTF-8. -/
def utf8Ok (bs : Bytes) : Bool :=
  let r := bs.foldl (fun (a : Bool × Bytes) b => let x := utf8Step a.2 b; (a.1 && x.1.all (!·.1), x.2)) (true, [])
  r.1 && r.2 == []

/-! ### The stream machine -/

/-- A stream at work on one command: what it has counted, the token or byte that ended it, and the offset at which REJECT
failed it. -/
structure TextRun where
  st : TextStream
  replaced : Nat
  misses : Nat
  controls : Nat
  discarded : Nat
  emitted : Nat
  stops : Nat
  /-- TOKEN_INDEX, CONSUMED, TOKEN_ID, TOKEN_LEN of R298 -/
  hit : Option (Nat × Nat × Nat × Nat)
  bad : Option Nat
  deriving DecidableEq, Repr

/-- A stream before a command's data. -/
def TextRun.start (st : TextStream) : TextRun :=
  { st, replaced := 0, misses := 0, controls := 0, discarded := 0, emitted := 0, stops := 0, hit := none, bad := none }

def TextStream.reject (t : TextStream) : Bool := nbit t.options 0
def TextStream.exclude (t : TextStream) : Bool := nbit t.options 1

/-- Where a byte comes from: packet offset, TOKEN_INDEX, CONSUMED, TOKEN_ID and TOKEN_LEN should it complete a match. -/
structure TextSrc where
  offset : Nat
  index : Nat
  consumed : Nat
  id : Nat
  len : Nat
  deriving DecidableEq, Repr

/-- Output bytes queued. -/
def TextRun.emit (r : TextRun) (bs : Bytes) : TextRun :=
  { r with st := { r.st with queue := r.st.queue ++ bs }, emitted := r.emitted + bs.length }

/-- Whether a byte string ends with another. -/
def endsWith (bs suffix : Bytes) : Bool := decide (suffix.length ≤ bs.length) && bs.drop (bs.length - suffix.length) == suffix

/-- The longest stop string that ends here, with its index (R296). -/
def stopAt (stops : List Bytes) (recent : Bytes) : Option (Nat × Bytes) :=
  ((indexed stops).filter fun x => endsWith recent x.2).foldl (fun a x => match a with
    | none => some x
    | some y => if y.2.length < x.2.length then some x else a) none

/-- The length of the longest suffix of a byte string that is a proper prefix of a stop string (R297). -/
def holdLen (stops : List Bytes) (bs : Bytes) : Nat :=
  ((List.range (min bs.length 63 + 1)).reverse.find? fun n =>
    stops.any fun t => decide (n < t.length) && t.take n == bs.drop (bs.length - n)).getD 0

/-- One validated byte: a token in ENCODE, else output with the stop strings (R296 to R298, R300). -/
def TextRun.put (r : TextRun) (src : TextSrc) (b : Byte) : TextRun :=
  if r.hit.isSome then r
  else if r.st.mode = 2 then
    let r := if nbit r.st.options 2 && !r.st.begun then { (r.emit (natLE 2 256)) with st := { (r.emit (natLE 2 256)).st with begun := true } } else r
    r.emit [b, 0]
  else
    let recent := (r.st.recent ++ [b]).drop (r.st.recent.length + 1 - 64)
    let all := r.st.held ++ [b]
    match stopAt r.st.stops recent with
    | some (i, t) =>
      let r := r.emit (if r.st.exclude then all.take (all.length - t.length) else [b])
      { r with stops := r.stops + 1, hit := some (src.index, src.consumed, src.id, src.len),
               st := { r.st with recent, held := [], pending := [], state := .ended, endCode := 1, stopIndex := i } }
    | none =>
      let n := if r.st.exclude then holdLen r.st.stops all else 0
      let r := r.emit (all.take (all.length - n))
      { r with st := { r.st with recent, held := all.drop (all.length - n) } }

/-- A character or a replacement put; under REJECT the first replacement fails the stream (R292). -/
def TextRun.char (r : TextRun) (src : TextSrc) (x : Bool × Bytes) : TextRun :=
  if r.hit.isSome ∨ r.bad.isSome then r
  else if x.1 ∧ r.st.reject then { r with bad := some src.offset }
  else x.2.foldl (fun r b => r.put src b) { r with replaced := r.replaced + x.1.toNat }

/-- One input byte. -/
def TextRun.byte (r : TextRun) (src : TextSrc) (b : Byte) : TextRun :=
  if r.hit.isSome ∨ r.bad.isSome then r
  else
    let (cs, p) := utf8Step r.st.pending b
    let r := cs.foldl (fun r x => r.char src x) { r with st := { r.st with pending := [] } }
    if r.hit.isSome ∨ r.bad.isSome then r else { r with st := { r.st with pending := p } }

/-- Pending bytes resolved as at the end of input (R295); under REJECT they are discarded. -/
def TextRun.flush (r : TextRun) (src : TextSrc) : TextRun :=
  if r.st.pending = [] then r
  else if r.st.reject then { r with st := { r.st with pending := [] } }
  else ({ r with st := { r.st with pending := [] } }).char src (true, fffd)

/-- Held-back bytes released. -/
def TextRun.release (r : TextRun) : TextRun := { (r.emit r.st.held) with st := { (r.emit r.st.held).st with held := [] } }

/-! ### The vocabulary table (R302, R303) -/

/-- An entry's word by index. -/
def vocabWord (t : Mem) (i : Nat) : Nat := leNat (Mem.readBytes t (8 * i) 8)

def vwKind (w : Nat) : Nat := nfld w 63 62
def vwTag (w : Nat) : Nat := nfld w 61 48
def vwId (w : Nat) : Nat := nfld w 47 28
def vwLen (w : Nat) : Nat := nfld w 26 22 + 1

/-- An entry's string. -/
def vwString (t : Mem) (w : Nat) : Bytes := Mem.readBytes t (0x400000 + nfld w 21 0) (vwLen w)

/-- FNV-1a of a byte string from a basis. -/
def fnv1a (basis : Nat) (bs : Bytes) : Nat := bs.foldl (fun h b => ((h ^^^ b.toNat) * 0x01000193) % 2 ^ 32) basis

/-- Home bucket of a token and of a term. -/
def tokenHome (id : Nat) : Nat := id * 0x9E3779B1 % 2 ^ 32 / 2 ^ 15
def termHome (bs : Bytes) : Nat := fnv1a 0x811C9DC5 bs % 2 ^ 17

/-- The entries of the buckets home to home + 3. -/
def vocabNear (t : Mem) (home : Nat) : List Nat :=
  (List.range 16).map fun j => vocabWord t ((home + j / 4) % 2 ^ 17 * 4 + j % 4)

/-- A token's string. -/
def tokenString (t : Mem) (id : Nat) : Option Bytes :=
  ((vocabNear t (tokenHome id)).find? fun w => vwKind w == 1 && vwId w == id).map (vwString t)

/-- A term's ID. -/
def termId (t : Mem) (bs : Bytes) : Option Nat :=
  let h := fnv1a 0x811C9DC5 bs
  ((vocabNear t (termHome bs)).find? fun w => vwKind w == 2 && vwTag w == nfld h 31 18 && vwLen w == bs.length &&
    vwString t w == bs).map vwId

/-- Whether entry i of an image fails verification (R303). An entry of KIND 0 is empty (Table 9.6). -/
def vocabBad (t : Mem) (i : Nat) : Bool :=
  let w := vocabWord t i
  let home := if vwKind w = 1 then tokenHome (vwId w) else termHome (vwString t w)
  vwKind w != 0 && (
    vwKind w == 3 || (vwKind w == 1 && decide (vwId w < 512)) ||
    decide (4 ≤ (i / 4 + 2 ^ 17 - home) % 2 ^ 17) || decide (0x400000 < nfld w 21 0 + vwLen w) ||
    (if vwKind w = 1 then vwTag w != 0 else vwTag w != nfld (fnv1a 0x811C9DC5 (vwString t w)) 31 18) ||
    ((List.range i).any fun j =>
      let x := vocabWord t j
      vwKind x == vwKind w && (if vwKind w = 1 then vwId x == vwId w else vwString t x == vwString t w)))

/-! ### Feeds -/

/-- One token of a DETOK feed (R288, R295): `off` its packet offset, `i` its index. -/
def TextRun.token (r : TextRun) (vocab : Mem) (off i id : Nat) : TextRun :=
  let src : TextSrc := ⟨off, i, 0, id, 0⟩
  if r.bad.isSome then r
  else if r.st.state ≠ .opened then { r with discarded := r.discarded + 1 }
  else if id < 256 then r.byte { src with consumed := 1, len := 1 } (BitVec.ofNat 8 id)
  else if id = 257 then
    let r := ({ r with controls := r.controls + 1 }).flush src
    if r.hit.isSome then r
    else
      let r := r.release
      { r with st := { r.st with state := .ended, endCode := 2 } }
  else if id < 512 then { r with controls := r.controls + 1 }
  else match tokenString vocab id with
    | some str => (indexed str).foldl (fun r x => r.byte { src with consumed := x.1 + 1, len := str.length } x.2) r
    | none =>
      let r := { r with misses := r.misses + 1 }
      if r.st.reject then { r with bad := some off }
      else
        let r := r.flush src
        if r.hit.isSome then r else fffd.foldl (fun r b => r.put src b) r

/-- A whole feed of a stream: tokens (DETOK) or bytes. -/
def feedRun (vocab : Mem) (st : TextStream) (data : Bytes) (base : Nat) : TextRun :=
  let r := TextRun.start st
  if st.mode = 0 then
    (List.range (data.length / 4)).foldl (fun r i => r.token vocab (base + 4 * i) i (leAt data (4 * i) 4 % 2 ^ 20)) r
  else
    (indexed data).foldl (fun r x =>
      if r.st.state ≠ .opened then { r with discarded := r.discarded + 1 }
      else r.byte ⟨base + x.1, 0xFFFF, x.1 + 1, 0, 0⟩ x.2) r

/-- A stream after a command: failed when REJECT failed it. -/
def TextRun.final (r : TextRun) : TextStream :=
  if r.bad.isSome then { r.st with state := .failed true 0, endCode := 4, pending := [], held := [] } else r.st

/-! ### Replies (Table 9.4) -/

/-- A text reply's body and the stream with the carried bytes taken out of its queue. -/
def textReply (r : TextRun) (st : TextStream) (bodyMax : Nat) : Bytes × TextStream :=
  let out := st.queue.take (bodyMax - 32)
  let left := st.queue.drop (bodyMax - 32)
  let (ti, cons, id, len) := r.hit.getD (0xFFFF, 0, 0, 0)
  (natLE 4 out.length ++ natLE 4 left.length ++ natLE 1 st.pending.length ++ natLE 1 st.held.length ++
     natLE 1 st.endCode ++ natLE 1 st.stopIndex ++ natLE 2 ti ++ natLE 2 cons ++ natLE 4 id ++ natLE 1 len ++ zeros 1 ++
     natLE 2 r.replaced ++ natLE 2 r.misses ++ natLE 2 r.controls ++ natLE 2 r.discarded ++ zeros 2 ++ out,
   { st with queue := left })

/-- A stream of a partition's unit. -/
def streamOf (s : State) (p : Fin 4) (h : Nat) : Option TextStream := (psys s p).text.streams.find? (·.handle == h)

/-- The unit's data changed, and OPEN_N with it (Table 9.8). -/
def textMod (p : Fin 4) (f : TextSt → TextSt) : Upd :=
  .seq [.part p fun y => { y with text := f y.text },
    .read fun s => regMod .textCount1 p 0 fun w => setFld w 10 0 (psys s p).text.streams.length]

/-- A stream replaced. -/
def streamPut (p : Fin 4) (st : TextStream) : Upd :=
  textMod p fun t => { t with streams := t.streams.map fun x => if x.handle = st.handle then st else x }

/-- A stream's context freed. -/
def streamFree (p : Fin 4) (h : Nat) : Upd := textMod p fun t => { t with streams := t.streams.filter (·.handle != h) }

/-- The counts a command's work leaves in the text block and the Ledger. -/
def textCounts (p : Fin 4) (tenant : Nat) (r : TextRun) : Upd :=
  .seq [regCount .textCount0 p 0 63 32 r.replaced, regCount .textCount0 p 0 31 0 r.misses,
    regCount .textCount1 p 0 63 32 r.stops, regCount .textCount1 p 0 31 16 r.bad.isSome.toNat, ledger tenant 11 r.emitted]

/-! ### Permission and order -/

/-- Who may use class 0x07 (R287). -/
def textTenant : State → Fin 4 → Cmd → Bool := fun s p c => unitServes s 6 p.val c.tenant

/-- Whether a handle names a context of the command's tenant that takes it. -/
def streamMine (s : State) (p : Fin 4) (c : Cmd) (drainOk : Bool) : Bool :=
  match streamOf s p (par c 0 2) with
  | some t => t.tenant == c.tenant && (drainOk || t.state != .draining)
  | none => false

/-- Whether a text command must wait for another that names its stream: one accepted before it on its ring, or one of another ring that the
Steward admitted before it (R291). -/
def textBlocked (s : State) (p : Fin 4) (c : Cmd) : Bool :=
  (psys s p).cmds.any fun d => d.ref != c.ref && (d.opcode == 0x0703 || d.opcode == 0x0704 || d.opcode == 0x0705) &&
    par d 0 2 == par c 0 2 &&
    (if d.ring = c.ring then decide (d.ref < c.ref) else d.phase == .admitted && decide (d.order < c.order))

/-- Whether a command uses the vocabulary table: a lookup, a feed of tokens, a run of an object with DETOK (R304, R307). -/
def usesVocab (s : State) (p : Fin 4) (c : Cmd) : Bool :=
  match c.opcode with
  | 0x0703 => (streamOf s p (par c 0 2)).any (·.mode == 0)
  | 0x0706 => true
  | 0x0503 => ((psys s p).mill.objs.find? (·.handle == par c 0 2)).any fun o => o.ops.any (·.vop == 0x0E)
  | _ => false

/-- Whether the write of a new table waits: a command admitted before it that uses the table, or another load, has not ended (R304). -/
def tableBusy (s : State) (p : Fin 4) (c : Cmd) : Bool :=
  (psys s p).cmds.any fun d => d.ref != c.ref && decide (d.order < c.order) && (d.phase == .admitted || d.phase == .running) &&
    (usesVocab s p d || d.opcode == 0x0701)

/-- Whether a command that uses the table waits for a new one to be in force (R304). -/
def vocabWaits (s : State) (p : Fin 4) (c : Cmd) : Bool :=
  usesVocab s p c && ((psys s p).text.vocabNext.isSome ||
    (psys s p).cmds.any fun d => d.opcode == 0x0701 && d.phase == .admitted && d.ref != c.ref && decide (d.order < c.order))

/-- A handle of 0 to n − 1 that is not in use; which one is free. -/
def freeHandle (seed n : Nat) (used : List Nat) : Option Nat :=
  let l := (List.range n).filter fun i => !(used.contains i)
  if l.length ≤ 1 then l.head? else l[Config.pick seed l.length % l.length]?

/-! ### Commands -/

/-- VOCAB_LOAD (0x0701): an image outside memory of the tenant gets NOT_BOUND. -/
def specVocabLoad : OpSpec :=
  { permit := textTenant, len := fun _ _ _ => 8, body := fun _ _ _ => 8
    range := fun _ _ c => firstBad [(!(oneRow (par c 0 8) 0x800000), 64)]
    bound := fun s p c => accessNew s p c.tenant (par c 0 8) 0x800000 false == .ok }

/-- VOCAB_LOAD (R303, R304): the image verified and written; it waits for commands admitted before it that use the table. -/
def cmdVocabLoad (p : Fin 4) (ref : Nat) : Upd :=
  withCmd p ref 0x0701 fun c => .read fun s =>
    if tableBusy s p c then .skip
    else if cohDead s (unalias s (par c 0 8)) 0x800000 then postPlain p c stDomainFailed 0
    else
      let a := par c 0 8
      cohGate [(a, 0x800000, false)] <|
      match poisonIn s a 0x800000 with
      | some l => .seq [memErr .poison p (sourceCode .text) l,
          fault p (faultOf s p c { faultBase 0x0C 0 with addr := l }), postReply p c stPoisoned 0 []]
      | none =>
        let src := if regionOf (unalias s a) = .cellar then s.cellar else s.mem
        let img := Mem.slice src (unalias s a) 0x800000
        match (List.range 524288).find? (vocabBad img) with
        | some i => .seq [chargeRead s c.tenant a 0x800000, postReply p c stBadParam 0 (natLE 4 i ++ zeros 4)]
        | none => .seq [chargeRead s c.tenant a 0x800000, textMod p fun t => { t with vocabNext := some img },
            postReply p c stOk 0 (natLE 4 0xFFFFFFFF ++ zeros 4) 0 (frameNow s + 1)]

/-- At a Bell a written table comes into force (R303). -/
def vocabBell (p : Fin 4) (n : Nat) : Upd :=
  .read fun s => match (psys s p).text.vocabNext with
    | none => .skip
    | some t => .seq [textMod p fun x => { x with vocab := t, vocabNext := none }, .reg .textVocab p 0 (BitVec.ofNat 64 n)]

/-- The stop strings of a STREAM_OPEN from a parameter offset on: none where one runs past the block. -/
def stopStrings (b : Bytes) : Nat → Nat → Option (List Bytes)
  | 0, _ => some []
  | n + 1, off =>
    let l := byteAt b off
    if b.length < off + 1 + l then none
    else (stopStrings b n (off + 1 + l)).map (((b.drop (off + 1)).take l) :: ·)

/-- The length of a STREAM_OPEN's block. -/
def streamOpenLen (c : Cmd) : Nat :=
  match stopStrings c.params (min (par c 2 1) 8) 8 with
  | some l => 8 + roundUp ((l.map (·.length + 1)).sum) 8
  | none => 4097

/-- Whether a byte string contains another. -/
def contains' (bs t : Bytes) : Bool := (List.range (bs.length + 1)).any fun i => (bs.drop i).take t.length == t && t != []

/-- STREAM_OPEN (0x0702). -/
def specStreamOpen : OpSpec :=
  { permit := textTenant, len := fun _ _ c => streamOpenLen c, exact := fun _ _ _ => true, body := fun _ _ _ => 8
    range := fun _ _ c =>
      let l := (stopStrings c.params (min (par c 2 1) 8) 8).getD []
      let offs := (List.range l.length).map fun i => 72 + ((l.take i).map (·.length + 1)).sum
      firstBad ([(decide (2 < par c 0 1), 64),
        (decide (16 ≤ par c 1 1) || (par c 0 1 != 2 && decide (4 ≤ par c 1 1)), 65),
        (decide (8 < par c 2 1) || (par c 0 1 == 2 && par c 2 1 != 0), 66), (par c 3 5 != 0, 67)] ++
        (l.zip offs).map fun x => (x.1 == [] || decide (64 < x.1.length) || !(utf8Ok x.1) || contains' x.1 fffd, x.2))
    pool := fun s p _ => if (psys s p).text.streams.length < 1024 then none else some 0x0701 }

/-- STREAM_OPEN (R290). -/
def cmdStreamOpen (p : Fin 4) (ref : Nat) : Upd :=
  withCmd p ref 0x0702 fun c => .read fun s =>
    match freeHandle (opKey s.sys.free) 1024 ((psys s p).text.streams.map (·.handle)) with
    | none => postPlain p c stRetry 0x0701
    | some h => .seq [.sys fun y => { y with free := y.free + 1 },
        textMod p fun t => { t with streams := t.streams ++
          [⟨h, c.tenant, par c 0 1, par c 1 1, (stopStrings c.params (par c 2 1) 8).getD [], false, [], [], [], [], .opened, 0, 0xFF⟩] },
        postReply p c stOk 0 (natLE 2 h ++ zeros 6)]

/-- Bytes per unit of N of a feed of a stream. A handle that the tenant has not open does not say: the feed has the unit its length gives,
so that its end is NOT_BOUND and not the length's (R290). -/
def feedUnit (s : State) (p : Fin 4) (c : Cmd) : Nat :=
  match (streamOf s p (par c 0 2)).filter (·.tenant == c.tenant) with
  | some t => if t.mode = 0 then 4 else 1
  | none => if c.params.length = 8 + 4 * par c 4 4 then 4 else 1

/-- TEXT_FEED (0x0703). -/
def specTextFeed : OpSpec :=
  { permit := textTenant, len := fun s p c => 8 + feedUnit s p c * par c 4 4, exact := fun _ _ _ => true, body := fun _ _ _ => 32
    range := fun s p c => firstBad ([(par c 2 2 != 0, 66),
        (decide ((if feedUnit s p c = 4 then 1022 else 4088) < par c 4 4), 68)] ++
      (if feedUnit s p c = 4 then (List.range (min (par c 4 4) 1022)).map fun i => (decide (2 ^ 20 ≤ par c (8 + 4 * i) 4), 72 + 4 * i)
       else []))
    bound := fun s p c => streamMine s p c false
    pool := fun s p c => match streamOf s p (par c 0 2) with
      | some t => if 131072 < t.queue.length + 64 + (if t.mode = 0 then 96 else if t.mode = 1 then 3 else 6) * par c 4 4
          then some 0x0702 else none
      | none => none
    zero := fun s p c => if par c 4 4 = 0 then
        some (match streamOf s p (par c 0 2) with
          | some t => (textReply (TextRun.start t) t 32).1
          | none => []) else none }

/-- A command on a failed stream answered (Table 9.3). -/
def failedAnswer (p : Fin 4) (c : Cmd) (feed reject : Bool) (faultRef : Nat) : Upd :=
  if feed && reject then postPlain p c stBadParam 64 else postReply p c stContextReset 0 [] faultRef

/-- TEXT_FEED (R288 to R300). -/
def cmdTextFeed (p : Fin 4) (ref : Nat) : Upd :=
  withCmd p ref 0x0703 fun c => .read fun s =>
    if textBlocked s p c ∨ vocabWaits s p c then .skip
    else match streamOf s p (par c 0 2) with
      | none => postPlain p c stNotBound 0
      | some t => match t.state with
        | .failed rj f => failedAnswer p c true rj f
        | .draining => postPlain p c stNotBound 0
        | _ =>
          let r := feedRun (psys s p).text.vocab t (c.params.drop 8) 72
          match r.bad with
          | some d => .seq [textCounts p c.tenant r, streamPut p r.final, postPlain p c stBadParam d]
          | none =>
            let (b, t') := textReply r r.st c.bodyMax
            .seq [textCounts p c.tenant r, streamPut p t', postReply p c stOk 0 b]

/-- STREAM_READ (0x0704) and STREAM_CLOSE (0x0705). -/
def specStreamRead : OpSpec :=
  { permit := textTenant, len := fun _ _ _ => 8, body := fun _ _ _ => 32,
    range := fun _ _ c => firstBad [(par c 2 6 != 0, 66)], bound := fun s p c => streamMine s p c true }
def specStreamClose : OpSpec := { specStreamRead with bound := fun s p c => streamMine s p c false }

/-- STREAM_READ (Table 9.3): the queued output; a read that empties a draining stream frees it. -/
def cmdStreamRead (p : Fin 4) (ref : Nat) : Upd :=
  withCmd p ref 0x0704 fun c => .read fun s =>
    if textBlocked s p c then .skip
    else match streamOf s p (par c 0 2) with
      | none => postPlain p c stNotBound 0
      | some t => match t.state with
        | .failed _ f => failedAnswer p c false false f
        | _ =>
          let (b, t') := textReply (TextRun.start t) t c.bodyMax
          .seq [if t.state = .draining ∧ t'.queue = [] then streamFree p t.handle else streamPut p t', postReply p c stOk 0 b]

/-- STREAM_CLOSE (R295): the input ended, held-back bytes released; the context freed, or draining while output remains. -/
def cmdStreamClose (p : Fin 4) (ref : Nat) : Upd :=
  withCmd p ref 0x0705 fun c => .read fun s =>
    if textBlocked s p c then .skip
    else match streamOf s p (par c 0 2) with
      | none => postPlain p c stNotBound 0
      | some t => match t.state with
        | .failed _ _ =>
          .seq [streamFree p t.handle, postReply p c stOk 0 (textReply (TextRun.start t) { t with queue := [] } 32).1]
        | .opened =>
          let lost := t.reject && t.pending != []
          let r := (TextRun.start t).flush ⟨64, 0xFFFF, 0, 0, 0⟩
          let r := if r.hit.isSome then r else r.release
          let r := if t.mode = 2 ∧ nbit t.options 3 then r.emit (natLE 2 257) else r
          let r := if r.hit.isSome then r else { r with st := { r.st with endCode := 3 } }
          finishClose p c r lost
        | _ => finishClose p c (TextRun.start t) false
where
  /-- The reply of a close, and what becomes of the context. -/
  finishClose (p : Fin 4) (c : Cmd) (r : TextRun) (lost : Bool) : Upd :=
    let (b, t') := if lost then ([], r.st) else textReply r r.st c.bodyMax
    .seq [textCounts p c.tenant { r with bad := if lost then some 64 else none },
      if t'.queue = [] then streamFree p t'.handle else streamPut p { t' with state := .draining },
      if lost then postPlain p c stBadParam 64 else postReply p c stOk 0 b]

/-! ### Lookup and hashing -/

/-- The terms of a TERM_LOOKUP from a parameter offset on, with their packet offsets. -/
def termsOf (b : Bytes) : Nat → Nat → List (Nat × Bytes)
  | 0, _ => []
  | n + 1, off => (64 + off, (b.drop (off + 1)).take (byteAt b off)) :: termsOf b n (off + 1 + byteAt b off)

/-- ASCII upper case folded (R305). -/
def foldCase (bs : Bytes) : Bytes := bs.map fun b => if inRange b 0x41 0x5A then b + 0x20 else b

/-- TERM_LOOKUP (0x0706). -/
def specTermLookup : OpSpec :=
  { permit := textTenant, exact := fun _ _ _ => true
    len := fun _ _ c => 8 + ((termsOf c.params (min (par c 2 2) 512) 8).map fun t =>
      1 + byteAt c.params (t.1 - 64)).sum
    range := fun _ _ c => firstBad ([(decide (1 < par c 0 1), 64), (par c 1 1 != 0, 65), (decide (512 < par c 2 2), 66),
        (par c 4 4 != 0, 68)] ++
      (termsOf c.params (min (par c 2 2) 512) 8).map fun t => (t.2 == [] || decide (32 < t.2.length), t.1))
    body := fun _ _ c => 4 * par c 2 2
    zero := fun _ _ c => if par c 2 2 = 0 then some [] else none }

/-- TERM_LOOKUP (R305). -/
def cmdTermLookup (p : Fin 4) (ref : Nat) : Upd :=
  withCmd p ref 0x0706 fun c => .read fun s =>
    if vocabWaits s p c then .skip
    else
      let out := (termsOf c.params (par c 2 2) 8).map fun t =>
        (termId (psys s p).text.vocab (if nbit (par c 0 1) 0 then foldCase t.2 else t.2)).getD 0xFFFFFFFF
      .seq [ledger c.tenant 11 (4 * out.length), postReply p c stOk 0 (out.flatMap (natLE 4))]

/-- NGRAM_HASH (0x0707). -/
def specNgramHash : OpSpec :=
  { permit := textTenant, len := fun _ _ c => 8 + par c 4 2, exact := fun _ _ _ => true, body := fun _ _ _ => 8
    range := fun _ _ c => firstBad [(decide (1 < par c 0 1), 64), (par c 1 1 == 0 || decide (8 < par c 1 1), 65),
      (decide (par c 2 1 < par c 1 1) || decide (8 < par c 2 1), 66), (decide (par c 3 1 < 8) || decide (24 < par c 3 1), 67),
      (par c 6 2 != 0, 70)]
    zero := fun _ _ c => if par c 4 2 = 0 then some (zeros 8) else none }

/-- The characters of a byte string after validation, and the replacements made (R292, R306). -/
def utf8Chars (bs : Bytes) : List Bytes × Nat :=
  let r := bs.foldl (fun (a : List (Bool × Bytes) × Bytes) b => let x := utf8Step a.2 b; (a.1 ++ x.1, x.2)) ([], [])
  let l := r.1 ++ (if r.2 = [] then [] else [(true, fffd)])
  (l.map (·.2), l.countP (·.1))

/-- The buckets of every run of n characters, n_min to n_max. -/
def ngramBuckets (chars : List Bytes) (nMin nMax bits : Nat) : List Nat :=
  (List.range (nMax + 1 - nMin)).flatMap fun j =>
    let n := nMin + j
    (List.range (chars.length + 1 - n)).map fun i => fnv1a (0x811C9DC5 ^^^ n) ((chars.drop i).take n).flatten % 2 ^ bits

/-- NGRAM_HASH (R306). -/
def cmdNgramHash (p : Fin 4) (ref : Nat) : Upd :=
  withCmd p ref 0x0707 fun c =>
    let data := (c.params.drop 8).take (par c 4 2)
    let (chars, repl) := utf8Chars (if nbit (par c 0 1) 0 then foldCase data else data)
    let bs := ngramBuckets chars (par c 1 1) (par c 2 1) (par c 3 1)
    let distinct := sortBy (fun a b => decide (a < b)) bs.eraseDups
    let entries := distinct.flatMap fun b => natLE 4 (b + 2 ^ 24 * min 255 (bs.count b))
    let fit := (c.bodyMax - 8) / 4 * 4
    .seq [regCount .textCount0 p 0 63 32 repl, ledger c.tenant 11 (8 + min fit entries.length),
      postReply p c stOk (if fit < entries.length then 1 else 0)
        (natLE 4 distinct.length ++ natLE 4 bs.length ++ entries.take fit)]

def execVocabLoad (p : Fin 4) (ref : Nat) (s : State) : Host.Outcome State Fault Refusal := (cmdVocabLoad p ref).go s
def execStreamOpen (p : Fin 4) (ref : Nat) (s : State) : Host.Outcome State Fault Refusal := (cmdStreamOpen p ref).go s
def execTextFeed (p : Fin 4) (ref : Nat) (s : State) : Host.Outcome State Fault Refusal := (cmdTextFeed p ref).go s
def execStreamRead (p : Fin 4) (ref : Nat) (s : State) : Host.Outcome State Fault Refusal := (cmdStreamRead p ref).go s
def execStreamClose (p : Fin 4) (ref : Nat) (s : State) : Host.Outcome State Fault Refusal := (cmdStreamClose p ref).go s
def execTermLookup (p : Fin 4) (ref : Nat) (s : State) : Host.Outcome State Fault Refusal := (cmdTermLookup p ref).go s
def execNgramHash (p : Fin 4) (ref : Nat) (s : State) : Host.Outcome State Fault Refusal := (cmdNgramHash p ref).go s

end Sys2Proof.Machine
end

