-- ==== Sys2Proof/Machine/Vtc.lean ====
section
/-!
DEFINITION. VTC objects (chapter 8): the image, its checks at load (R217 to R220, R234, R239, R247, R266, R272), tensors in
memory, and the reading and writing of a tensor by a run.
-/

namespace Sys2Proof.Machine

/-! ### The image (Tables 8.4 to 8.7) -/

/-- A tensor descriptor read from its 64 bytes. -/
def tensorIn (b : Bytes) : Tensor :=
  { id := leAt b 0 4, fmt := byteAt b 4 % 16, u := nbit (byteAt b 4) 4, layout := byteAt b 5 % 4,
    group := 32 * 2 ^ nfld (byteAt b 5) 3 2, role := byteAt b 6, flags := byteAt b 7,
    dims := (List.range 4).map fun i => leAt b (8 + 4 * i) 4, data := leAt b 24 8, scale1 := leAt b 32 8,
    scale2 := leAt b 40 8, side := leAt b 48 8, sideN := leAt b 56 4 }

/-- An operation entry read from its 32 bytes. -/
def vopIn (b : Bytes) : VOp :=
  { vop := leAt b 0 2, sub := leAt b 2 2, a := leAt b 4 4, b := leAt b 8 4, out := leAt b 12 4, aux := leAt b 16 4,
    dir := byteAt b 20 }

def Tensor.d0 (t : Tensor) : Nat := t.dims.getD 0 1
def Tensor.d1 (t : Tensor) : Nat := t.dims.getD 1 1
/-- Matrices: the product of the two outer dimensions. -/
def Tensor.outer (t : Tensor) : Nat := t.dims.getD 2 1 * t.dims.getD 3 1
def Tensor.grouped (t : Tensor) : Bool := t.layout == 1 || t.layout == 2
def Tensor.guarded (t : Tensor) : Bool := nbit t.flags 1
def Tensor.transposed (t : Tensor) : Bool := nbit t.flags 2
def Tensor.frontOut (t : Tensor) : Bool := nbit t.flags 3
def Tensor.calib (t : Tensor) : Bool := nbit t.flags 0
def Tensor.hint (t : Tensor) : Nat := nfld t.flags 5 4

/-- Elements of a group, or of a run of 128 (R219), and how many of them a row has. -/
def Tensor.run (t : Tensor) : Nat := if t.grouped then t.group else 128
def Tensor.groups (t : Tensor) : Nat := ceilDiv t.d0 t.run

/-- Whether scales are inline after the values of each row (R223): a grouped tensor without a scale tensor. -/
def Tensor.inlined (t : Tensor) : Bool := t.grouped && t.scale1 == 0

/-- Bytes of a stored row's values, first-level and second-level scales. -/
def Tensor.valBytes (t : Tensor) : Nat := rowBytes t.fmt t.d0
def Tensor.s1Bytes (t : Tensor) : Nat := if t.grouped then t.groups else 0
def Tensor.s2Bytes (t : Tensor) : Nat := if t.layout = 1 then 4 * ceilDiv t.groups 16 else 0

/-- The stride of a stored row. -/
def Tensor.stride (t : Tensor) : Nat :=
  if t.inlined then roundUp (t.valBytes + t.s1Bytes + t.s2Bytes) 16 else t.valBytes

/-- The hash of R242. -/
def shadowHash (t r j : Nat) : Nat := (((r * 0x9E3779B1) ^^^ (j * 0x85EBCA77)) ^^^ t) % 2 ^ 32 * 0xC2B2AE3D % 2 ^ 32

/-- Whether a format is a 2-bit array operand, and whether it is an array operand (R217). -/
def twoBit (fmt : Nat) : Bool := fmt == 2 || fmt == 3
def arrayFmt (fmt : Nat) : Bool := fmt != 0 && fmt != 1 && fmt != 0xE && fmt != 0xF && decide (fmt < 16)

/-- Whether a tensor's format, U flag and layout go together (R191, R192, R218, R247, R266). -/
def tensorFmtOk (t : Tensor) : Bool :=
  fmtOk t.fmt t.u false &&
  (if t.layout = 0 then true
   else !(wideFmt t.fmt) && arrayFmt t.fmt && (t.layout == 3 || decide (t.group ≤ 128)) &&
     (!(twoBit t.fmt) || (t.layout != 3 && decide (t.group ≤ 64)))) &&
  !(t.transposed && t.grouped) && (!(twoBit t.fmt && t.role == 0) || (t.guarded && t.grouped))

/-- SUB codes allowed (Table 8.11). -/
def subOk (vop sub : Nat) : Bool :=
  match vop with
  | 0x03 => decide (1 ≤ sub) && decide (sub ≤ 11)
  | 0x04 => sub == 1 || sub == 2
  | 0x06 => decide (1 ≤ sub) && decide (sub ≤ 5)
  | _ => sub == 0

/-- Whether the operands of an array operation pair (R217, R220, R250, R251). -/
def pairOk (vop : Nat) (a b : Tensor) : Bool :=
  let kv := vop == 2 && wideFmt a.fmt && b.layout == 1
  if kv then b.fmt == 9 || b.fmt == 8 || b.fmt == 4
  else arrayFmt a.fmt && a.fmt == b.fmt && (!(twoBit a.fmt) || (a.grouped && b.grouped && decide (a.group ≤ 64))) &&
    (!(a.grouped && b.grouped) || (a.layout == b.layout && a.group == b.group))

/-- Whether R234's exact path applies: two integer operands of layout NONE and an INT32 output. -/
def exactInts (a b out : Tensor) : Bool :=
  let int (f : Nat) : Bool := f == 2 || f == 3 || f == 4 || f == 8
  int a.fmt && int b.fmt && a.layout == 0 && b.layout == 0 && out.fmt == 0xE

/-- Whether an operation entry is sound for a tensor table. -/
def vopOk (ts : List Tensor) (o : VOp) : Bool :=
  let t (i : Nat) : Option Tensor := ts.find? (·.id == i)
  decide (1 ≤ o.vop) && decide (o.vop ≤ 0x11) && subOk o.vop o.sub && decide (o.dir ≤ 1) &&
  (o.vop == 0x11 || (t o.a).isSome) && (o.b == 0 || (t o.b).isSome) &&
  (o.vop == 0x10 || o.vop == 0x11 || (t o.out).any fun x => x.role == 2 || x.role == 3) &&
  (if o.vop = 1 ∨ o.vop = 2 then
     match t o.a, t o.b with
     | some a, some b => pairOk o.vop a b &&
         decide (a.d0 ≤ 2 ^ 24 ∨ !((t o.out).any fun x => exactInts a b x))
     | _, _ => false
   else if o.vop = 9 then
     match t o.a, t o.out with
     | some a, some x => a.fmt == x.fmt && (a.fmt == 0xD || (a.fmt == 0xE && !a.u)) && a.layout == 0 && x.layout == 0
     | _, _ => false
   else if o.vop = 0xB ∨ o.vop = 0xC then decide (o.aux ≤ 4096)
   else if o.vop = 0xA then (t o.a).any (·.fmt == 1) && (t o.b).any (·.fmt == 1)
   else true)

/-- A tensor's side list, as row, column and BF16 code (Table 7.7). -/
def sideIn (img : Bytes) (off n : Nat) : List (Nat × Nat × Nat) :=
  (List.range n).map fun i => let w := leAt img (off + 8 * i) 8; (nfld w 47 24, nfld w 23 0, nfld w 63 48)

/-- Whether a side list is in order, with at most 64 entries in a row and 4 in a group (R239). -/
def sideOk (t : Tensor) (l : List (Nat × Nat × Nat)) : Bool :=
  let key (e : Nat × Nat × Nat) : Nat := e.1 * 2 ^ 24 + e.2.1
  (l.zip (l.drop 1)).all (fun x => decide (key x.1 < key x.2)) &&
  l.all fun e =>
    decide ((l.countP fun f => f.1 == e.1) ≤ 64) &&
    decide ((l.countP fun f => f.1 == e.1 && f.2.1 / t.run == e.2.1 / t.run) ≤ 4)

/-- The groups that R242 selects, in the order of the shadow table (R272). -/
def shadowKeys (ts : List Tensor) : List (Tensor × Nat × Nat) :=
  (sortBy (fun a b => decide (a.id < b.id)) (ts.filter fun t => t.role == 0 && t.guarded && t.grouped)).flatMap fun t =>
    (List.range (t.d1 * t.outer)).flatMap fun r =>
      ((List.range t.groups).filter fun j => shadowHash t.id r j % 64 == 0).map fun j => (t, r, j)

/-- The shadow table read: none where a record is not the one expected, or does not lie in the image. -/
def shadowsIn (img : Bytes) : List (Tensor × Nat × Nat) → Nat → Option (List Shadow)
  | [], _ => some []
  | (t, r, j) :: rest, off =>
    if off + roundUp (16 + t.group) 16 ≤ img.length ∧ leAt img off 4 = t.id ∧ leAt img (off + 4) 4 = r ∧ leAt img (off + 8) 4 = j then
      (shadowsIn img rest (off + roundUp (16 + t.group) 16)).map
        (⟨t.id, r, j, leAt img (off + 12) 4, (List.range t.group).map fun i => byteAt img (off + 16 + i)⟩ :: ·)
    else none

/-- Whether a weight tensor's values and scales, and any tensor's side list, lie in the image of `n` bytes (Tables 8.4, 8.5, R223);
`sideOff` is SIDE_OFF. -/
def tensorInside (n sideOff : Nat) (t : Tensor) : Bool :=
  let rows := t.d1 * t.outer
  t.dims.all (fun d => decide (1 ≤ d)) &&
  (t.role != 0 || (decide (t.data + t.stride * rows ≤ n) && (t.inlined || !t.grouped || decide (t.scale1 + roundUp t.s1Bytes 16 * rows ≤ n)) &&
    (t.inlined || t.layout != 1 || decide (t.scale2 + roundUp t.s2Bytes 16 * rows ≤ n)))) &&
  (t.sideN == 0 || (sideOff != 0 && decide (sideOff + t.side + 8 * t.sideN ≤ n)))

/-- An object's image read and checked (R272): none where it is refused. `n` is OBJ_BYTES of the command, `mills` the Mills
bound to the tenant (R43, R274). -/
def objIn (img : Bytes) (n mills : Nat) (handle tenant addr : Nat) (placed : List Nat) : Option VObj :=
  let nt := leAt img 16 2
  let no := leAt img 18 2
  let win := leAt img 20 4
  let upTo := leAt img 24 8
  let oo := leAt img 32 8
  let tb := (List.range nt).map fun i => (img.drop (upTo + 64 * i)).take 64
  let ob := (List.range no).map fun i => (img.drop (oo + 32 * i)).take 32
  let ts := tb.map tensorIn
  let os := ob.map vopIn
  let sides := ts.map fun t => (t.id, sideIn img (leAt img 48 8 + t.side) t.sideN)
  let keys := shadowKeys ts
  let sh := if leAt img 40 8 = 0 then (if keys = [] then some [] else none) else shadowsIn img keys (leAt img 40 8)
  let hot := ((ts.filter fun t => t.role == 3 && t.hint == 1).map fun t => t.stride * t.d1 * t.outer).sum
  let ok :=
    img.take 4 == [0x56, 0x54, 0x43, 0x31] && leAt img 4 2 == 0x0100 && leAt img 6 2 == 0 && leAt img 8 8 == n &&
    decide (1 ≤ nt) && decide (nt ≤ 4096) && decide (1 ≤ no) && decide (no ≤ 16384) && decide (win ≤ 1835008) &&
    decide (upTo + 64 * nt ≤ n) && decide (oo + 32 * no ≤ n) && decide (1 ≤ leAt img 56 2) && decide (leAt img 56 2 ≤ 192) &&
    decide (leAt img 56 2 ≤ mills) && leAt img 58 6 == 0 && decide (hot ≤ win * leAt img 56 2) &&
    tb.all (fun b => decide (byteAt b 4 < 32) && decide (byteAt b 5 < 16) && decide (nfld (byteAt b 5) 3 2 ≤ 2) &&
      decide (byteAt b 6 ≤ 3) && decide (byteAt b 7 < 64) && leAt b 60 4 == 0) &&
    ob.all (fun b => leAt b 21 8 == 0 && leAt b 29 3 == 0) &&
    (ts.map (·.id)).eraseDups.length == nt && ts.all tensorFmtOk && ts.all (tensorInside n (leAt img 48 8)) && os.all (vopOk ts) &&
    (ts.zip sides).all (fun x => (x.2.2 == [] || decide (fmtBits x.1.fmt ≤ 8)) && sideOk x.1 x.2.2)
  match sh with
  | some sh => if ok then some ⟨handle, tenant, addr, win, placed, ts, os, sides.filter (·.2 != []), sh, false⟩ else none
  | none => none

/-! ### Tensors of a run -/

def VObj.tensor (o : VObj) (id : Nat) : Option Tensor := o.tensors.find? (·.id == id)

/-- The rows per matrix a tensor has in a run: an input with an unused second dimension has ROWS of them; an output or
intermediate has those of the operation that wrote it. -/
def VRun.shape (r : VRun) (t : Tensor) : Nat × Nat :=
  match r.shapes.find? (·.1 == t.id) with
  | some (_, per, outer) => (per, outer)
  | none => if t.role ≠ 0 ∧ t.d1 = 1 then (r.rows, t.outer) else (t.d1, t.outer)

/-! ### Front layout (Tables 8.2 and 8.3, R254 to R256, R263) -/

/-- Consecutive elements of the reduction in a slot, and the bytes of a tile of 4 slots by 4 columns. -/
def slotElems (fmt : Nat) : Nat := if fmt = 4 ∨ fmt = 5 then 4 else if twoBit fmt then 8 else 1
def tileBytes (fmt : Nat) : Nat := if fmt = 0xD then 64 else if fmtBits fmt = 8 ∨ fmtBits fmt = 6 then 16 else 32

/-- The smallest fold at which a group of g elements fits within the reduction depth. -/
def foldOf (fmt g : Nat) : Nat := if wideFmt fmt ∨ slotElems fmt ≠ 1 then 1 else g / 32

/-- The matrices of a stationary operand as the arrays take them: output columns, and elements along the reduction. -/
def Tensor.columns (t : Tensor) (per : Nat) : Nat := if t.transposed then t.d0 else per
def Tensor.depth (t : Tensor) (per : Nat) : Nat := if t.transposed then per else t.d0

/-- Columns and elements along the reduction that a weight set of a whole Mill takes. -/
def Tensor.setCols (t : Tensor) : Nat := 32 / foldOf t.fmt t.run
def Tensor.setDepth (t : Tensor) : Nat := 32 * foldOf t.fmt t.run * slotElems t.fmt

/-- Weight sets of one matrix, by columns and along the reduction. -/
def Tensor.setsDeep (t : Tensor) (per : Nat) : Nat := ceilDiv (t.depth per) t.setDepth
def Tensor.setsOf (t : Tensor) (per : Nat) : Nat := ceilDiv (t.columns per) t.setCols * t.setsDeep per

/-- Where the element of column n and place k along the reduction lies in front layout: the tile, counted from the matrix's first, and
the place in the tile, slot by slot and column by column within a slot (the order within a tile is a DESIGN CHOICE, log 121). -/
def Tensor.place (t : Tensor) (per n k : Nat) : Nat × Nat :=
  let f := foldOf t.fmt t.run
  let p := slotElems t.fmt
  let pos := k % t.setDepth / (4 * p)
  let set := n / t.setCols * t.setsDeep per + k / t.setDepth
  (64 * set + 8 * (n % t.setCols / 4 * f + pos / 8) + pos % 8, (k % (4 * p) / p * 4 + n % 4) * p + k % p)

/-- The bits of an element's container in a tile: FP6A and FP6B lie in 8-bit containers. -/
def tileBits (fmt : Nat) : Nat := if fmtBits fmt = 6 then 8 else fmtBits fmt

/-- Whether a tensor is written in front layout in memory: an output with FRONT_OUT whose scales are not inline. -/
def Tensor.inFront (t : Tensor) : Bool := t.role == 2 && t.frontOut && !t.inlined

/-- The bytes of a matrix's values in front layout; places no element takes hold code 0. -/
def frontBytes (t : Tensor) (rows : List TRow) : Bytes :=
  let per := rows.length
  let cells := (indexed rows).flatMap fun r => (indexed r.2.codes).map fun c =>
    (if t.transposed then t.place per c.1 r.1 else t.place per r.1 c.1, c.2)
  (List.range (64 * t.setsOf per)).flatMap fun i =>
    natLE (tileBytes t.fmt) ((cells.filter (·.1.1 == i)).map fun c => c.2 * 2 ^ (tileBits t.fmt * c.1.2)).sum

/-- A row's codes read from a matrix's values in front layout. -/
def frontRow (t : Tensor) (per : Nat) (bytes : Bytes) (row : Nat) : List Nat :=
  (List.range t.d0).map fun j =>
    let at' := if t.transposed then t.place per j row else t.place per row j
    leAt bytes (at'.1 * tileBytes t.fmt) (tileBytes t.fmt) / 2 ^ (tileBits t.fmt * at'.2) % 2 ^ fmtBits t.fmt

/-- Bytes of a matrix's values as they lie in memory. -/
def Tensor.matBytes (t : Tensor) (per : Nat) : Nat := if t.inFront then 64 * t.setsOf per * tileBytes t.fmt else t.stride * per

/-! ### Tensors in memory -/

/-- The address of a tensor's values, and of its scales. -/
def VRun.addr (r : VRun) (o : VObj) (t : Tensor) : Nat :=
  if t.role = 0 then o.addr + t.data else ((r.binds.find? (·.1 == t.id)).map (·.2)).getD t.data
def scaleAddr (o : VObj) (t : Tensor) (a : Nat) : Nat := if t.role = 0 then o.addr + a else a

/-- The memory ranges a tensor of a run takes, values first. -/
def VRun.ranges (r : VRun) (o : VObj) (t : Tensor) : List (Nat × Nat) :=
  let (per, outer) := r.shape t
  let n := per * outer
  (r.addr o t, t.matBytes per * outer) ::
  (if t.inlined then [] else
    (if t.grouped then [(scaleAddr o t t.scale1, roundUp t.s1Bytes 16 * n)] else []) ++
    (if t.layout = 1 then [(scaleAddr o t t.scale2, roundUp t.s2Bytes 16 * n)] else []))

/-- A row of codes and scales read from its bytes. -/
def rowIn (t : Tensor) (vals s1 s2 : Bytes) : TRow :=
  { codes := (List.range t.d0).map (elemAt t.fmt vals),
    s1 := (List.range t.s1Bytes).map (byteAt s1), s2 := (List.range (t.s2Bytes / 4)).map fun i => leAt s2 (4 * i) 4 }

/-- What a run's streams have moved of a tensor: of weights once for the run, of an input for the operation that runs (R271). -/
def VRun.moved (r : VRun) (m : MillSt) (t : Tensor) : Bytes :=
  ((m.streams.find? fun x => x.run == r.id && x.tensor == t.id && (t.role == 0 || x.op == r.op)).map (·.data)).getD []

/-- A tensor read by a run: what its stream has moved already, the rest from memory, or an intermediate; one that nothing
has written holds free codes. -/
def readTensor (s : State) (p : Fin 4) (o : VObj) (r : VRun) (t : Tensor) : TVal :=
  let (per, outer) := r.shape t
  let n := per * outer
  if t.role = 3 then
    ((r.inter.find? (·.1 == t.id)).map (·.2)).getD
      ⟨per, (List.range n).map fun i => ⟨(List.range t.d0).map fun j => Config.pick (opKey s.sys.free + i * t.d0 + j) (2 ^ fmtBits t.fmt),
        List.replicate t.s1Bytes 0, List.replicate (t.s2Bytes / 4) 0⟩, t.scale2 % 2 ^ 32⟩
  else
    let a := r.addr o t
    let got := r.moved (psys s p).mill t
    let bytes (i : Nat) : Bytes :=
      let off := i * t.stride
      if off + t.stride ≤ got.length then (got.drop off).take t.stride else memBytes s (a + off) t.stride
    let scales (i : Nat) : Bytes × Bytes :=
      (if t.grouped then memBytes s (scaleAddr o t t.scale1 + roundUp t.s1Bytes 16 * i) t.s1Bytes else [],
       if t.layout = 1 then memBytes s (scaleAddr o t t.scale2 + roundUp t.s2Bytes 16 * i) t.s2Bytes else [])
    let row (i : Nat) : TRow :=
      if t.inFront then
        { rowIn t [] (scales i).1 (scales i).2 with
          codes := frontRow t per (memBytes s (a + i / per * t.matBytes per) (t.matBytes per)) (i % per) }
      else
        let b := bytes i
        if t.inlined then rowIn t b (b.drop t.valBytes) (b.drop (t.valBytes + t.s1Bytes)) else rowIn t b (scales i).1 (scales i).2
    ⟨per, (List.range n).map row, t.scale2 % 2 ^ 32⟩

/-- A row as an operand of the accumulation pipeline. -/
def TRow.operand (t : Tensor) (st : Nat) (side : List (Nat × Nat)) (r : TRow) : Row :=
  { fmt := t.fmt, u := t.u, layout := t.layout, g := t.group, codes := r.codes, s1 := r.s1, s2 := r.s2, st, side }

/-- The exact values of a row (R221). -/
def TRow.values (t : Tensor) (st : Nat) (r : TRow) : List Num :=
  let w := r.operand t st []
  (List.range r.codes.length).map w.value

/-- A row's FP32 codes with the flags of their conversion (R209); FP32 elements as they are stored. -/
def TRow.f32s (t : Tensor) (st : Nat) (r : TRow) : List (Nat × FlagN) :=
  if t.fmt = 0xD then r.codes.map fun c => (c, .none) else (r.values t st).map toF32

/-- A row's bytes: values, first-level and second-level scales. -/
def rowOut (t : Tensor) (r : TRow) : Bytes × Bytes × Bytes :=
  (packRow t.fmt r.codes, r.s1.flatMap (natLE 1), r.s2.flatMap (natLE 4))

/-! ### Writes of a run -/

/-- Whether a byte lies in one of some ranges. -/
def inRanges (l : List (Nat × Nat)) (a : Nat) : Bool := l.any fun x => decide (x.1 ≤ a) && decide (a < x.1 + x.2)

/-- The memory that runs of an object in flight with a run have written. -/
def VRun.others (r : VRun) (m : MillSt) : List (Nat × Nat) :=
  (m.runs.filter fun x => x.id != r.id && x.handle == r.handle).flatMap (·.wrote) ++ r.peers

/-- What a run's store leaves at an address: its bytes, and unspecified ones where another run in flight with it has written (R280). -/
def runBytes (s : State) (p : Fin 4) (r : VRun) (a : Nat) (b : Bytes) : Bytes :=
  let l := r.others (psys s p).mill
  if l.isEmpty then b
  else (indexed (b.zip (freeBytes b.length (opKey s.sys.free + 2 ^ 62 + a)))).map fun x => if inRanges l (a + x.1) then x.2.2 else x.2.1

/-- A run's store. -/
def runStore (p : Fin 4) (r : VRun) (a : Nat) (b : Bytes) : Upd := .read fun s => memStore a (runBytes s p r a b)

/-- A run changed. -/
def runMod (p : Fin 4) (id : Nat) (f : VRun → VRun) : Upd :=
  .part p fun y => { y with mill := { y.mill with runs := y.mill.runs.map fun r => if r.id = id then f r else r } }

/-- A run once a tensor it writes has the rows per matrix of what is written. -/
def VRun.shaped (r : VRun) (t : Tensor) (v : TVal) : VRun :=
  { r with shapes := (t.id, v.per, if v.per = 0 then t.outer else v.rows.length / v.per) :: r.shapes.filter (·.1 != t.id) }

/-- The values of a tensor in memory written: by row, or matrix by matrix in front layout (R263). -/
def writeValues (p : Fin 4) (r : VRun) (t : Tensor) (a : Nat) (v : TVal) : Upd :=
  if t.inFront then
    .each (indexed (cut (max 1 v.per) v.rows)) fun x => runStore p r (a + x.1 * t.matBytes v.per) (frontBytes t x.2)
  else .each (indexed v.rows) fun x =>
    let (b, s1, s2) := rowOut t x.2
    runStore p r (a + x.1 * t.stride) (if t.inlined then padTo t.stride (b ++ s1 ++ s2) else b)

/-- A tensor written by a run: to memory for an output, to the run for an intermediate. -/
def writeTensor (p : Fin 4) (o : VObj) (r : VRun) (t : Tensor) (v : TVal) : Upd :=
  if t.role = 3 then runMod p r.id fun r => { r.shaped t v with inter := (t.id, v) :: r.inter.filter (·.1 != t.id) }
  else
    let a := r.addr o t
    .seq [runMod p r.id fun r => r.shaped t v,
      writeValues p r t a v,
      .when (!t.inlined) (.each (indexed v.rows) fun x =>
        let (_, s1, s2) := rowOut t x.2
        .seq [.when t.grouped (runStore p r (t.scale1 + roundUp t.s1Bytes 16 * x.1) (padTo (roundUp t.s1Bytes 16) s1)),
          .when (t.layout == 1) (runStore p r (t.scale2 + roundUp t.s2Bytes 16 * x.1) (padTo (roundUp t.s2Bytes 16) s2))]),
      .read fun s => chargeWrite s r.tenant a (t.matBytes v.per * ceilDiv v.rows.length (max 1 v.per))]

end Sys2Proof.Machine
end

