-- ==== Sys2Proof/Machine/Vops.lean ====
section
/-!
DEFINITION. The VTC operations as functions of their operands (Table 8.11): the array products, the epilogue unit's
operations, the moves, the Sorter's operations, the drift guard's samples and the calibration statistics.
-/

namespace Sys2Proof.Machine

/-! ### Outputs -/

/-- The flags of one element: SAT counts once, however many stages and encodings saturated (R233). -/
def FlagN.once (f : FlagN) : FlagN := { f with sat := min 1 f.sat }

/-- Rows of values with their stage flags turned into an output tensor's rows (stage 7; R202, R203, R225, R233). The tensor scale of
layout TENSOR is converted once. -/
def finishWith (t : Tensor) (per : Nat) (rows : List (List (Num × FlagN))) : TVal × FlagN :=
  let amax := groupMax (rows.flatten.map (·.1))
  let encs := rows.map fun l => (encodeParts t.fmt t.u t.layout t.group amax (l.map (·.1)), l.map (·.2))
  let elems := encs.flatMap fun x => List.zipWith (fun a b => (a.add b).once) x.2 x.1.elems
  let scales := if t.layout = 3 then (encs.take 1).map (·.1.scales) else encs.map (·.1.scales)
  (⟨per, encs.map fun x => ⟨x.1.enc.codes, if t.grouped then x.1.enc.s1 else [], if t.layout = 1 then x.1.enc.s2 else []⟩,
    if t.layout = 3 then (encs.head?.map fun x => x.1.enc.s2.headD 0).getD 0 else 0⟩, flagSum (elems ++ scales))

/-- Rows of FP32 results with their stage flags, as an output. -/
def finishRows (t : Tensor) (per : Nat) (rows : List (List (Nat × FlagN))) : TVal × FlagN :=
  finishWith t per (rows.map fun l => l.map fun x => (f32 x.1, x.2))

/-- Rows of exact values as an output (CONVERT: one rounding, R202). -/
def finishExact (t : Tensor) (per : Nat) (rows : List (List Num)) : TVal × FlagN :=
  finishWith t per (rows.map fun l => l.map fun x => (x, .none))

/-- Rows of raw bytes placed in an output tensor as they are. -/
def finishRaw (t : Tensor) (per : Nat) (rows : List Bytes) : TVal :=
  ⟨per, rows.map fun b => rowIn t b [] [], 0⟩

/-! ### Array products (R229 to R234) -/

/-- A tensor's codes with its two inner dimensions exchanged (R266). -/
def transposeRows (rows : List TRow) (n : Nat) : List TRow :=
  (List.range n).map fun j => ⟨rows.map fun r => r.codes.getD j 0, [], []⟩

/-- The rows of a stationary operand, along its reduction, as operands; `side` gives a row's side list. -/
def stationary (t : Tensor) (v : TVal) (rows : List TRow) (side : Nat → List (Nat × Nat)) : List Row :=
  let rs := if t.transposed then transposeRows rows t.d0 else rows
  (indexed rs).map fun x => x.2.operand t v.st (side x.1)

/-- The flags of elements read as TRN2 code 0b10 (R194), once for each element; the codes of a group whose first-level scale is 0 are
not read (R222). -/
def badCodes (t : Tensor) (v : TVal) : FlagN :=
  let bad (r : TRow) : Nat :=
    let w := r.operand t v.st []
    (indexed r.codes).countP fun x => x.2 == 2 && !(w.scale1 (x.1 / t.group)).isZero
  { bad := if t.fmt = 2 then (v.rows.map bad).sum else 0 }

/-- One output element: FP32 with its flag, or exact under R234. -/
def productElem (exact : Bool) (key : Nat) (a b : Row) : Nat × FlagN × Num :=
  if exact then (0, .none, dotInts a b) else let d := dotRows key a b; (d.1, d.2, num0)

/-- Two matrices as the feeders give them to the arrays: streamed and stationary rows along the reduction, the streamed operand's
source values where a feeder encodes it (R243), and the flags of what the feeders convert (R209). -/
structure MatPair where
  as : List Row
  bs : List Row
  src : List (List Num)
  flags : FlagN
  deriving DecidableEq, Repr

/-- The product of streamed rows and stationary rows, out[m][n]: the output's rows, flags, and the values before their conversion. -/
def productRows (out : Tensor) (key : Nat) (per : Nat) (exact : Bool) (mats : List MatPair) : TVal × FlagN × List (List Num) :=
  let els := (indexed mats).flatMap fun mt => (indexed mt.2.as).map fun am => (indexed mt.2.bs).map fun bn =>
    productElem exact (key + ((mt.1 * 2 ^ 40 + am.1) * 2 ^ 24 + bn.1) * 2 ^ 48) am.2 bn.2
  let vals := els.map fun l => l.map fun x => if exact then x.2.2 else f32 x.1
  let r := finishWith out per (els.map fun l => l.map fun x => (if exact then x.2.2 else f32 x.1, x.2.1))
  (r.1, r.2, vals)

/-- A row of values as a BF16 operand, each converted with one rounding (R251), and the flags of the conversions. -/
def bf16Row (xs : List Num) : Row × FlagN :=
  let cs := xs.map (convert 0xC false)
  ({ fmt := 0xC, u := false, layout := 0, g := 128, codes := cs.map (·.1), s1 := [], s2 := [], st := 0, side := [] }, flagSum (cs.map (·.2)))

/-- Whether a wide A against a grouped B is the product Q · K of attention: one innermost dimension, and a format of K records; INT4
records hold V (R250, R251; DEDUCED, log 136). -/
def keysOf (a b : Tensor) : Bool := a.d0 == b.d0 && b.fmt != 4

/-- The matrices of a BMATMUL. A wide A against a grouped B is attention: against keys the feeder encodes A to B's format (R250); against
values B reduces over its rows, each element converted to BF16 (R251). -/
def batchMats (a b : Tensor) (va vb : TVal) : List MatPair :=
  let am := cut (max 1 va.per) va.rows
  let bm := cut (max 1 vb.per) vb.rows
  (am.zip bm).map fun (ar, br) =>
    if wideFmt a.fmt && b.grouped then
      let src := ar.map fun r => r.values a va.st
      if keysOf a b then
        let encs := src.map (encodeRow b.fmt b.u b.layout b.group num0)
        ⟨encs.map fun e => (⟨e.1.codes, e.1.s1, e.1.s2⟩ : TRow).operand b 0 [], br.map fun r => r.operand b vb.st [], src,
          flagSum (encs.map (·.2))⟩
      else
        let cols := br.map fun r => r.values b vb.st
        let x := src.map bf16Row
        let y := (List.range b.d0).map fun j => bf16Row (cols.map fun c => c.getD j num0)
        ⟨x.map (·.1), y.map (·.1), [], flagSum (x.map (·.2) ++ y.map (·.2))⟩
    else ⟨ar.map fun r => r.operand a va.st [], stationary b vb br fun _ => [], [], .none⟩

/-! ### Weight sets (Tables 8.2 and 8.17) -/

/-- What a product's weight sets depend on: the format of its operands as the arrays take them, the elements of a group or run, and
whether an output takes two accumulators (R220, R256, R259). -/
structure SetKind where
  fmt : Nat
  g : Nat
  two : Bool
  deriving DecidableEq, Repr

/-- The kind of the product of some rows. -/
def kindOf (as bs : List Row) : SetKind :=
  let grouped (r : Row) : Bool := r.layout == 1 || r.layout == 2
  match as.head?, bs.head? with
  | some a, some b => ⟨b.fmt, if grouped a then a.g else if grouped b then b.g else 128, a.layout == 1 || b.layout == 1⟩
  | _, _ => ⟨8, 128, false⟩

/-- The physical columns of the segment an operation runs on, free among those R260 allows: fold 4 needs 4 or 8. -/
def segmentCols (seed : Nat) (k : SetKind) : Nat :=
  if foldOf k.fmt k.g = 4 then 4 * (1 + Config.pick seed 2 % 2) else 2 * (1 + Config.pick seed 4 % 4)

/-- Weight sets of a product of m rows with n columns along a reduction of k on a segment of some physical columns. -/
def weightSets (kd : SetKind) (cols m k n : Nat) : Nat :=
  let f := foldOf kd.fmt kd.g
  let nw := 4 * cols / f
  ceilDiv k (32 * f * slotElems kd.fmt) * ceilDiv n nw * ceilDiv m (16384 / (nw * (if kd.two then 2 else 1)))

/-! ### The epilogue unit -/

/-- An element as the epilogue unit takes it: its exact value, its FP32 code, and the flags of that conversion (R209). -/
structure Elem where
  num : Num
  code : Nat
  flags : FlagN
  deriving DecidableEq, Repr

/-- A row's elements. -/
def TRow.elems (t : Tensor) (st : Nat) (r : TRow) : List Elem :=
  List.zipWith (fun x c => ⟨x, c.1, c.2⟩) (r.values t st) (r.f32s t st)

/-- One EWISE element (R282). A maximum or minimum compares the exact values of its operands, and only the one chosen is rounded
(R212, R213, R215). -/
def ewiseElem (sub : Nat) (a b : Elem) : Nat × FlagN :=
  let with' (both : Bool) (r : Nat × FlagN) : Nat × FlagN := (r.1, (r.2.add (if both then a.flags.add b.flags else a.flags)).once)
  match sub with
  | 1 => with' true (f32Add a.code b.code)
  | 2 => with' true (toF32 (numAdd (f32 a.code) (f32 b.code).neg))
  | 3 => with' true (f32Mul a.code b.code)
  | 4 => toF32 (numMax a.num b.num)
  | 5 => toF32 (numMin a.num b.num)
  | _ => with' false (approxFn sub a.code)

/-- EWISE: a second operand with fewer elements repeats. -/
def ewiseRows (sub : Nat) (a b : List (List Elem)) : List (List (Nat × FlagN)) :=
  let flat := b.flatten
  let w := (a.head?.map (·.length)).getD 0
  let zero : Elem := ⟨num0, 0, .none⟩
  (indexed a).map fun r => (indexed r.2).map fun x =>
    ewiseElem sub x.2 (if flat = [] then zero else flat.getD ((r.1 * w + x.1) % flat.length) zero)

/-- The index of the largest or smallest element by exact value, the lowest among equals (R212, R213, R215). -/
def bestIndex (hi : Bool) (row : List Elem) : Nat :=
  (indexed row).foldl (fun a x =>
    let y := (row.getD a ⟨num0, 0, .none⟩).num
    if y.isNan && !x.2.num.isNan then x.1
    else if if hi then numLt y x.2.num else numLt x.2.num y then x.1 else a) 0

/-- The largest or smallest element: of zeros of both signs the sign is free, and so is the sign of a NaN (R213). -/
def extreme (hi : Bool) (seed : Nat) (row : List Elem) : Num :=
  match (row.getD (bestIndex hi row) ⟨num0, 0, .none⟩).num with
  | .nan _ => .nan (Config.nanSign seed 9)
  | .fin neg 0 e =>
    if row.any fun x => match x.num with | .fin n 0 _ => n != neg | _ => false then .fin (Config.pick seed 2 % 2 == 1) 0 e
    else .fin neg 0 e
  | x => x

/-- One row reduced (R212, R213, R282): a sum in a free order, a maximum, a minimum, or the lowest index of one. -/
def reduceRow (sub seed : Nat) (row : List Elem) : Num × FlagN :=
  match sub with
  | 1 => let r := sumTerms seed (row.map (·.code)); (f32 r.1, (r.2.add (flagSum (row.map (·.flags)))).once)
  | 2 => (extreme true seed row, .none)
  | 3 => (extreme false seed row, .none)
  | 4 => (.fin false (bestIndex true row) 0, .none)
  | _ => (.fin false (bestIndex false row) 0, .none)

/-- An FP32 quotient, rounded once (R201), with the special results of IEEE 754. -/
def f32Div (a b : Nat) : Nat × FlagN :=
  let nan := toF32 (.nan (Config.nanSign a 10))
  match f32 a, f32 b with
  | .nan _, _ => nan
  | _, .nan _ => nan
  | .inf _, .inf _ => nan
  | .inf x, .fin y _ _ => toF32 (.inf (x != y))
  | .fin x _ _, .inf y => toF32 (.fin (x != y) 0 0)
  | .fin x m e, .fin y n f => if n = 0 then (if m = 0 then nan else toF32 (.inf (x != y))) else toF32 (numQuot (.fin x m e) (.fin y n f))

/-- A row of SOFTMAX at an FP32 temperature (R282): the exponentials of the distances to the largest element over the temperature, each
within its bound, over their sum in a free order. -/
def softmaxRow (seed temp : Nat) (row : List Elem) : List (Nat × FlagN) :=
  let m := extreme true seed row
  let es := row.map fun x => expOver 10 [x.code, (toF32 m).1, temp] (numAdd x.num m.neg) temp
  let sum := sumTerms seed (es.map (·.1))
  List.zipWith (fun x e =>
    let q := f32Div e.1 sum.1
    (q.1, { ((q.2.add x.flags).add { sat := sum.2.sat + e.2.sat }).once with flush := min 1 (q.2.flush + e.2.flush + x.flags.flush) })) row es

/-- A row of NORM (R282), SUB 1 layer or 2 RMS: each element, less the row's mean for a layer norm, times the reciprocal square root of
the mean square and a small term that the spec does not give (log 61). -/
def normRow (sub seed : Nat) (row : List Elem) : List (Nat × FlagN) :=
  let n := (toF32 (.fin false row.length 0)).1
  let sum := sumTerms seed (row.map (·.code))
  let mean := f32Div sum.1 n
  let ds := row.map fun x => if sub = 1 then toF32 (numAdd (f32 x.code) (f32 mean.1).neg) else (x.code, .none)
  let sqs := ds.map fun d => f32Mul d.1 d.1
  let total := sumTerms (seed + 2 ^ 32) (sqs.map (·.1))
  let var := f32Div total.1 n
  let shifted := f32Add var.1 Config.normEps
  let scale := approxFn 11 shifted.1
  let shared := sum.2.sat + mean.2.sat + (sqs.map (·.2.sat)).sum + total.2.sat + var.2.sat + shifted.2.sat + scale.2.sat
  List.zipWith (fun x d =>
    let y := f32Mul d.1 scale.1
    (y.1, ((y.2.add { sat := shared + d.2.sat }).add x.flags).once)) row ds

/-! ### Adds (R334, R335) -/

/-- Adds to one element applied in a free order. -/
def foldAny (add : Nat → Nat → Nat × FlagN) (seed : Nat) : Nat → Nat → List Nat → Nat × FlagN
  | 0, x, _ => (x, .none)
  | fuel + 1, x, l =>
    let i := if l.length ≤ 1 then 0 else Config.pick (seed + fuel) l.length % l.length
    match l[i]? with
    | none => (x, .none)
    | some a =>
      let r := add x a
      let t := foldAny add seed fuel r.1 (l.eraseIdx i)
      (t.1, r.2.add t.2)

/-- The exact sum of INT32 codes, saturated once. -/
def i32Sum (l : List Nat) : Nat × FlagN := convert 0xE false ((l.map (intValue 32 false)).foldl numAdd num0)

/-- An element after the adds of one operation: one by one, or summed first on the Mills (Table 8.12). -/
def addElem (fp mills : Bool) (seed x : Nat) (l : List Nat) : Nat × FlagN :=
  let add := if fp then f32Add else i32Add
  if l = [] then (x, .none)
  else if mills then
    let t := if fp then sumTerms seed l else i32Sum l
    let r := add x t.1
    (r.1, t.2.add r.2)
  else foldAny add seed l.length x l

/-! ### The drift guard (R242 to R244) -/

/-- The values of a group as the guard takes them, in FP8A, and their scale: a source that a feeder narrows is encoded under one scale,
its largest magnitude over 432; an operand's own values are converted as they are (R243). -/
def guardValues (a : Row) (src : Option (List Num)) (j n : Nat) : List Num × Num :=
  let fp8 (x : Num) : Num := (decodeNum 9 false (convert 9 false x).1).1
  match src with
  | some xs =>
    let g := (xs.drop (j * a.g)).take n
    let s := f32 (nearest 0xD false (numQuot (groupMax g) (.fin false 432 0))).1
    (g.map fun x => if s.isZero then num0 else fp8 (numQuot x s), s)
  | none => ((List.range n).map fun i => fp8 (a.value (j * a.g + i)), .fin false 1 0)

/-- One sample: whether it exceeds, and its d when finite (R243, R244). -/
def driftSample (key : Nat) (a b : Row) (src : Option (List Num)) (j : Nat) (sh : Shadow) (tau : Nat) : Bool × Option Nat :=
  let g := b.g
  let xa := (a.vals.drop (j * g)).take g
  let xb := (b.vals.drop (j * g)).take g
  let t := (groupTerm (a.scale1 j) (b.scale1 j) xa xb).1
  let s2p := (f32Mul (if a.layout = 1 then a.s2.getD (j / 16) 0 else 0x3F800000) (if b.layout = 1 then b.s2.getD (j / 16) 0 else 0x3F800000)).1
  let yn := if b.layout = 1 then f32 (f32Mul t s2p).1 else f32 t
  let (a8, sa) := guardValues { a with g } src j xa.length
  let w8 := (sh.vals.take xa.length).map fun c => (decodeNum 9 false c).1
  let term (abs : Bool) (x y : Num) : Nat :=
    let m := numMul (numMul (numMul x y) sa) (f32 sh.scale)
    (toF32 (if abs then numAbs m else m)).1
  let ys := f32 (sumTerms key (List.zipWith (term false) a8 w8)).1
  let S := f32 (sumTerms (key + 4096) (List.zipWith (term true) a8 w8)).1
  if !yn.isFin || !ys.isFin then (true, none)
  else if S.isZero then (!yn.isZero, none)
  else
    let diff := numAbs (numAdd yn ys.neg)
    (numLt (numMul (f32 tau) S) diff, some (convert 0xD false (numQuot diff S)).1)

/-- The samples of one matrix whose first row is row `off` of tensor `b`: every shadowed group whose hash is divisible by 2^rate, for every
streamed row; none where the product takes no groups of the tensor (R251). -/
def driftSamples (o : VObj) (b : Tensor) (key rate tau off : Nat) (m : MatPair) : List (Bool × Option Nat) :=
  ((o.shadows.filter fun sh => sh.tensor == b.id && decide (off ≤ sh.row) && shadowHash sh.tensor sh.row sh.group % 2 ^ rate == 0)).flatMap fun sh =>
    match m.bs[sh.row - off]? with
    | none => []
    | some br =>
      if br.layout ≠ b.layout then []
      else (indexed m.as).map fun a => driftSample (key + (sh.row * 4096 + sh.group + a.1) * 8192) a.2 br m.src[a.1]? sh.group sh tau

/-! ### Calibration (R248, R249, Table 7.12) -/

/-- The histogram bin of a magnitude. -/
def histBin (x : Num) : Nat :=
  match x with
  | .fin _ m e => if m = 0 then 0 else let k := (Nat.log2 m : Int) + e; if k < -15 then 0 else min 31 (k + 16).toNat
  | _ => 31

/-- Whether an encoding was an exact tie: the source lies halfway between the value written and the one below it in
magnitude. -/
def wasTie (fmt : Nat) (u : Bool) (code : Nat) (s x : Num) : Bool :=
  let v := (decodeNum fmt u code).1
  let below : Num := match fpFmt fmt with
    | some _ => let mag := code % 2 ^ (fmtBits fmt - 1)
      if mag = 0 then num0 else (decodeNum fmt false (mag - 1)).1
    | none => match v with | .fin _ m e => numAdd (.fin false m e) (.fin true 1 0) | y => y
  let mid := numMul (numAdd (numAbs v) below) s
  x.isFin && v.isFin && !v.isZero && numLt (numAbs x) (numMul (numAbs v) s) && numEq (numMul (numAbs x) (.fin false 2 0)) mid

/-- Statistics of a marked tensor after one more write of its values: source values and the rows as encoded, the first of them row `off`
of the tensor. -/
def calibAdd (key : Nat) (t : Tensor) (off : Nat) (v : TVal) (src : List (List Num)) (c : Calib) : Calib :=
  let g := t.run
  let mags := List.replicate (off * t.groups) 0 ++ src.flatMap fun r => (cut g r).map fun xs => (toF32 (groupMax xs)).1
  let amax := (List.range (max mags.length c.amax.length)).map fun i =>
    (toF32 (numMax (f32 (c.amax.getD i 0)) (f32 (mags.getD i 0)))).1
  let all := src.flatten
  let encs := (src.zip v.rows).flatMap fun (xs, r) =>
    let w := r.operand t v.st []
    (indexed xs).map fun x =>
      let s := if t.grouped then numMul (w.scale1 (x.1 / g)) (if t.layout = 1 then f32 (r.s2.getD (x.1 / g / 16) 0) else .fin false 1 0)
        else if t.layout = 3 then f32 v.st else .fin false 1 0
      (wasTie t.fmt t.u (r.codes.getD x.1 0) s x.2, (toF32 (numAdd (w.value x.1) x.2.neg)).1)
  { c with
    amax
    hist := (List.range 32).map fun k => min (2 ^ 32 - 1) (c.hist.getD k 0 + all.countP fun x => histBin x == k)
    elements := c.elements + all.length
    ties := c.ties + encs.countP (·.1)
    err := (sumTerms key (c.err :: encs.map (·.2))).1 }

/-- The clip value: the lower edge of the first bin from the top at which what lies above exceeds 2^−clip of the whole. -/
def clipOf (c : Calib) (clip : Nat) : Num :=
  match (List.range 32).reverse.find? fun k => decide (c.elements < (c.hist.drop k).sum * 2 ^ clip) with
  | some 0 => num0
  | some k => .fin false 1 ((k : Int) - 16)
  | none => num0

/-- A calibration record's bytes, padded to 16 (R279): `clip` none under MAX. -/
def calibOut (t : Tensor) (perRow : Nat) (clip : Option Nat) (c : Calib) : Bytes :=
  let cv := match clip with | some l => clipOf c l | none => num0
  let a := c.amax.map fun x => if clip.isSome then numMin (f32 x) cv else f32 x
  let rows := cut (max 1 perRow) a
  let encs := rows.map fun r =>
    if t.layout = 1 then (encodeRow t.fmt t.u 1 1 num0 r).1
    else if t.layout = 2 then (encodeRow t.fmt t.u 2 1 num0 r).1
    else ⟨[], [], []⟩
  let st := (nearest 0xD false (numQuot (groupMax a) (.fin false (encQ t.fmt t.u) 0))).1
  let scales := (encs.flatMap fun e => padTo (roundUp e.s1.length 16) (e.s1.flatMap (natLE 1))) ++
    (encs.flatMap fun e => padTo (roundUp (4 * e.s2.length) 16) (e.s2.flatMap (natLE 4))) ++
    (if t.layout = 3 then natLE 4 st else [])
  let mean := if c.elements = 0 then 0 else (nearest 0xD false (numQuot (f32 c.err) (.fin false c.elements 0))).1
  let b := natLE 4 c.tensor ++ natLE 4 c.amax.length ++ natLE 8 c.elements ++ natLE 8 c.ties ++ natLE 4 mean ++
    natLE 4 (toF32 cv).1 ++ c.hist.flatMap (natLE 4) ++ c.amax.flatMap (natLE 4) ++ scales
  padTo (roundUp b.length 16) b

end Sys2Proof.Machine
end

