-- ==== Sys2Proof/Machine/WalkRun.lean ====
section
/-!
DEFINITION. Walks run to their end, and the commands of the search family: SEARCH, SEARCH_X, SEARCH_SHARD,
EXPANSION_RETURN, WALK_FRAME_LIMIT, BATCH_WINDOW_EXPIRE, REFINE_GATHER, FANOUT_REPLY,
PARTIAL_OK_DEADLINE, SORTER_BLOCK.
-/

namespace Sys2Proof.Machine

/-- A walk whose expansions are over, taken to what follows (R107): the main graph after an entry layer, the Sorter or
refine after a search, the choice of neighbours after an insert or a relink. -/
def walkFinish (p : Fin 4) (id : Nat) : Upd :=
  .read fun s =>
    match walkOf s p id with
    | none => .skip
    | some w =>
      if w.stop = 3 then
        match w.why with
        | .search => walkFail p w stNotBound 0
        | .insert i => insertFail p w i
        | .relink _ => walkDrop p id
      else match w.why with
        | .search => searchFinish p id
        | .insert i => insertFinish p id i
        | .relink n => relinkFinish p id n

/-- A walk carried as far as it can go now: expansions started, its end taken (R103). -/
def walkAdvance (p : Fin 4) (id : Nat) : Upd :=
  .seq [startMore p id 17,
    .read fun s => match walkOf s p id with
      | none => .skip
      | some w =>
        if walkEnded w then
          if w.layer.isSome ∧ w.stop ≠ 3 then
            .seq [layerEnd p id, startMore p id 17,
              .read fun s => match walkOf s p id with
                | some w => .when (walkEnded w) (walkFinish p id)
                | none => .skip]
          else walkFinish p id
        else .skip]

/-- Whether a shard here has a drained buffer still to apply: lookups of it wait (R161). -/
def drainPending (s : State) (p : Fin 4) (coll shard : Nat) : Bool :=
  (psys s p).shares.any fun x => x.kind == .drained && x.coll == coll && x.shard == shard

/-- Every walk of a command that holds an active slot and has not begun, begun; a search waits for a drained buffer. -/
def startWalks (p : Fin 4) (ref : Nat) : Upd :=
  .read fun s => .each ((psys s p).walks.filter fun w => w.ref == ref && w.state == .active && !w.started &&
      !(w.why == .search && drainPending s p w.coll w.shard)) fun w =>
    .seq [match w.why with
      | .insert i => insertStart p w i
      | _ => walkSeed p w.id, walkAdvance p w.id]

/-- A command whose walks have all begun is running. -/
def nowRunning (p : Fin 4) (ref : Nat) : Upd :=
  .read fun s => .when (!((psys s p).walks.any fun w => w.ref == ref && !w.started))
    (cmdMod p ref fun c => { c with phase := .running })

/-- The start of a search: the shard walks of its own shards that hold active slots, and the reply where no piece is left
to wait for (R119, R122). -/
def searchRun (p : Fin 4) (c : Cmd) : Upd := .seq [startWalks p c.ref, nowRunning p c.ref, searchCheck p c.ref]

/-- SEARCH: a SEARCH_X whose further fields are 0 (R121). -/
def cmdSearch (p : Fin 4) (ref : Nat) : Upd := withCmd p ref 0x0301 (searchRun p)

/-- SEARCH_X (R120): the shard walks of the coordinator's own shards. -/
def cmdSearchX (p : Fin 4) (ref : Nat) : Upd := withCmd p ref 0x0302 (searchRun p)

/-- SEARCH_SHARD (R119): the one shard walk of a share. -/
def cmdSearchShard (p : Fin 4) (ref : Nat) : Upd := withCmd p ref 0x0303 (searchRun p)

/-- EXPANSION_RETURN (R103): the results of an expansion offered, and further expansions started. -/
def cmdExpansionReturn (p : Fin 4) (walk node : Nat) : Upd :=
  .read fun s =>
    match walkOf s p walk with
    | some w => match flightOf w node with
      | some e => .when (w.state == .active) (.seq [expandReturn p walk e.no, walkAdvance p walk])
      | none => .skip
    | none => .skip

/-- A walk whose MAX_FRAMES have passed stopped with reason 2; what is in flight is discarded (R107, R108). -/
def walkLimit (p : Fin 4) (id : Nat) : Upd :=
  .read fun s =>
    match walkOf s p id with
    | some w =>
      .when (w.maxFrames != 0 && (w.state == .active || w.state == .parked) && w.started &&
          decide (w.admFrame + w.maxFrames ≤ frameNow s))
        (.seq [walkMod p id fun w => { w with stop := 2, flight := [], state := .active }, layerEndAny p id, walkFinish p id])
    | none => .skip
where
  /-- In the entry layer the seeds found so far are offered first. -/
  layerEndAny (p : Fin 4) (id : Nat) : Upd :=
    .read fun s => match walkOf s p id with
      | some w => .when w.layer.isSome (layerEnd p id)
      | none => .skip

/-- WALK_FRAME_LIMIT (R107). -/
def cmdWalkFrameLimit (p : Fin 4) (walk : Nat) : Upd := walkLimit p walk

/-- The base of the row or page a comparison reads: a 1 KiB code row, or the Cellar block of the expanded node. -/
def readUnit (w : Walk) (node u : Nat) : Nat :=
  if rPlacement w.rcdNow = 1 then nodeAddr w.rcdNow w.degree w.codeBytes node / 16384 * 16384
  else codeAddr w.rcdNow w.codeBytes u / 1024 * 1024

/-- BATCH_WINDOW_EXPIRE (R110): the held read of a row or page issued; every request that waits for it is served by it. -/
def cmdBatchWindowExpire (p : Fin 4) (unit : Nat) : Upd :=
  .read fun s => .each (psys s p).walks fun w => .each w.flight fun e =>
    compareFlight p w.id e.no (fun w u => readUnit w e.node u == unit) 64

/-- The weight sets of the products that gathered refine work makes, for one refine format, group and length: the candidates streamed, a
query a column (R283). What METRIC 2's other products load is free up to two products more (R237). -/
def refineSets (seed : Nat) (ws : List Walk) (kind : Nat × Nat × Nat) : Nat :=
  let mine := ws.filter fun w => (w.refineFmt, w.refineGroup, w.refineDim) == kind
  let kd : SetKind := ⟨refineElem kind.1, kind.2.1, true⟩
  let m := (mine.map fun w => min w.refineDepth (w.queue.countP (!·.transit))).sum
  let n := weightSets kd (segmentCols seed kd) m kind.2.2 mine.length
  n + (if mine.any (·.metric != 1) then Config.pick (seed + 1) (2 * n + 1) % (2 * n + 1) else 0)

/-- REFINE_GATHER (R118): the refine work of finishing walks as one Mill operation. Its weight sets count in MILL_FRONT (R286); whether
query vectors lie in front layout is free, but for FORCE_RB. -/
def cmdRefineGather (p : Fin 4) (walks : List Nat) : Upd :=
  .seq [.read fun s =>
      let ws := (psys s p).walks.filter fun w => walks.contains w.id && refineDue (psys s p) w
      let kinds := (ws.map fun w => (w.refineFmt, w.refineGroup, w.refineDim)).eraseDups
      let n := ((indexed kinds).map fun k => refineSets (opKey s.sys.free + 2 * k.1) ws k.2).sum
      let front := !(bit (lv s .millCtl p) 0) && Config.pick (opKey s.sys.free + 2 ^ 20) 2 % 2 == 0
      .when (n != 0) (.seq [.sys fun y => { y with free := y.free + 1 },
        if front then regCount .millFront p 0 63 32 n else regCount .millFront p 0 31 0 n]),
    .each walks (refineWalk p)]

/-- What follows when a share's reply completes a piece, by the coordinator's opcode. A command that has ended keeps only
its journal entry (R165, ring 36), and counts the result as discarded (R79). -/
def pieceLanded (p : Fin 4) (ref : Nat) : Upd :=
  .read fun s =>
    match cmdOf s p ref with
    | none => .skip
    | some c =>
      if c.ring = 36 then
        .seq [discardResult p, .sys fun y => { y with free := y.free + 1 },
          journalPut p { c with ring := c.aux } (frameNow s) (updResults (opKey s.sys.free) c c.upd).flatten]
      else match c.opcode with
        | 0x0301 | 0x0302 | 0x0303 => searchCheck p ref
        | 0x0401 | 0x0402 | 0x0403 | 0x0404 => .when (c.phase == .running) (updCheck p ref)
        | 0x0906 => dayAcked p ref
        | _ => .skip

/-- FANOUT_REPLY (R601): a write into a fan-out record's area. From a partition of this part it is the oldest write that
waits for that record; from another part it is what arrives. -/
def cmdFanoutReply (fromPart : Nat) (fromPartition p : Fin 4) (record offset : Nat) (data : Bytes)
    (k : Fin 4 → Nat → Upd := pieceLanded) : Upd :=
  .read fun s =>
    if fromPart = partId s then
      match (psys s p).shareWrites.find? fun x => x.fromPartition == fromPartition.val && x.record == record with
      | some x => .when (x.offset == offset && x.data == data)
          (.seq [.part p fun y => { y with shareWrites := y.shareWrites.erase x },
            fanWrite fromPart fromPartition p record offset data (k p)])
      | none => .skip
    else fanWrite fromPart fromPartition p record offset data (k p)

/-- Whether a search with PARTIAL_OK has reached the Bell of frame f + t (R125). -/
def partialDue (s : State) (c : Cmd) : Bool :=
  (c.opcode == 0x0301 || c.opcode == 0x0302) && nbit (byteAt c.params 4) 2 &&
  decide (c.accFrame + c.timeout ≤ frameNow s)

/-- PARTIAL_OK_DEADLINE (R125): the command posts with the shards that have reported. -/
def cmdPartialOkDeadline (p : Fin 4) (ref : Nat) : Upd :=
  .read fun s =>
    match cmdOf s p ref with
    | some c => .when (partialDue s c) (.seq [dropWalks p ref, searchPost p ref])
    | none => .skip

/-- A selection of a partition. -/
def selOf (s : State) (p : Fin 4) (id : Nat) : Option Selection := (psys s p).sels.find? (·.id == id)

/-- Whether a selection holds a register or may take one (R166). -/
def registerFree (y : PSys) (x : Selection) : Bool := x.held || registerLeft y x.cls

/-- A list with each element of another taken out once; none where one is not there. -/
def takeOut {α : Type} [BEq α] : List α → List α → Option (List α)
  | l, [] => some l
  | l, x :: r => if l.contains x then takeOut (l.erase x) r else none

/-- SORTER_BLOCK (R166, R167): a block of up to 32 entries of a selection's row, taken from the scan-result queue and inserted into its
register; when the row ends, the result block is written. A selection with no free register, or with no block on the queue, waits. -/
def cmdSorterBlock (p : Fin 4) (sel : Nat) (block : List Entry) : Upd :=
  .read fun s =>
    match selOf s p sel with
    | none => .skip
    | some x =>
      if block = [] ∨ 32 < block.length ∨ x.placed = [] ∨ !(registerFree (psys s p) x) then .skip
      else match takeOut x.row block with
        | none => .skip
        | some rest =>
          let x' := { x with row := rest, seen := x.seen ++ block, held := true, placed := x.placed.drop 1 }
          .seq [if rest ≠ [] then .part p fun y => { y with sels := y.sels.map fun z => if z.id = sel then x' else z }
            else match walkOf s p x.walk with
              | some w => walkResult p w x'.seen
              | none => .part p fun y => { y with sels := y.sels.filter (·.id != sel) },
            .part p placeBlocks]

/-- Walks still queued on a closing collection: none is admitted (R95). A search's or an insert's ends with NOT_BOUND. -/
def closeQueued (p : Fin 4) : Upd :=
  .read fun s => .each ((psys s p).walks.filter fun w => w.state == .queued && (collOf s w.coll).any (·.state == 2)) fun w =>
    match w.why with
    | .search => walkFail p w stNotBound 0
    | .insert i => insertFail p w i
    | .relink _ => walkDrop p w.id

def execSearch (p : Fin 4) (ref : Nat) (s : State) : Host.Outcome State Fault Refusal := (cmdSearch p ref).go s
def execSearchX (p : Fin 4) (ref : Nat) (s : State) : Host.Outcome State Fault Refusal := (cmdSearchX p ref).go s
def execSearchShard (p : Fin 4) (ref : Nat) (s : State) : Host.Outcome State Fault Refusal := (cmdSearchShard p ref).go s
def execExpansionReturn (p : Fin 4) (walk node : Nat) (s : State) : Host.Outcome State Fault Refusal :=
  (cmdExpansionReturn p walk node).go s
def execWalkFrameLimit (p : Fin 4) (walk : Nat) (s : State) : Host.Outcome State Fault Refusal := (cmdWalkFrameLimit p walk).go s
def execBatchWindowExpire (p : Fin 4) (unit : Nat) (s : State) : Host.Outcome State Fault Refusal :=
  (cmdBatchWindowExpire p unit).go s
def execRefineGather (p : Fin 4) (walks : List Nat) (s : State) : Host.Outcome State Fault Refusal := (cmdRefineGather p walks).go s
def execPartialOkDeadline (p : Fin 4) (ref : Nat) (s : State) : Host.Outcome State Fault Refusal := (cmdPartialOkDeadline p ref).go s
def execSorterBlock (p : Fin 4) (sel : Nat) (block : List Entry) (s : State) : Host.Outcome State Fault Refusal :=
  (cmdSorterBlock p sel block).go s

end Sys2Proof.Machine
end

