-- ==== Sys2Proof/Machine/CohCmd.lean ====
section
/-!
DEFINITION. Domains, regions and extents as the commands of class 0x08 make and end them (R460 to R464, R472 to R475,
R480, R481, Tables 16.1, 16.2 and 16.6).
-/

namespace Sys2Proof.Machine

/-- An ID the part gives: some unused one below a size, which the spec does not single out. -/
def pickId (s : State) (size : Nat) (used : Nat → Bool) : Nat :=
  let c := Config.pick (opKey s.sys.free) size % size
  if used c then ((List.range size).find? fun i => !(used i)).getD 0 else c

def freeNext : Upd := .sys fun y => { y with free := y.free + 1 }

/-- A domain in force. -/
def domNow (s : State) (id : Nat) : Option Domain := (domOf s id).filter (·.opening.isNone)
/-- A region in force, and one that is not being freed either. -/
def regionHere (s : State) (id : Nat) : Option Region' := (regOf s id).filter (·.opening.isNone)
def regionNow (s : State) (id : Nat) : Option Region' := (regionHere s id).filter (·.freeing.isNone)
/-- An extent of the part. -/
def extOf (s : State) (id : Nat) : Option Ext := s.sys.coh.exts.find? (·.id == id)
def Ext.gone (e : Ext) : Bool := match e.st with | .revoked _ => true | _ => false
/-- An extent not in state FREE. -/
def extNow (s : State) (id : Nat) : Option Ext := (extOf s id).filter fun e => !e.gone

/-- The domain of an extent and the agent entry of its holder, and with them its region. -/
def extAgent (s : State) (e : Ext) : Option (Domain × Nat) := (domOf s e.dom).bind fun d => (agentOf d e.holder).map (d, ·)
def extFacts (s : State) (e : Ext) : Option (Region' × Domain × Nat) :=
  (regOf s e.region).bind fun r => (domOf s r.dom).bind fun d => (agentOf d e.holder).map (r, d, ·)

/-- The logical device of the part's own host port that holds an extent. -/
def extLd (s : State) (e : Ext) : Option Nat :=
  (extAgent s e).bind fun x => if agHost x.2 ∧ agPart x.2 = partId s then some (agLd x.2) else none

/-- The map entry of an extent (Table 17.6). -/
def extEntry (s : State) (e : Ext) : MapEntry :=
  match extFacts s e with
  | some (_, d, w) => { kind := 1, tenant := d.tenant, id := e.id, value := w }
  | none => { kind := 1, tenant := 0, id := e.id, value := 2 ^ 20 - 1 }

/-! ### Domains -/

/-- The agent entries of a DOM_DEFINE. -/
def domEntries (c : Cmd) : List Nat := (List.range (par c 4 1)).map fun i => par c (8 + 8 * i) 8

/-- An error in an agent entry: a reserved bit, or an entry that stood before. -/
def badAgents (es : List Nat) : Option Nat :=
  ((indexed es).find? fun e => decide (2 ^ 25 ≤ e.2) || (!agHost e.2 && agLd e.2 != 0) || (es.take e.1).contains e.2).map fun e => 72 + 8 * e.1

/-- DOM_DEFINE (0x0801), refused as R462 says. -/
def specDomDefine : OpSpec :=
  { permit := fmOnly, len := fun _ _ c => 8 + 8 * par c 4 1, exact := fun _ _ _ => true
    range := fun s _ c =>
      let es := domEntries c
      (firstBad [(par c 0 1 == 255 || (domOf s (par c 0 1)).isSome, 64), (par c 1 1 != 0, 65), (decide (s.fuse.maxTenants ≤ par c 2 2), 66),
        (par c 4 1 == 0 || decide (64 < par c 4 1), 68), (par c 5 3 != 0, 69)]).or
      ((badAgents es).or (firstBad [(!(es.any fun w => agPart w == partId s), 72)]))
    pool := fun s _ _ => if 64 ≤ s.sys.coh.doms.length then some 0x0801 else none }

/-- DOM_DEFINE (R462): ARMED from the next Bell. -/
def cmdDomDefine (p : Fin 4) (ref : Nat) : Upd :=
  withCmd p ref 0x0801 fun c => .read fun s =>
    .seq [cohMod fun x => { x with doms := x.doms ++
        [{ id := par c 0 1, tenant := par c 2 2, agents := (domEntries c).map some, opening := some (frameNow s + 1),
           failed := false, cause := 0, agent := 0xFF, dirCleared := false, failFrame := 0, dead := [], arming := none,
           keep := 0, armLost := 0, armZeroed := 0 }] },
      postReply p c stOk 0 [] 0 (frameNow s + 1)]

/-- DOM_FAIL (0x0802); a domain the part does not have, or an agent the domain does not have, is BAD_PARAM. -/
def specDomFail : OpSpec :=
  { permit := fmOnly, len := fun _ _ _ => 8
    range := fun s _ c =>
      let a := par c 1 1
      firstBad [((domNow s (par c 0 1)).isNone, 64),
        (a != 0xFF && ((domNow s (par c 0 1)).bind fun d => agentOf d a).isNone, 65), (par c 2 6 != 0, 66)] }

/-- DOM_FAIL (Table 16.7, cause 3). -/
def cmdDomFail (p : Fin 4) (ref : Nat) : Upd :=
  withCmd p ref 0x0802 fun c => .seq [cohFail (par c 0 1) 3 (par c 1 1) true, cohRun, postPlain p c stOk 0]

/-- The choices of a DOM_ARM: region and choice. -/
def armEntries (c : Cmd) : List (Nat × Nat) := (List.range (par c 2 2)).map fun i => (par c (16 + 8 * i) 2, par c (18 + 8 * i) 1)

/-- The regions of a domain homed at the part. -/
def domRegions (s : State) (id : Nat) : List Region' := s.sys.coh.regions.filter (·.dom == id)

/-- DOM_ARM (0x0803), refused as R480 says; one that is being armed is no longer there to arm. -/
def specDomArm : OpSpec :=
  { permit := fmOnly, len := fun _ _ c => 16 + 8 * par c 2 2, exact := fun _ _ _ => true
    range := fun s _ c =>
      match domNow s (par c 0 1) with
      | none => some 64
      | some d =>
        let keep := par c 8 8
        let es := armEntries c
        let rs := domRegions s d.id
        let drops := s.sys.coh.exts.any fun e => !e.gone && rs.any (·.id == e.region) && !(nbit keep e.holder)
        (firstBad [(!d.failed || d.arming.isSome, 64), (decide (1 < par c 1 1) || (d.dirCleared && par c 1 1 == 0), 65),
          (rs.any fun r => !(es.any (·.1 == r.id)), 66), (par c 4 4 != 0, 68),
          (drops || d.dead.any fun a => a != 0xFF && nbit keep a, 72)]).or
        ((indexed es).findSome? fun e => (firstBad [(!(rs.any (·.id == e.2.1)) || (es.take e.1).any (·.1 == e.2.1), 80 + 8 * e.1),
          (decide (1 < e.2.2), 82 + 8 * e.1), (par c (19 + 8 * e.1) 5 != 0, 83 + 8 * e.1)])) }

/-- The LOST lines of a region: every line once its directory was cleared. -/
def lostIn (s : State) (r : Region') : Nat :=
  if r.allLost then r.bytes / 64
  else s.sys.coh.dir.countP fun c => c.2.st == .lost && decide (r.base ≤ c.1) && decide (c.1 < r.base + r.bytes)

/-- The entries of a region's lines dropped. -/
def dirDrop (r : Region') (t : DirState → Bool) : Upd :=
  .seq [cohMod fun c => { c with dir := akeep c.dir fun l e => !(decide (r.base ≤ l) && decide (l < r.base + r.bytes) && t e.st) },
    .read fun s => regMod .cohStatus (lineP r.base) 0 fun w => setFld w 22 0 (dirUsed s (lineP r.base))]

/-- A region's fate at re-arming (R481): LOST cleared; under ZERO its bytes zeroed and its poison cleared. -/
def armRegion (r : Region') (zero : Bool) : Upd :=
  .seq [dirDrop r (· == .lost), regionMod r.id fun r => { r with allLost := false },
    .when zero (.seq [.memZero r.base r.bytes,
      .sys fun y => { y with poison := y.poison.filter fun l => !(decide (r.base ≤ l) && decide (l < r.base + r.bytes)) }])]

/-- DOM_ARM (R481): each region's fate carried out; the domain is armed at a Bell after it. -/
def cmdDomArm (p : Fin 4) (ref : Nat) : Upd :=
  withCmd p ref 0x0803 fun c => .read fun s =>
    let rs := (armEntries c).filterMap fun e => (regOf s e.1).map (·, e.2 == 1)
    .seq [domMod (par c 0 1) fun d => { d with
        arming := some (p, ref), keep := par c 8 8, armLost := (rs.map fun r => lostIn s r.1).sum,
        armZeroed := ((rs.filter (·.2)).map fun r => r.1.bytes).sum },
      .each rs fun r => armRegion r.1 r.2, nowRunning p ref]

/-- DOM_ARM_COMPLETE (R481): the first Bell after the zeroing ends: the domain is ARMED without the dropped agents. -/
def cmdDomArmComplete (dom : Nat) : Upd :=
  .read fun s =>
    match domOf s dom with
    | none => .skip
    | some d => match d.arming with
      | none => .skip
      | some (p, ref) =>
        .seq [domMod dom fun d => { d with
            agents := (indexed d.agents).map fun a => if nbit d.keep a.1 then a.2 else none
            failed := false, dirCleared := false, dead := [], arming := none },
          match cmdOf s p ref with
          | some c => postReply p c stOk 0 (natLE 8 d.armLost ++ natLE 8 d.armZeroed) 0 (frameNow s)
          | none => .skip]

/-- Commands for the fabric manager and the submitters of a domain's tenant. -/
def domPermit (s : State) (c : Cmd) (id : Nat) : Bool :=
  c.tenant == 0 || (match domOf s id with | some d => d.tenant == c.tenant | none => true)

/-- DOM_READ (0x0804). -/
def specDomRead : OpSpec :=
  { permit := fun s _ c => domPermit s c (par c 0 1), len := fun _ _ _ => 8
    range := fun s _ c => firstBad [((domNow s (par c 0 1)).isNone, 64), (par c 1 7 != 0, 65)]
    body := fun _ _ _ => 32 }

/-- DOM_READ: CAUSE, AGENT and FAIL_FRAME of a domain that is ARMED are stated by no rule. -/
def cmdDomRead (p : Fin 4) (ref : Nat) : Upd :=
  withCmd p ref 0x0804 fun c => .read fun s =>
    match domOf s (par c 0 1) with
    | none => postPlain p c stBadParam 64
    | some d =>
      .fresh fun v =>
        let alive := ((List.range d.agents.length).filter fun i => (agentOf d i).isSome && !(d.dead.contains i)).foldl (fun a i => a + 2 ^ i) 0
        let lost := ((domRegions s d.id).map (lostIn s)).sum
        let o (n free known : Nat) : Bytes := natLE n (if d.failed then known else free)
        postReply p c stOk 0 (natLE 1 d.failed.toNat ++ o 1 v.toNat d.cause ++ o 1 (v.toNat / 256) d.agent ++
          natLE 1 d.dirCleared.toNat ++ zeros 4 ++ o 6 (v.toNat / 65536) d.failFrame ++ zeros 2 ++ natLE 8 alive ++ natLE 8 lost)

/-! ### Regions -/

/-- REGION_DEFINE (0x0805), refused as R463 says. -/
def specRegionDefine : OpSpec :=
  { permit := fun s _ c => match domOf s (par c 0 1) with | some d => d.tenant == c.tenant | none => true
    len := fun _ _ _ => 24
    range := fun s _ c =>
      let b := par c 8 8
      let n := par c 16 8
      firstBad [((match domNow s (par c 0 1) with
          | some d => d.failed || !(d.agents.contains (some (partId s)))
          | none => true), 64),
        (decide (1 < par c 1 1), 65), (par c 2 6 != 0, 66),
        (b % 2 ^ 21 != 0 || s.sys.coh.regions.any fun r => overlap b n r.base r.bytes, 72), (n % 2 ^ 21 != 0 || n == 0, 80)]
    bound := fun s p c =>
      let b := par c 8 8
      regionOf b == .loft && ownerOf s b == some p && ownerOf s (b + par c 16 8 - 1) == some p && rangeBound s c.tenant b (par c 16 8)
    body := fun _ _ _ => 8
    pool := fun s p _ => if 256 ≤ s.sys.coh.regions.countP (·.p == p) then some 0x0802 else none }

/-- Whether a region has an ID, or an extent remembers it (R475). -/
def regTaken (s : State) (id : Nat) : Bool := (regOf s id).isSome || s.sys.coh.exts.any (·.region == id)

/-- REGION_DEFINE (R463): coherent from the next Bell. -/
def cmdRegionDefine (p : Fin 4) (ref : Nat) : Upd :=
  withCmd p ref 0x0805 fun c => .read fun s =>
    let id := pickId s 65536 (regTaken s)
    .seq [freeNext,
      cohMod fun x => { x with regions := x.regions ++
        [{ id, p, dom := par c 0 1, tenant := c.tenant, base := par c 8 8, bytes := par c 16 8, larder := nbit (par c 1 1) 0,
           opening := some (frameNow s + 1), freeing := none, allLost := false }] },
      postReply p c stOk 0 (natLE 2 id ++ zeros 6) 0 (frameNow s + 1)]

/-- REGION_FREE (0x0806), refused as R464 says. -/
def specRegionFree : OpSpec :=
  { permit := fun s _ c => match regOf s (par c 0 2) with | some r => r.tenant == c.tenant | none => true
    len := fun _ _ _ => 8
    range := fun s p c => firstBad [((match regionHere s (par c 0 2) with | some r => r.p != p | none => true) ||
        s.sys.coh.exts.any (fun e => !e.gone && e.region == par c 0 2), 64), (par c 2 6 != 0, 66)] }

/-- REGION_FREE (R464, R95): no further use is admitted; the region goes at a Bell once its last user has ended. A further one waits
with the first. -/
def cmdRegionFree (p : Fin 4) (ref : Nat) : Upd :=
  withCmd p ref 0x0806 fun c => .seq [regionMod (par c 0 2) fun r => { r with freeing := some (ref + 1) }, nowRunning p ref]

/-- Whether something still uses a region: a transfer, a program run, a request that waits, a transaction. -/
def regionUsed (s : State) (r : Region') : Bool :=
  allP.any (fun p =>
    (psys s p).dma.any (fun t => (!t.srcHost && t.srcPart == partId s && overlap t.src t.count r.base r.bytes) ||
      (!t.dstHost && t.dstPart == partId s && overlap t.dst t.count r.base r.bytes)) ||
    (psys s p).mill.runs.any fun v => v.binds.any fun b => decide (r.base ≤ b.2) && decide (b.2 < r.base + r.bytes)) ||
  s.sys.coh.txns.any (fun t => decide (r.base ≤ t.line) && decide (t.line < r.base + r.bytes)) ||
  s.sys.coh.waits.any fun x => let y := peerRange x.2; overlap y.1 y.2.1 r.base r.bytes

/-- A region at Bell step n: in force, or freed once nothing uses it; its bytes stay. -/
def regionBell (n : Nat) (r : Region') : Upd :=
  .read fun s =>
    match r.opening, r.freeing with
    | some b, _ => .when (decide (b ≤ n)) (regionMod r.id fun r => { r with opening := none })
    | none, some _ =>
      if regionUsed s r then .skip
      else .seq [dirDrop r (fun _ => true), cohMod fun c => { c with regions := c.regions.filter (·.id != r.id) },
        .each ((psys s r.p).cmds.filter fun c => c.opcode == 0x0806 && par c 0 2 == r.id && c.phase == .running) fun c =>
          postReply r.p c stOk 0 [] 0 n]
    | none, none => .skip

/-- A region without LARDER goes at the Bell after its last extent becomes FREE (R464). -/
def regionLast (id : Nat) : Upd :=
  .read fun s => .when (!(s.sys.coh.exts.any fun e => !e.gone && e.region == id))
    (regionMod id fun r => if r.larder ∨ r.freeing.isSome then r else { r with freeing := some 0 })

/-! ### Extents -/

/-- The extents whose holder is an LD of a bridge, that a DPA range overlaps. -/
def dpaTaken (s : State) (w dpa n : Nat) : Bool :=
  s.sys.coh.exts.any fun e => !e.gone && (match extFacts s e with | some x => x.2.2 == w | none => false) && overlap dpa n e.dpa e.bytes

/-- EXT_ADD (0x0807), refused as R472 says. -/
def specExtAdd : OpSpec :=
  { permit := fmOnly, len := fun _ _ _ => 32
    range := fun s p c =>
      let off := par c 8 8
      let n := par c 16 8
      let dpa := par c 24 8
      match regionHere s (par c 0 2) with
      | none => some 64
      | some r => match domOf s r.dom with
        | none => some 64
        | some d =>
          let w := agentOf d (par c 2 1)
          let host := match w with | some w => agHost w | none => false
          firstBad [(d.failed || r.p != p, 64), (w.isNone, 66), (decide (1 < par c 3 1), 67), (par c 4 4 != 0, 68),
            (off % 2 ^ 21 != 0 || decide (r.bytes < off + n), 72), (n % 2 ^ 21 != 0 || n == 0, 80),
            (if host then dpa % 2 ^ 21 != 0 || decide (2 ^ 44 < dpa + n) || dpaTaken s (w.getD 0) dpa n else dpa != 0, 88)]
    body := fun _ _ _ => 8
    bound := fun s _ c => (regionNow s (par c 0 2)).isSome
    pool := fun s _ c =>
      let mine := s.sys.coh.exts.filter fun e => !e.gone
      let w := ((regionNow s (par c 0 2)).bind fun r => domOf s r.dom).bind fun d => agentOf d (par c 2 1)
      let bridge : Bool := match w with | some w => agHost w && agPart w == partId s | none => false
      if 4096 ≤ mine.length ∨ (bridge ∧ 4096 ≤ (mine.filter fun e => (extLd s e).isSome).length + s.sys.coh.hostExts.length) then some 0x0803
      else none }

/-- The event that an extent's entry or removal posts to the logical device of this part that holds it. -/
def extEvent (e : Ext) (kind n : Nat) : Upd := .read fun s => match extLd s e with | some l => dcd l e.id kind n | none => .skip

/-- Whether the holder is a host agent; the state in which an extent enters the map (Table 16.6). -/
def extHost (s : State) (e : Ext) : Bool := match extAgent s e with | some x => agHost x.2 | none => false
def extEntered (s : State) (e : Ext) : Ext := { e with st := if extHost s e then .offered else .active, cmd := none }

/-- EXT_ADD (Table 16.6): the extent enters the map at the epoch of its change, and the command posts then: at the Bell after acceptance
where no other part holds the entry (R495). -/
def cmdExtAdd (p : Fin 4) (ref : Nat) : Upd :=
  withCmd p ref 0x0807 fun c => .read fun s =>
    let id := pickId s 65536 fun i => (extOf s i).isSome
    let r := regOf s (par c 0 2)
    let e : Ext := Ext.mk id (par c 0 2) (par c 2 1) (par c 3 1 == 1) (par c 8 8) (par c 16 8) (par c 24 8) .pending false (some (p, ref))
      ((r.map (·.dom)).getD 0) ((r.map (·.base)).getD 0 + par c 8 8)
    if (entryAudience s (extEntry s e)).isEmpty then
      .seq [freeNext, cohMod fun x => { x with exts := x.exts ++ [extEntered s e] }, extEvent e 0 0, mapEpoch (frameNow s),
        postReply p c stOk 0 (natLE 2 id ++ zeros 6) 0 (frameNow s)]
    else .seq [freeNext, cohMod fun x => { x with exts := x.exts ++ [e] }, nowRunning p ref, .read fun s => mapStart [extEntry s e] false (some (p, ref))]

/-- The command of a kept change. -/
def keepCmd (s : State) (k : Keeping) : Option (Fin 4 × Cmd) := k.cmd.bind fun x => (cmdOf s x.1 x.2).map (x.1, ·)

/-- An extent becomes FREE. -/
def extDrop (e : Ext) : Upd := .seq [cohMod fun c => { c with exts := c.exts.filter (·.id != e.id) }, regionLast e.region]

/-- A kept change of an extent at its epoch: one that came in is OFFERED or ACTIVE and EXT_ADD posts; one that leaves is FREE
and EXT_RELEASE posts. -/
def extEpoch (k : Keeping) : Upd :=
  .read fun s =>
    .each k.entries fun m => match extOf s m.id with
      | none => .skip
      | some e => match e.st with
        | .pending =>
          .seq [extMod e.id (extEntered s), extEvent e 0 0,
            match keepCmd s k with
            | some (p, c) => postReply p c stOk 0 (natLE 2 e.id ++ zeros 6) 0 (frameNow s)
            | none => .skip]
        | .leaving =>
          .seq [extDrop e, match e.cmd.bind fun x => (cmdOf s x.1 x.2).map (x.1, ·) with
            | some (p, c) => postReply p c stOk 0 (zeros 8) 0 (frameNow s)
            | none => .skip]
        | _ => .skip

/-- A kept change aborted (R497): the old entry stays, the command gets RETRY; DETAIL names no pool of the spec. -/
def extAborted (k : Keeping) : Upd :=
  .read fun s =>
    .seq [.each k.entries fun m => match extOf s m.id with
        | some e => match e.st with
          | .pending => extDrop e
          | .leaving => extMod e.id fun e => { e with st := .releasing }
          | _ => .skip
        | none => .skip,
      .fresh fun v => match keepCmd s k with
        | some (p, c) => postPlain p c stRetry (v.toNat % 2 ^ 32)
        | none => .skip]

/-- An extent leaves the map at the next epoch. -/
def extLeave (e : Ext) : Upd :=
  .seq [extMod e.id fun e => { e with st := .leaving }, .read fun s => mapStart [extEntry s e] false e.cmd]

/-- Whether a line lies in an extent. -/
def extHolds (r : Region') (e : Ext) (line : Nat) : Bool := decide (r.base + e.offset ≤ line) && decide (line < r.base + e.offset + e.bytes)

/-- EXT_RELEASE (0x0808). -/
def specExtRelease : OpSpec :=
  { permit := fmOnly, len := fun _ _ _ => 8
    range := fun s p c => firstBad [((match extNow s (par c 0 2) with
        | some e => (match e.st with | .pending | .leaving => true | _ => false) ||
            (match regOf s e.region with | some r => r.p != p | none => true)
        | none => true), 64), (decide (1 < par c 2 1), 66), (par c 3 5 != 0, 67)]
    body := fun _ _ _ => 8 }

/-- Requests accepted under an extent and not yet performed: those of its holder in its range, as transactions of a host and as
requests of a part or an LD that wait for recalls. -/
def underTxn (r : Region') (e : Ext) (t : Txn) : Bool := extHolds r e t.line && (match t.req with
  | .hostRd _ h _ => h == e.holder | .hostWr _ h _ _ => h == e.holder | .recall _ _ => false)
def underPeer (r : Region') (e : Ext) (w : Nat) (x : Nat × Packet) : Bool :=
  let y := peerRange x.2
  peerWord x.2 == w && decide (r.base + e.offset ≤ y.1) && decide (y.1 + y.2.1 ≤ r.base + e.offset + e.bytes)

/-- What a forced release ends and drops (R474): the requests accepted under the extent, the holder's entries; the counts
DISCARDED_A and IN_FLIGHT go on. -/
def extForce (e : Ext) (g : Nat → Nat → Upd) : Upd :=
  .read fun s =>
    match extFacts s e with
    | none => g 0 0
    | some (r, d, w) =>
      let gone := s.sys.coh.txns.filter (underTxn r e)
      let peers := s.sys.coh.waits.filter (underPeer r e w)
      let lines := s.sys.coh.dir.filter fun c => extHolds r e c.1 && (holdersOf (some c.2.st)).contains e.holder
      let owned := lines.countP fun c => match c.2.st with | .owned _ => true | _ => false
      .seq [cohMod fun c => { c with txns := c.txns.filter fun t => !(underTxn r e t), waits := c.waits.filter fun x => !(peers.contains x) },
        .each gone fun t => (match t.req with
          | .hostRd _ h tag => hostPoison d h tag t.line
          | .hostWr _ h tag _ => hostDiscard d h tag t.line
          | .recall _ _ => .skip),
        .each peers fun x => (match x.2.body with
          | .memRd _ _ n => complete x.2 stPoisoned 0 true (zeros n)
          | _ => complete x.2 stRevoked 0 false []),
        .each lines fun c => .seq [dirSet c.1 (without e.holder (some c.2.st)), snoopDone c.1 e.holder],
        g owned (gone.length + peers.length), cohRun]

/-- EXT_RELEASE (R473, R474). -/
def cmdExtRelease (p : Fin 4) (ref : Nat) : Upd :=
  withCmd p ref 0x0808 fun c => .read fun s =>
    match extNow s (par c 0 2) with
    | none => postPlain p c stBadParam 64
    | some e =>
      if nbit (par c 2 1) 0 then
        extForce e fun owned flight => .seq [
          .read fun s => .seq [
            extEvent e 2 0, extEvent e 3 flight,
            (match e.cmd.bind fun x => cmdOf s x.1 x.2 with
              | some c' => postReply (e.cmd.map (·.1) |>.getD p) c' stOk 0 (zeros 8)
              | none => .skip),
            mapStart [extEntry s e] false none,
            extMod e.id fun e => { e with st := .revoked (frameNow s), cmd := none }, regionLast e.region],
          postReply p c stOk 0 (natLE 4 owned ++ natLE 4 flight)]
      else
        .seq [nowRunning p ref,
          match e.st with
          | .offered => .seq [extMod e.id fun e => { e with cmd := some (p, ref) }, extLeave { e with cmd := some (p, ref) }]
          | _ => .seq [extMod e.id fun e => { e with st := .releasing, cmd := some (p, ref) }, extEvent e 1 0]]

/-- DCD_ADD_RESPONSE (Table 16.6): the host accepts or declines an offered extent. At the bridge of an extent homed elsewhere
the answer ends the offer. -/
def cmdDcdAddResponse (ld : Fin 16) (ext : Nat) (accept : Bool) : Upd :=
  .read fun s =>
    match extNow s ext with
    | some e =>
      match extFacts s e with
      | some (_, _, w) =>
        if e.st = .offered ∧ agHost w ∧ agLd w = ld.val then
          (if accept then extMod ext fun e => { e with st := .active } else extLeave e)
        else cohMod fun c => { c with offers := c.offers.erase (ld.val, ext) }
      | none => .skip
    | none => cohMod fun c => { c with offers := c.offers.erase (ld.val, ext) }

/-- HOST_CAPACITY_RELEASE (R473, step 2): the host has given the capacity back. -/
def cmdHostCapacityRelease (ld : Fin 16) (ext : Nat) : Upd :=
  .read fun s =>
    match extNow s ext with
    | some e => match extFacts s e with
      | some (_, _, w) => .when (e.st == .releasing && agHost w && agLd w == ld.val) (extMod ext fun e => { e with released := true })
      | none => .skip
    | none => .skip

/-- EXTENT_DRAIN_END (R473, steps 3 to 5): no accepted request is left; lines still held are recalled first; then the extent
leaves the map. -/
def cmdExtentDrainEnd (ext : Nat) : Upd :=
  .read fun s =>
    match extNow s ext with
    | none => .skip
    | some e => match extFacts s e with
      | none => .skip
      | some (r, _, w) =>
        let busy := s.sys.coh.txns.any (underTxn r e) || s.sys.coh.waits.any (underPeer r e w)
        let lines := (s.sys.coh.dir.filter fun c => extHolds r e c.1 && (holdersOf (some c.2.st)).contains e.holder).map (·.1)
        if e.st ≠ .releasing ∨ (agHost w ∧ !e.released) ∨ busy then .skip
        else if lines.isEmpty then extLeave e
        else .seq [.each lines fun l => askRecall l true false, cohRun]

/-- REVOKE_WINDOW_END (R475): 64 frames after a forced release. -/
def cmdRevokeWindowEnd (ext : Nat) : Upd :=
  .read fun s =>
    match extOf s ext with
    | some e => match e.st with
      | .revoked f => .when (decide (f + 64 ≤ frameNow s)) (cohMod fun c => { c with exts := c.exts.filter (·.id != ext) })
      | _ => .skip
    | none => .skip

/-- EXT_READ (0x0809). -/
def specExtRead : OpSpec :=
  { permit := fun s _ c => c.tenant == 0 || (match (extOf s (par c 0 2)).bind fun e => regOf s e.region with
      | some r => r.tenant == c.tenant | none => false)
    len := fun _ _ _ => 8, range := fun _ _ c => firstBad [(par c 2 6 != 0, 66)], body := fun _ _ _ => 32 }

/-- A state's place in Table 16.6. -/
def extPlace : ExtState → Nat
  | .pending | .offered => 0 | .active => 1 | .releasing | .leaving => 2 | .revoked _ => 3

/-- EXT_READ: an unused ID reads as FREE. -/
def cmdExtRead (p : Fin 4) (ref : Nat) : Upd :=
  withCmd p ref 0x0809 fun c => .read fun s =>
    let st (n : Nat) : Bytes := natLE 1 (Config.extStateCode n)
    match extNow s (par c 0 2) with
    | none => postReply p c stOk 0 (st 3 ++ zeros 31)
    | some e =>
      let held := match regOf s e.region with
        | some r => s.sys.coh.dir.countP fun x => extHolds r e x.1 && (holdersOf (some x.2.st)).contains e.holder
        | none => 0
      postReply p c stOk 0 (st (extPlace e.st) ++ natLE 1 e.holder ++ natLE 1 e.rw.toNat ++ zeros 1 ++ natLE 2 e.region ++ zeros 2 ++
        natLE 8 e.offset ++ natLE 8 e.bytes ++ natLE 4 held ++ zeros 4)

/-- Action 3 of Bell step n for domains, regions and expired revocations. -/
def cohBell (n : Nat) : Upd :=
  .seq [cohMod fun c => { c with doms := c.doms.map fun d => match d.opening with
        | some b => if b ≤ n then { d with opening := none } else d
        | none => d },
    .read fun s => .each s.sys.coh.regions (regionBell n),
    .read fun s => .each s.sys.coh.exts fun e => cmdRevokeWindowEnd e.id]

def execDomDefine (p : Fin 4) (ref : Nat) (s : State) : Host.Outcome State Fault Refusal := (cmdDomDefine p ref).go s
def execDomFail (p : Fin 4) (ref : Nat) (s : State) : Host.Outcome State Fault Refusal := (cmdDomFail p ref).go s
def execDomArm (p : Fin 4) (ref : Nat) (s : State) : Host.Outcome State Fault Refusal := (cmdDomArm p ref).go s
def execDomArmComplete (dom : Nat) (s : State) : Host.Outcome State Fault Refusal := (cmdDomArmComplete dom).go s
def execDomRead (p : Fin 4) (ref : Nat) (s : State) : Host.Outcome State Fault Refusal := (cmdDomRead p ref).go s
def execRegionDefine (p : Fin 4) (ref : Nat) (s : State) : Host.Outcome State Fault Refusal := (cmdRegionDefine p ref).go s
def execRegionFree (p : Fin 4) (ref : Nat) (s : State) : Host.Outcome State Fault Refusal := (cmdRegionFree p ref).go s
def execExtAdd (p : Fin 4) (ref : Nat) (s : State) : Host.Outcome State Fault Refusal := (cmdExtAdd p ref).go s
def execDcdAddResponse (ld : Fin 16) (ext : Nat) (accept : Bool) (s : State) : Host.Outcome State Fault Refusal :=
  (cmdDcdAddResponse ld ext accept).go s
def execExtRelease (p : Fin 4) (ref : Nat) (s : State) : Host.Outcome State Fault Refusal := (cmdExtRelease p ref).go s
def execHostCapacityRelease (ld : Fin 16) (ext : Nat) (s : State) : Host.Outcome State Fault Refusal := (cmdHostCapacityRelease ld ext).go s
def execExtentDrainEnd (ext : Nat) (s : State) : Host.Outcome State Fault Refusal := (cmdExtentDrainEnd ext).go s
def execRevokeWindowEnd (ext : Nat) (s : State) : Host.Outcome State Fault Refusal := (cmdRevokeWindowEnd ext).go s
def execExtRead (p : Fin 4) (ref : Nat) (s : State) : Host.Outcome State Fault Refusal := (cmdExtRead p ref).go s

end Sys2Proof.Machine
end

