-- ==== Sys2Proof/Machine/Ctl.lean ====
section
/-!
DEFINITION. Who may read and write the control space (R317, R488), and the writes that a block discards.
-/

namespace Sys2Proof.Machine

/-- The tenant of an access: of a host, the one bound to its logical device (R487). -/
def issuerTenant (s : State) (w : Issuer) : Option Nat :=
  match w.agent with
  | .host ld => let u := unit s 11 ld.val; if u.state = .bound then some u.tenant else none
  | _ => some w.tenant

/-- Whether a tenant's write to register block `i` of a page is performed (R488). -/
def tenantMayWrite (s : State) (t : Option Nat) (p : Fin 4) (page i : Nat) : Bool :=
  match t with
  | none => false
  | some t => t == 0 || (page == 0x0B && unitServes s 9 (64 * p.val + i) t) ||
      (page == 0x02 && unitServes s 10 (32 * p.val + i) t) || (page == 0x06 && i == t)

/-- Whether a write to a register of a page is performed (R488). -/
def ctlWriteOk (s : State) (w : Issuer) (p : Fin 4) (page i : Nat) : Bool := tenantMayWrite s (issuerTenant s w) p page i

/-- An access refused under R488, counted. -/
def ctlDenied : Upd := .seq [regSetBit .bindStatus 0 0 63, regCount .bindCount 0 0 15 0 1]

/-- A register write of an agent, with what it does when it is performed. -/
def ctlReg (w : Issuer) (p : Fin 4) (r : R) (i : Nat) (k : Upd) : Upd :=
  .read fun s => if ctlWriteOk s w p r.desc.page i then k else ctlDenied

/-- Whether a tenant's read of a control page is performed (R488): for page, byte offset within it. -/
def tenantMayRead (s : State) (t : Option Nat) (p : Fin 4) (page off : Nat) : Bool :=
  match t with
  | none => false
  | some t => t == 0 || page == 0x01 || (page == 0x0B && unitServes s 9 (64 * p.val + off / 0x40) t) ||
      (page == 0x02 && unitServes s 10 (32 * p.val + off / 0x40) t) || (page == 0x06 && off / 8 == t) ||
      (page == 0x18 && unitServes s 10 (32 * p.val + off / 1024) t) ||
      ((page == 0x03 || page == 0x04 || page == 0x07) && tenantIn s p t) ||
      (page == 0x17 && fld (rd s .utCtl p) 43 32 == t)

/-- A software write of a register's bits, in force when the block takes it. -/
def plainWrite (r : R) (p : Fin 4) (i : Nat) (v : Word) : Upd := regMod r p i fun old => swWrite r old v

/-- A software write in force at once. -/
def nowWrite (r : R) (p : Fin 4) (i : Nat) (v : Word) : Upd := regNow r p i fun old => swWrite r old v

end Sys2Proof.Machine
end

