-- ==== Sys2Proof/Machine/Dma.lean ====
section
/-!
DEFINITION. DMA channels (chapter 13) and MEM_COPY (R326, R327, R415): starting, the accesses to other parts and hosts,
completion, failure, abort, descriptor chains, swap modes.
-/

namespace Sys2Proof.Machine

/-! ### Transfers -/

/-- The transfer of a channel. -/
def dmaOf (s : State) (p : Fin 4) (j : Nat) : Option DmaRun := (psys s p).dma.find? (·.j == j)

/-- A channel's transfer changed. -/
def dmaMod (p : Fin 4) (j : Nat) (f : DmaRun → DmaRun) : Upd :=
  .part p fun y => { y with dma := y.dma.map fun r => if r.j = j then f r else r }

/-- Whether an end of a transfer is memory of this part (Table 13.2). -/
def dmaLocal (s : State) (part : Nat) (host : Bool) : Bool := !host && part == partId s

/-- Bytes in swap mode order (Table 13.7). -/
def swapBytes (mode : Nat) (b : Bytes) : Bytes :=
  if mode = 0 then b else (indexed b).map fun x => b.getD (x.1 ^^^ mode) 0

/-- The unit of a swap mode. -/
def swapUnit (mode : Nat) : Nat := match mode with | 0 => 1 | 1 => 2 | _ => 4

/-- Why a transfer ends before it moves a byte: the checks of R349 and R411. COUNT 0 checks no address (R412). -/
def dmaCheck (s : State) (p : Fin 4) (r : DmaRun) : Option Nat :=
  let dl := dmaLocal s r.dstPart r.dstHost
  let sl := dmaLocal s r.srcPart r.srcHost
  if r.tallyEn && !(unitServes s 10 (32 * p.val + r.tally / 128) r.tenant) then some stNotBound
  else if r.count = 0 then none
  else if decide (2 ^ 40 < r.count) || (!r.srcHost && !(oneRow r.src r.count)) || (!r.dstHost && !(oneRow r.dst r.count)) ||
      (!r.dstHost && regionOf (unalias s r.dst) == .cellar) ||
      (!r.srcHost && !r.dstHost && r.srcPart == r.dstPart && overlap (unalias s r.src) r.count (unalias s r.dst) r.count) ||
      (r.swap != 0 && (r.count % swapUnit r.swap != 0 || r.src % swapUnit r.swap != 0 || r.dst % swapUnit r.swap != 0)) then
    some stBadParam
  else if (sl && accessNew s p r.tenant r.src r.count false != .ok) || (dl && accessNew s p r.tenant r.dst r.count true != .ok) then
    some stNotBound
  else none

/-- The transfer of a channel whose write a request is; none where it is another request. -/
def writeNo (p : Fin 4) (j : Nat) (o : Outst) : Option Nat :=
  match o.why with | .dmaWrite q i no => if q = p ∧ i = j then some no else none | _ => none

/-- The numbers of the transfers of a channel with writes not yet performed at another part. -/
def dmaWrites (s : State) (p : Fin 4) (j : Nat) : List Nat := s.sys.fab.outst.filterMap (writeNo p j)

/-- Writes of a channel not yet performed at another part. -/
def dmaInFlight (s : State) (p : Fin 4) (j : Nat) : Bool := !(dmaWrites s p j).isEmpty

/-- Accesses of a channel in flight: those writes, and reads that have not returned. -/
def dmaBusy (s : State) (p : Fin 4) (j : Nat) : Bool := dmaInFlight s p j || s.sys.fab.outst.any fun o => o.why == .dmaRead p j

/-- A number for a channel's next transfer, which no transfer has whose writes or tally are awaited. -/
def dmaNo (s : State) (p : Fin 4) (j : Nat) : Nat :=
  1 + (dmaWrites s p j ++ (((psys s p).dmaTally.filter (·.1 == j)).map (·.2.1))).foldl max 0

/-- Accesses of channels of a partition no longer awaited. -/
def dmaUnawait (p : Fin 4) (mine : Nat → Bool) : Upd :=
  let kept (o : Outst) : Bool := match o.why with
    | .dmaRead q j | .dmaWrite q j _ => !(q == p && mine j)
    | _ => true
  .sys fun y => { y with fab := { y.fab with outst := y.fab.outst.filter kept } }

/-- Channels of a partition idle at once, at a reset of theirs: nothing is awaited of their accesses any more. -/
def dmaForget (p : Fin 4) (mine : Nat → Bool) : Upd :=
  .seq [dmaUnawait p mine,
    .part p fun y => { y with dma := y.dma.filter fun r => !(mine r.j), dmaTally := y.dmaTally.filter fun x => !(mine x.1) }]

/-- A granule-wise move of local bytes: poison of whole lines written is cleared (R352). -/
def memMove (dst src n : Nat) : Upd :=
  .read fun s =>
    let d := unalias s dst
    let a := unalias s src
    .seq [.memCopy d (fun s => if regionOf a = .cellar then s.cellar else s.mem) a n, utTouch d n,
      .sys fun y => { y with poison := y.poison.filter fun l => !(decide (d ≤ l) && decide (l + 64 ≤ d + n)) },
      .when (regionOf d == .loft) (stackLines (stackOf d) (partLines d n))]

/-- The status register of a channel brought to an end: BUSY 0. -/
def dmaIdle (p : Fin 4) (j : Nat) (f : Word → Word) : Upd := regMod .dmaStatus p j fun w => f (setBit w 60 false)

/-- A failed transfer over (R416); the MEM_COPY it serves posts the status. -/
def dmaOver (p : Fin 4) (r : DmaRun) (status moved line ref : Nat) : Upd :=
  .seq [.part p (fun y => { y with dma := y.dma.filter (·.j != r.j) }),
    dmaIdle p r.j fun w => setFld (setBit w 62 true) 47 32 status,
    regMod .dmaMoved p r.j fun w => setFld w 40 0 moved,
    match r.ref with
    | none => .skip
    | some cr => .read fun s => match cmdOf s p cr with
      | none => .skip
      | some c => if status = stPoisoned then
            .seq [fault p (faultOf s p c { faultBase 0x0C 0 with addr := line }), postReply p c status 0 []]
          else postReply p c status 0 [] ref]

/-- A transfer ended with an error: no further access is issued, and it is over when those in flight have come back (R416). -/
def dmaEnd (p : Fin 4) (r : DmaRun) (status moved line : Nat) (ref : Nat := 0) : Upd :=
  .read fun s =>
    if dmaBusy s p r.j then
      .part p fun y => { y with dma := { r with fail := some ⟨status, moved, line, ref⟩ } :: y.dma.filter (·.j != r.j) }
    else dmaOver p r status moved line ref

/-- A failed transfer over once nothing of its channel is in flight. -/
def dmaDrained (p : Fin 4) (j : Nat) : Upd :=
  .read fun s =>
    match dmaOf s p j with
    | some r => match r.fail with
      | some f => .when (!(dmaBusy s p j)) (dmaOver p r f.status f.moved f.line f.faultRef)
      | none => .skip
    | none => .skip

/-- A descriptor's bytes as a transfer (Table 13.6). -/
def descRun (j tenant cls : Nat) (b : Bytes) : DmaRun :=
  { j, no := 0, fail := none, tenant, cls, src := leAt b 0 8, dst := leAt b 8 8, count := leAt b 16 8, srcPart := nfld (leAt b 24 3) 19 0,
    dstPart := nfld (leAt b 27 3) 19 0, srcHost := nbit (leAt b 24 3) 23, dstHost := nbit (leAt b 27 3) 23,
    barrier := nbit (byteAt b 32) 0, tallyEn := nbit (byteAt b 32) 1, swap := nfld (byteAt b 32) 3 2, tally := leAt b 34 2,
    chain := true, last := nbit (byteAt b 32) 4, next := leAt b 40 8, got := [], issued := false, ref := none }

/-- Whether a descriptor's reserved bits are 0. -/
def descOk (b : Bytes) : Bool :=
  decide (leAt b 0 8 < 2 ^ 50) && decide (leAt b 8 8 < 2 ^ 50) && decide (leAt b 16 8 < 2 ^ 41) && nfld (leAt b 24 3) 22 20 == 0 &&
  nfld (leAt b 27 3) 22 20 == 0 && leAt b 30 2 == 0 && decide (byteAt b 32 < 32) && byteAt b 33 == 0 && decide (leAt b 34 2 < 4096) &&
  leAt b 36 4 == 0 && leAt b 48 8 == 0 && leAt b 56 8 == 0

/-- A transfer begun: its checks, and the reads of a source on another part sent (R321, R411). -/
def dmaBegin (p : Fin 4) (r : DmaRun) : Upd :=
  .read fun s =>
    let r := { r with no := dmaNo s p r.j }
    .seq [regMod .dmaMoved p r.j fun w => setFld w 40 0 0,
      .part p fun y => { y with dma := r :: y.dma.filter (·.j != r.j) },
      match dmaCheck s p r with
      | some st => dmaEnd p r st 0 0
      | none =>
        if r.count = 0 ∨ r.srcPart = partId s then .skip
        else
          let pkt (i : Nat) : Packet := mkPacket s r.cls r.srcPart r.tenant 0 (.memRd r.srcHost (r.src + 1024 * i) (min 1024 (r.count - 1024 * i)))
          if canRequest s (pkt 0) then .each (List.range (ceilDiv r.count 1024)) fun i => request (pkt i) (.dmaRead p r.j)
          else dmaEnd p r stNotBound 0 0]

/-- The descriptor at an address begun, or the chain ended (R418). -/
def dmaLoad (p : Fin 4) (j tenant cls a : Nat) : Upd :=
  .read fun s =>
    let b := unalias s a
    let r := descRun j tenant cls (memBytes s a 64)
    let region := regionOf b == .loft || (regionOf b == .pantry && ownerOf s b == some p)
    if a % 64 ≠ 0 ∨ !region ∨ accessNew s p tenant a 64 false ≠ .ok then dmaEnd p r stBadParam 0 0
    else if cohDead s b 64 then dmaEnd p r stDomainFailed 0 0
    else match poisonIn s a 64 with
      | some l => .seq [memErr .poison p (sourceCode .dma) l, dmaEnd p r stPoisoned 0 l]
      | none => if descOk (memBytes s a 64) then .seq [chargeRead s tenant a 64, dmaBegin p r] else dmaEnd p r stBadParam 0 0

/-- Tallies of transfers whose writes have all been performed incremented (R414). -/
def dmaTallies (p : Fin 4) (j : Nat) : Upd :=
  .read fun s =>
    let due (x : Nat × Nat × Nat) : Bool := x.1 == j && !((dmaWrites s p j).contains x.2.1)
    .seq [.each ((psys s p).dmaTally.filter due) (fun x => tallyInc p x.2.2),
      .part p fun y => { y with dmaTally := y.dmaTally.filter fun x => !(due x) }]

/-- A transfer complete (R413, R414): DONE, the tally, and the next descriptor or the end. -/
def dmaDone (p : Fin 4) (r : DmaRun) : Upd :=
  .seq [.part p (fun y => { y with dma := y.dma.filter (·.j != r.j), dmaTally := if r.tallyEn then y.dmaTally ++ [(r.j, r.no, r.tally)] else y.dmaTally }),
    regMod .dmaMoved p r.j fun w => setFld w 40 0 r.count,
    .when r.chain (regCount .dmaStatus p r.j 15 0 1),
    if r.chain && !r.last then regSetBit .dmaStatus p r.j 63 else dmaIdle p r.j fun w => setBit w 63 true,
    dmaTallies p r.j,
    match r.ref with
    | some cr => .read fun s => match cmdOf s p cr with | some c => postReply p c stOk 0 [] | none => .skip
    | none => if r.chain && !r.last then dmaLoad p r.j r.tenant r.cls r.next else .skip]

/-- Granules of 8 bytes of a transfer written when it stopped early: `n` bytes of them, which ones being free (R342, R416); none of the
64-byte source line `line`. -/
def dmaPartial (r : DmaRun) (data : Bytes) (n : Nat) (line : Option Nat) : Upd :=
  .read fun s =>
    if !(dmaLocal s r.dstPart r.dstHost) then .skip
    else
      let cells := (List.range (ceilDiv r.count 8)).filter fun i => match line with
        | some l => !(decide (l / 64 = (r.src + 8 * i) / 64))
        | none => true
      let done := (List.range (min (n / 8) cells.length)).foldl (fun (a : List Nat × List Nat) k =>
        let i := Config.pick (opKey s.sys.free + k) a.2.length % a.2.length
        (a.2.getD i 0 :: a.1, a.2.eraseIdx i)) ([], cells)
      .seq [.sys fun y => { y with free := y.free + 1 },
        .each done.1 fun i => memStore (r.dst + 8 * i) ((data.drop (8 * i)).take 8)]

/-- The bytes of a transfer, in the order they are written. -/
def dmaBytes (s : State) (r : DmaRun) (remote : Bytes) : Bytes :=
  swapBytes r.swap (if dmaLocal s r.srcPart r.srcHost then memBytes s r.src r.count
    else if r.srcPart = partId s then padTo r.count remote else Mem.readBytes r.got 0 r.count)

/-- The writes of a transfer made: to local memory at once, to another part as MEM_WR packets, to a host upstream. -/
def dmaWrite (p : Fin 4) (r : DmaRun) (remote : Bytes) : Upd :=
  .read fun s =>
    let dl := dmaLocal s r.dstPart r.dstHost
    .seq [.when (dmaLocal s r.srcPart r.srcHost) (.seq [flashTake p r.cls (unalias s r.src) (pagesIn r.src r.count),
        chargeRead s r.tenant r.src r.count]),
      if dl then .seq [
        if r.swap = 0 ∧ dmaLocal s r.srcPart r.srcHost then memMove r.dst r.src r.count else memStore r.dst (dmaBytes s r remote),
        chargeWrite s r.tenant r.dst r.count]
      else if r.dstPart = partId s then hostWriteUp r.tenant r.dst (dmaBytes s r remote)
      else remoteWrite r.cls r.dstPart r.tenant r.dstHost r.dst (dmaBytes s r remote) (.dmaWrite p r.j r.no)]

/-- A transfer whose writes are issued, completed when its barrier lets it (R413). -/
def dmaSettle (p : Fin 4) (j : Nat) : Upd :=
  .read fun s =>
    match dmaOf s p j with
    | some r =>
      if r.fail.isSome then .seq [dmaTallies p j, dmaDrained p j]
      else if r.issued ∧ !(r.barrier && dmaInFlight s p j) then dmaDone p r
      else dmaTallies p j
    | none => dmaTallies p j

/-- DMA_COMPLETE (R413, R414): the reads have returned and the writes are issued. -/
def cmdDmaComplete (p : Fin 4) (j : Fin 64) (remote : Bytes) : Upd :=
  .read fun s =>
    match dmaOf s p j.val with
    | none => .skip
    | some r =>
      if r.issued ∨ r.fail.isSome ∨ (s.sys.fab.outst.any fun o => o.why == .dmaRead p j.val) then .skip
      else
        let issued := dmaMod p j.val fun r => { r with issued := true }
        let sl := dmaLocal s r.srcPart r.srcHost
        let dl := dmaLocal s r.dstPart r.dstHost
        if r.count = 0 then .seq [issued, dmaSettle p j.val]
        else if sl && !(flashMay s p r.cls (unalias s r.src)) then .skip
        else if (sl && cohDead s (unalias s r.src) r.count) || (dl && cohDead s (unalias s r.dst) r.count) then
          dmaEnd p r stDomainFailed 0 0
        else cohGate [(unalias s r.src, if sl then r.count else 0, false), (unalias s r.dst, if dl then r.count else 0, true)] <|
        match (if dmaLocal s r.srcPart r.srcHost then poisonIn s r.src r.count else none) with
          | some l =>
            .seq [memErr .poison p (sourceCode .dma) l,
              .fresh fun v =>
                let n := v.toNat % (r.count / 8 + 1) * 8
                .seq [dmaPartial r (dmaBytes s r remote) n (some l), dmaEnd p r stPoisoned n l]]
          | none =>
            let host := (r.srcPart = partId s ∧ r.srcHost) ∨ (r.dstPart = partId s ∧ r.dstHost)
            let pkt := mkPacket s r.cls r.dstPart r.tenant 0 (.memWr r.dstHost r.dst (zeros 1))
            if host ∧ hostStatusOf s r.tenant ≠ stOk then dmaEnd p r (hostStatusOf s r.tenant) 0 0
            else if r.dstPart ≠ partId s ∧ !(canRequest s pkt) then dmaEnd p r stNotBound 0 0
            else .seq [dmaWrite p r remote, issued, dmaSettle p j.val]

/-- DMA_FAIL (R416): an access to a host or another part has failed after `moved` bytes, or a transfer that has failed or was stopped waits
no longer for accesses in flight that were lost: the transfer is over. -/
def cmdDmaFail (p : Fin 4) (j : Fin 64) (status moved : Nat) : Upd :=
  .read fun s =>
    match dmaOf s p j.val with
    | none => .skip
    | some r => match r.fail with
      | some f => .seq [dmaUnawait p (· == j.val), dmaOver p r f.status f.moved f.line f.faultRef]
      | none =>
        let n := min moved r.count
        if dmaLocal s r.srcPart r.srcHost ∧ dmaLocal s r.dstPart r.dstHost then .skip
        else .seq [dmaUnawait p (· == j.val), .when (!r.issued) (dmaPartial r (dmaBytes s r []) n none), dmaOver p r status n 0 0]

/-- A completion of a read of a transfer: its bytes, or the failure (R416). -/
def dmaReadBack (p : Fin 4) (j : Nat) (pkt : Packet) (status : Nat) (data : Bytes) : Upd :=
  .read fun s =>
    match dmaOf s p j, pkt.body with
    | some r, .memRd _ a _ =>
      if r.fail.isSome then dmaDrained p j
      else if status = stOk then dmaMod p j fun r => { r with got := Mem.writeBytes r.got (a - r.src) data }
      else .fresh fun v =>
        let n := v.toNat % (r.count / 8 + 1) * 8
        .seq [dmaPartial r (dmaBytes s r []) n none, dmaEnd p r status n 0]
    | _, _ => .skip

/-- A completion of a write of transfer `no` of a channel: the barrier and the tallies go on, or the transfer fails, its tally is never
raised and its chain goes no further (R416). -/
def dmaWriteBack (p : Fin 4) (j no status : Nat) : Upd :=
  .read fun s =>
    let error := regMod .dmaStatus p j fun w => setFld (setBit w 62 true) 47 32 status
    if status = stOk then dmaSettle p j
    else .seq [.part p fun y => { y with dmaTally := y.dmaTally.filter fun x => !(x.1 == j && x.2.1 == no) },
      match dmaOf s p j with
      | some r =>
        if r.fail.isSome then dmaDrained p j
        else if r.no = no then .fresh fun v => dmaEnd p r status (v.toNat % (r.count + 1)) 0
        else if r.chain then dmaEnd p r status 0 0
        else .seq [error, dmaSettle p j]
      | none => error]

/-! ### The registers (R409, R410, R417) -/

/-- The transfer that a channel's registers describe. -/
def regRun (s : State) (p : Fin 4) (j tenant : Nat) : DmaRun :=
  let parts := rd s .dmaParts p j
  let ctl := rd s .dmaCtl p j
  { j, no := 0, fail := none, tenant, cls := fld ctl 17 16, src := fld (rd s .dmaSrc p j) 49 0, dst := fld (rd s .dmaDst p j) 49 0,
    count := fld (rd s .dmaCount p j) 40 0, srcPart := fld parts 19 0, dstPart := fld parts 51 32, srcHost := bit parts 31,
    dstHost := bit parts 63, barrier := bit ctl 4, tallyEn := bit ctl 20, swap := fld ctl 3 2, tally := fld ctl 43 32,
    chain := false, last := true, next := 0, got := [], issued := false, ref := none }

/-- A transfer or chain started from the registers of a channel; an unbound channel serves no tenant (R485). -/
def dmaGo (p : Fin 4) (j : Nat) : Upd :=
  .read fun s =>
    let u := unit s 9 (64 * p.val + j)
    let ctl := rd s .dmaCtl p j
    .seq [regMod .dmaStatus p j fun w => setFld (setBit w 60 true) 15 0 0,
      if u.state ≠ .bound then dmaEnd p (regRun s p j 0) stNotBound 0 0
      else if bit ctl 8 then dmaLoad p j u.tenant (fld ctl 17 16) (fld (rd s .dmaDesc p j) 49 0)
      else dmaBegin p (regRun s p j u.tenant)]

/-- A transfer stopped by ABORT or a reset: bytes moved so far are free (R416, R417). -/
def dmaStop (p : Fin 4) (j status faultRef : Nat) : Upd :=
  .read fun s =>
    match dmaOf s p j with
    | none => .skip
    | some r => .when r.fail.isNone (.fresh fun v =>
        let n := v.toNat % (r.count / 8 + 1) * 8
        .seq [.when (!r.issued) (dmaPartial r (dmaBytes s r []) n none), dmaEnd p r status n 0 faultRef])

/-- A write of DMA_CTL (R410): while BUSY only ABORT acts; an idle channel takes the fields and starts on START alone. -/
def dmaCtlWrite (p : Fin 4) (j : Nat) (steward : Bool) (v : Word) : Upd :=
  .read fun s =>
    let old := rd s .dmaCtl p j
    let cfgErr := regSetBit .dmaStatus p j 61
    if bit (rd s .dmaStatus p j) 60 then
      .seq [.when (!(bit v 62) || bit v 63 || swWrite .dmaCtl old v != old) cfgErr, .when (bit v 62) (dmaStop p j stContextReset 0)]
    else if fld v 17 16 = 0 ∧ !steward then cfgErr
    else .seq [plainWrite .dmaCtl p j v, .when (bit v 63 && !(bit v 62)) (dmaGo p j)]

/-- A write of another register of a channel: discarded while BUSY, but for the W1C bits of DMA_STATUS (R410). -/
def dmaRegWrite (r : R) (p : Fin 4) (j : Nat) (v : Word) : Upd :=
  .read fun s =>
    if r = .dmaStatus ∨ !(bit (rd s .dmaStatus p j) 60) then plainWrite r p j v else regSetBit .dmaStatus p j 61

/-- DMA_START (R410, R411): a write of DMA_CTL that sets START. -/
def cmdDmaStart (w : Issuer) (p : Fin 4) (j : Fin 64) (v : Word) : Upd :=
  ctlReg w p .dmaCtl j.val (dmaCtlWrite p j.val (w.agent == .steward) v)

/-- DMA_ABORT (R417): a write of DMA_CTL that sets ABORT. -/
def cmdDmaAbort (w : Issuer) (p : Fin 4) (j : Fin 64) (v : Word) : Upd :=
  ctlReg w p .dmaCtl j.val (dmaCtlWrite p j.val (w.agent == .steward) v)

/-! ### MEM_COPY -/

/-- A free channel of a partition for a tenant's MEM_COPY: idle, and bound to the tenant or to nobody. -/
def dmaFree (s : State) (p : Fin 4) (tenant : Nat) : List Nat :=
  (List.range 64).filter fun j =>
    !(bit (rd s .dmaStatus p j) 60) && (unitServes s 9 (64 * p.val + j) tenant || (unit s 9 (64 * p.val + j)).state == .unbound)

def copySrcPart (c : Cmd) : Nat := par c 24 3
def copyDstPart (c : Cmd) : Nat := par c 27 3

/-- MEM_COPY (0x0601). -/
def specMemCopy : OpSpec :=
  { len := fun _ _ _ => 32
    range := fun s _ c =>
      let a := par c 0 8
      let b := par c 8 8
      let n := par c 16 8
      firstBad [(!(oneRow a n), 64), (!(oneRow b n) || regionOf (unalias s b) == .cellar, 72),
        (decide (2 ^ 40 < n) || (copySrcPart c == copyDstPart c && decide (a < b + n) && decide (b < a + n)), 80),
        (decide (2 ^ 20 ≤ copySrcPart c), 88), (decide (2 ^ 20 ≤ copyDstPart c), 91), (par c 30 2 != 0, 94)]
    bound := fun s p c =>
      (copySrcPart c != partId s || par c 16 8 == 0 || accessNew s p c.tenant (par c 0 8) (par c 16 8) false == .ok) &&
      (copyDstPart c != partId s || par c 16 8 == 0 || accessNew s p c.tenant (par c 8 8) (par c 16 8) true == .ok)
    pool := fun s p c => if (dmaFree s p c.tenant).length ≤ (psys s p).cmds.countP (fun d => d.opcode == 0x0601 && d.phase != .running)
      then some 0x0601 else none }

/-- MEM_COPY (R326, R415): a free channel, which one being free, runs the copy with BARRIER. -/
def cmdMemCopy (p : Fin 4) (ref : Nat) : Upd :=
  withCmd p ref 0x0601 fun c => .read fun s =>
    let l := dmaFree s p c.tenant
    let i := if l.length ≤ 1 then 0 else Config.pick (opKey s.sys.free) l.length % l.length
    match l[i]? with
    | none => postPlain p c stRetry 0x0601
    | some j =>
      .seq [.sys fun y => { y with free := y.free + 1 }, cmdMod p ref fun c => { c with phase := .running, aux := j },
        regMod .dmaStatus p j fun w => setBit w 60 true,
        dmaBegin p { j, no := 0, fail := none, tenant := c.tenant, cls := c.cls, src := par c 0 8, dst := par c 8 8, count := par c 16 8, srcPart := copySrcPart c,
                     dstPart := copyDstPart c, srcHost := false, dstHost := false, barrier := true, tallyEn := false, swap := 0,
                     tally := 0, chain := false, last := true, next := 0, got := [], issued := false, ref := some ref }]

def execMemCopy (p : Fin 4) (ref : Nat) (s : State) : Host.Outcome State Fault Refusal := (cmdMemCopy p ref).go s
def execDmaStart (w : Issuer) (p : Fin 4) (j : Fin 64) (v : Word) (s : State) : Host.Outcome State Fault Refusal := (cmdDmaStart w p j v).go s
def execDmaAbort (w : Issuer) (p : Fin 4) (j : Fin 64) (v : Word) (s : State) : Host.Outcome State Fault Refusal := (cmdDmaAbort w p j v).go s
def execDmaComplete (p : Fin 4) (j : Fin 64) (remote : Bytes) (s : State) : Host.Outcome State Fault Refusal := (cmdDmaComplete p j remote).go s
def execDmaFail (p : Fin 4) (j : Fin 64) (status moved : Nat) (s : State) : Host.Outcome State Fault Refusal :=
  (cmdDmaFail p j status moved).go s

end Sys2Proof.Machine
end

