-- ==== Sys2Proof/Machine/Coll.lean ====
section
/-!
DEFINITION. The commands of class 0x02 (Tables 3.2 to 3.5, R90 to R97): COLL_DEFINE, COLL_MAP, SHARD_SET, COLL_OPEN,
COLL_TUNE, COLL_CLOSE, COLL_CLOSE_DONE, COLL_READ.
-/

namespace Sys2Proof.Machine

/-- Whether a command may use a collection ID: bound to its tenant, and not closing unless `closing` (R90, R95, R585). -/
def collMine (s : State) (c : Cmd) (closing : Bool) : Bool :=
  !(utReserved s (par c 0 2)) &&
  match collOf s (par c 0 2) with
  | some x => x.tenant == c.tenant && (closing || x.state != 2)
  | none => false

/-- The descriptor fields' ranges (Table 3.3), with packet offsets; `tune`: only those of bytes 9 to 23. -/
def descBad (d : Bytes) (fmt : Nat) (tune : Bool) : Option Nat :=
  firstBad ((if tune then [] else [
    (decide (4 < byteAt d 2), 66), (dDegree d < 8 || 64 < dDegree d || dDegree d % 8 != 0, 67), (decide (2 < dRefineFmt d), 68),
    (decide (2 < byteAt d 5), 69),
    (if fmt = 0 then dDim d != 0 else dDim d < 64 || 1536 < dDim d || dDim d % 64 != 0 || dDim d % dGroup d != 0, 70),
    (dMetric d == 0 || 2 < dMetric d, 72)]) ++ [
    (dWidth d == 0 || 16 < dWidth d, 73), (dBeam d == 0 || 256 < dBeam d, 74),
    (fmt != 0 && (dDepth d == 0 || dBeam d < dDepth d), 76), (dMaxExpand d == 0, 78),
    (dEntryBeam d == 0 || 256 < dEntryBeam d, 84)] ++
    (if tune then [] else [(dShards d == 0 || 4096 < dShards d, 88), (leAt d 26 6 != 0, 90)]))

/-- COLL_DEFINE (0x0201). -/
def specCollDefine : OpSpec :=
  { len := fun _ _ _ => 32
    range := fun s _ c => match descBad c.params (dRefineFmt c.params) false with
      | some d => some d
      | none => firstBad [((match collOf s (par c 0 2) with | some x => x.tenant == c.tenant && x.state != 2 | none => false), 64)]
    bound := fun s _ c => (collOf s (par c 0 2)).isNone && !(utReserved s (par c 0 2)) }

/-- COLL_DEFINE (R91): the collection is defined. -/
def cmdCollDefine (p : Fin 4) (ref : Nat) : Upd :=
  withCmd p ref 0x0201 fun c => .seq [
    .sys fun y => { y with colls := y.colls ++
      [⟨par c 0 2, c.tenant, c.params.take 32, none, [], [], 0, none⟩] },
    postPlain p c stOk 0]

/-- COLL_MAP (0x0202). -/
def specCollMap : OpSpec :=
  { len := fun _ _ c => 8 + 8 * par c 4 2, exact := fun _ _ _ => true
    range := fun s _ c => firstBad ([(decide (504 < par c 4 2), 68), (par c 6 2 != 0, 70),
      (match collOf s (par c 0 2) with | some x => x.tenant == c.tenant && decide (dShards x.desc < par c 2 2 + par c 4 2) | none => false, 66)] ++
      (List.range (par c 4 2)).map fun i => (par c (8 + 8 * i) 8 / 2 ^ 48 != 0 || nbit (par c (8 + 8 * i) 8) 23, 72 + 8 * i))
    bound := fun s _ c => collMine s c false
    zero := fun _ _ c => if par c 4 2 = 0 then some [] else none }

/-- COLL_MAP (R94): entries set; on an open collection they take effect at the next Bell. -/
def cmdCollMap (p : Fin 4) (ref : Nat) : Upd :=
  withCmd p ref 0x0202 fun c => .read fun s =>
    let es := (List.range (par c 4 2)).map fun i => (par c 2 2 + i, BitVec.ofNat 64 (par c (8 + 8 * i) 8))
    let set (m : Assoc Word) : Assoc Word := es.foldl (fun m e => aset m e.1 e.2) m
    let isOpen := (collOf s (par c 0 2)).any (·.state == 1)
    .seq [collMod (par c 0 2) fun x => if x.state = 1 then { x with mapNext := set x.mapNext } else { x with map := set x.map },
      postReply p c stOk 0 [] 0 (if isOpen then frameNow s + 1 else 0)]

/-! ### SHARD_SET -/

/-- Whether an address lies in the memory of a partition (R92); a part-reserved one and a Pantry way bound to none are left to
step 7. -/
def inPartition (s : State) (p : Fin 4) (a : Nat) : Bool :=
  match regionOf a with
  | .loft => stackOf a / 6 == p.val
  | .pantry => let u := unit s 8 (wayOf a); u.state != .bound || u.partition == p.val
  | .cellar => (a - 0x1000000000000) / 0x400000000000 == p.val
  | _ => false

/-- The addresses of a record that it uses, with their packet offsets and the regions each may lie in (R88, R92). -/
def recAddrs (r : Bytes) (refine : Bool) : List (Nat × Nat × List Region) :=
  let n := if rPlacement r = 0 then rStacks r else 1
  let home : Region := if rPlacement r = 0 then .loft else if rPlacement r = 1 then .cellar else .pantry
  [(rNode r, 88, [home])] ++
  (if refine then [(rRefine r, 96, [if rRefineTier r = 1 then Region.cellar else .loft])] else []) ++
  (if rLayer r then [(rEntryAddr r, 104, [Region.loft])] else []) ++
  [(rEntrySet r, 112, [Region.loft, .pantry])] ++
  (if rPlacement r = 1 then [] else (List.range n).map fun j => (rCode r j, 128 + 8 * j, [home])) ++
  (if rPlacement r = 1 then [(rTag r 0, 176, [Region.loft])] else (List.range n).map fun j => (rTag r j, 176 + 8 * j, [home]))

/-- The stripe checks of a Loft record (R97). -/
def stripeBad (r : Bytes) (codeBytes : Nat) : Option Nat :=
  let n := rStacks r
  let c := perRow codeBytes
  let rows := ceilDiv (rCap r) (c * n)
  firstBad (
    (List.range n).map (fun j => (j != 0 && decide (stackOf (rCode r j) ≤ stackOf (rCode r (j - 1))), 128 + 8 * j)) ++
    (List.range n).map (fun j => (stackOf (rCode r j) != stackOf (rCode r j + rows * 1024 - 1), 128 + 8 * j)) ++
    (List.range n).map (fun j => (stackOf (rTag r j) != stackOf (rCode r j) ||
      stackOf (rTag r j + rows * 2 * c - 1) != stackOf (rCode r j), 176 + 8 * j)))

/-- Step 6 of SHARD_SET (R92, R97, R152). -/
def shardSetBad (s : State) (p : Fin 4) (c : Cmd) : Option Nat :=
  let r := c.params.take 160
  let n := if rPlacement r = 0 then rStacks r else 1
  match collOf s (par c 0 2) with
  | none => none
  | some x =>
    if x.tenant ≠ c.tenant then none
    else
      let d := x.desc
      let refine := dRefineFmt d != 0
      let as := recAddrs r refine
      let m := aget x.map (leAt r 2 2)
      let prim := match m with | some w => mPart w == partId s && mPartition w == p.val | none => false
      let part := match m with | some w => mPartnerValid w && mPartnerPart w == partId s && mPartnerPartition w == p.val | none => false
      firstBad ([
        (!prim && !part, 66), (decide (dShards d ≤ leAt r 2 2), 66), (decide (2 < rPlacement r), 68),
        (prim && (match m with | some w => (rPlacement r == 1) != mCellar w | none => false), 68),
        (if rPlacement r = 0 then rStacks r == 0 || decide (6 < rStacks r) else rStacks r != 1, 69),
        (refine && decide (1 < rRefineTier r), 70), (decide (1 < byteAt r 7), 71), (decide (2 ^ 40 ≤ rBase r), 72),
        (x.state == 1 && (match shardOf s p x.id (leAt r 2 2) with | some h => rBase h.cur != rBase r | none => false), 72),
        (rCap r == 0 || decide (2 ^ 40 < rBase r + rCap r), 80), (rNode r % 32 != 0, 88), (rRefine r % 16 != 0, 96),
        (rEntryN r == 0 || decide (64 < rEntryN r), 120), (leAt r 57 7 != 0, 121)] ++
        (as.map fun a => (!(inPartition s p a.1) || !(a.2.2.contains (regionOf a.1)), a.2.1)) ++
        (List.range 6).map (fun j => (rCode r j % 1024 != 0 ||
          ((decide (n ≤ j) || rPlacement r == 1) && rCode r j != 0), 128 + 8 * j)) ++
        (List.range 6).map (fun j => (rTag r j % 1024 != 0 || (decide (n ≤ j) && rTag r j != 0), 176 + 8 * j)) ++
        (if rPlacement r = 0 then [((stripeBad r (dCodeBytes d)).isSome, (stripeBad r (dCodeBytes d)).getD 0)] else []))

/-- SHARD_SET (0x0203). -/
def specShardSet : OpSpec :=
  { len := fun _ _ _ => 160, range := shardSetBad
    bound := fun s _ c => collMine s c false &&
      ((recAddrs (c.params.take 160) ((collOf s (par c 0 2)).any fun x => dRefineFmt x.desc != 0)).all fun a =>
        cellBound s c.tenant a.1) }

/-- A shard whose record has just been set: its free list to be built (R143), RATE 1,024. -/
def newShard (coll idx : Nat) (r : Bytes) : Shard :=
  { coll, idx, held := true, cur := r, next := none, setBy := none, shelf := 0, free := [], scanPos := 0, rate := 1024, sweeps := 0,
    sweepPos := 0, sweepFrame := 0, tombs := [], lastSweepBegan := 0, lastSweepEnded := 0, shelfState := .none, startFrame := 0,
    mode := 0, copyPos := 0, copied := false, delta := [], swapFrame := 0, old := none, appliedFrame := 0 }

/-- The change a SHARD_SET made to an open collection's shard in force at Bell n, or gone (n = 0): FENCE waits for it no more (R84). -/
def setDone (p : Fin 4) (by' : Option Nat) (n : Nat) : Upd :=
  match by' with
  | none => .skip
  | some ref => .part p fun y => { y with ringEffect := y.ringEffect.map fun e => if e.2.1 = ref then (e.1, e.2.1, n) else e }

/-- SHARD_SET (R92): the current record in a defined collection; in an open one the next shelf, whose swap Bell is yet to come (R84). -/
def cmdShardSet (p : Fin 4) (ref : Nat) : Upd :=
  withCmd p ref 0x0203 fun c => .read fun s =>
    let r := c.params.take 160
    let id := par c 0 2
    let idx := leAt r 2 2
    if (collOf s id).any (·.state == 1) then .seq [
      setDone p ((shardAny s p id idx).bind (·.setBy)) 0,
      .when (shardAny s p id idx).isNone (.part p fun y => { y with shards := { newShard id idx [] with held := false } :: y.shards }),
      shardMod p id idx (fun h => { h with next := some r, setBy := some ref }),
      postReply p c stOk 0 [] 0 (2 ^ 48)]
    else .seq [
      .part p (fun y => { y with shards := newShard id idx r :: y.shards.filter fun h => !(h.coll == id && h.idx == idx) }),
      postPlain p c stOk 0]

/-! ### Opening, tuning, closing, reading -/

/-- Whether a COLL_OPEN's conditions hold (R93). -/
def openOk (s : State) (p : Fin 4) (x : Coll) : Bool :=
  (List.range (dShards x.desc)).all fun i => match aget x.map i with
    | none => false
    | some w => !(mPart w == partId s && mPartition w == p.val) || holdsShard s p x.id i

/-- COLL_OPEN (0x0204). -/
def specCollOpen : OpSpec :=
  { len := fun _ _ _ => 8
    range := fun s p c => firstBad [(par c 2 6 != 0, 66),
      (match collOf s (par c 0 2) with
        | some x => x.tenant == c.tenant && x.state == 0 && x.opening.isNone && !(openOk s p x) | none => false, 64)]
    bound := fun s _ c => collMine s c false }

/-- COLL_OPEN (R93): open from the next Bell; of one already open or opening, no further effect. -/
def cmdCollOpen (p : Fin 4) (ref : Nat) : Upd :=
  withCmd p ref 0x0204 fun c => .read fun s => .seq [
    collMod (par c 0 2) fun x => if x.state = 0 ∧ x.opening = none then { x with opening := some (frameNow s + 1) } else x,
    postReply p c stOk 0 [] 0 (frameNow s + 1)]

/-- COLL_TUNE (0x0205). -/
def specCollTune : OpSpec :=
  { len := fun _ _ _ => 32
    range := fun s _ c => descBad c.params (match collOf s (par c 0 2) with
      | some x => if x.tenant = c.tenant then dRefineFmt x.desc else 0 | none => 0) true
    bound := fun s _ c => collMine s c false }

/-- COLL_TUNE (R94): bytes 9 to 23 of the descriptor, on an open collection from the next Bell. -/
def cmdCollTune (p : Fin 4) (ref : Nat) : Upd :=
  withCmd p ref 0x0205 fun c => .read fun s =>
    let new (d : Bytes) : Bytes := d.take 9 ++ (c.params.drop 9).take 15 ++ d.drop 24
    let isOpen := (collOf s (par c 0 2)).any (·.state == 1)
    .seq [collMod (par c 0 2) fun x => if x.state = 1 then { x with tuned := some (new x.desc) } else { x with desc := new x.desc },
      postReply p c stOk 0 [] 0 (if isOpen then frameNow s + 1 else 0)]

/-- COLL_CLOSE (0x0206). -/
def specCollClose : OpSpec :=
  { len := fun _ _ _ => 8, range := fun _ _ c => firstBad [(par c 2 6 != 0, 66)], bound := fun s _ c => collMine s c true }

/-- COLL_CLOSE (R95): closing at once, a pending opening cancelled; it posts when the last user ends. -/
def cmdCollClose (p : Fin 4) (ref : Nat) : Upd :=
  withCmd p ref 0x0206 fun c => .seq [
    collMod (par c 0 2) fun x => { x with state := 2, opening := none, tuned := none, mapNext := [] },
    cmdMod p ref fun c => { c with phase := .running }]

/-- Whether anything on the part still uses a collection: a walk, an update share, or a staged write of one. -/
def collUsed (s : State) (coll : Nat) : Bool :=
  allP.any fun p => (psys s p).walks.any (·.coll == coll) || (psys s p).shares.any (·.coll == coll) ||
    (psys s p).stage.any (·.coll == coll)

/-- The waiting COLL_CLOSE commands of a collection answered. -/
def closeAnswers (coll : Nat) : Upd :=
  .each allP fun p => .read fun s =>
    .each ((psys s p).cmds.filter fun c => c.opcode == 0x0206 && c.phase == .running && par c 0 2 == coll) fun c =>
      postPlain p c stOk 0

/-- COLL_CLOSE_DONE (R95): the last user of a closing collection has ended; the ID is free and its COLL_CLOSEs post OK. -/
def cmdCollCloseDone (coll : Nat) : Upd :=
  .read fun s => .when ((collOf s coll).any (·.state == 2) && !(collUsed s coll)) (.seq [
    .sys fun y => { y with colls := y.colls.filter (·.id != coll) },
    .each allP (fun p => .seq [
      .each ((psys s p).shards.filter (·.coll == coll)) (fun h => setDone p h.setBy 0),
      .part p fun y => { y with
        shards := y.shards.filter (·.coll != coll)
        repair := y.repair.filter fun r => match r with | .stale k _ _ _ _ _ => k != coll | .relink k _ _ _ => k != coll }]),
    closeAnswers coll])

/-- COLL_READ (0x0207). -/
def specCollRead : OpSpec :=
  { len := fun _ _ _ => 8, range := fun _ _ c => firstBad [(par c 2 6 != 0, 66)], bound := fun s _ c => collMine s c true,
    body := fun _ _ _ => 40 }

/-- COLL_READ (Table 3.2): descriptor, state, shards mapped and shards held here. -/
def cmdCollRead (p : Fin 4) (ref : Nat) : Upd :=
  withCmd p ref 0x0207 fun c => .read fun s =>
    match collOf s (par c 0 2) with
    | none => postPlain p c stNotBound 0
    | some x => postReply p c stOk 0 (padTo 32 x.desc ++ natLE 1 x.state ++ zeros 1 ++ natLE 2 x.map.length ++
        natLE 2 ((psys s p).shards.countP fun h => h.held && h.coll == x.id) ++ zeros 2)

/-- What becomes of the collections at Bell n: openings, maps and tunings that take effect (R93, R94). -/
def collBell (n : Nat) : Upd :=
  .sys fun y => { y with colls := y.colls.map fun x =>
    let x := if x.opening.any (fun b => decide (b ≤ n)) ∧ x.state = 0 then { x with state := 1, opening := none } else x
    { x with map := x.mapNext.foldl (fun m e => aset m e.1 e.2) x.map, mapNext := [], desc := x.tuned.getD x.desc, tuned := none } }

def execCollDefine (p : Fin 4) (ref : Nat) (s : State) : Host.Outcome State Fault Refusal := (cmdCollDefine p ref).go s
def execCollMap (p : Fin 4) (ref : Nat) (s : State) : Host.Outcome State Fault Refusal := (cmdCollMap p ref).go s
def execShardSet (p : Fin 4) (ref : Nat) (s : State) : Host.Outcome State Fault Refusal := (cmdShardSet p ref).go s
def execCollOpen (p : Fin 4) (ref : Nat) (s : State) : Host.Outcome State Fault Refusal := (cmdCollOpen p ref).go s
def execCollTune (p : Fin 4) (ref : Nat) (s : State) : Host.Outcome State Fault Refusal := (cmdCollTune p ref).go s
def execCollClose (p : Fin 4) (ref : Nat) (s : State) : Host.Outcome State Fault Refusal := (cmdCollClose p ref).go s
def execCollCloseDone (coll : Nat) (s : State) : Host.Outcome State Fault Refusal := (cmdCollCloseDone coll).go s
def execCollRead (p : Fin 4) (ref : Nat) (s : State) : Host.Outcome State Fault Refusal := (cmdCollRead p ref).go s

end Sys2Proof.Machine
end

