-- ==== Sys2Proof/Machine/Maintain.lean ====
section
/-!
DEFINITION. The upkeep of shards (chapter 4): COMPACT, REPAIR_CTL, REPAIR_ENTRY, REPAIR_SWEEP, FREE_LIST_SCAN, and the
shelves: SHELF_BUILD, SHELF_COPY_DONE, SHELF_REPLAY, SHELF_SWAP, SHELF_RETIRE.
-/

namespace Sys2Proof.Machine

/-- The shard a command names by COLL_ID (0–1) and SHARD (2–3), in a collection of its tenant. -/
def namedShard (s : State) (p : Fin 4) (c : Cmd) : Option Shard :=
  if (tenantDesc s c 0).isSome then shardOf s p (par c 0 2) (par c 2 2) else none

/-- The same for the shelf commands, which may name a shard that has a next record alone. -/
def namedShelf (s : State) (p : Fin 4) (c : Cmd) : Option Shard :=
  if (tenantDesc s c 0).isSome then shardAny s p (par c 0 2) (par c 2 2) else none

/-- Whether a command names a collection of its tenant but a shard that is not held here. -/
def shardMissing (s : State) (p : Fin 4) (c : Cmd) : Bool := (tenantDesc s c 0).isSome && (namedShard s p c).isNone

/-! ### Compaction (R141, R142) -/

/-- Slots eligible for reclaim: a sweep both began and ended after the Bell at which the tombstone became visible (R142).
A slot with a reclaim already staged is not named twice. -/
def eligible (s : State) (p : Fin 4) (h : Shard) : List Nat :=
  ((h.tombs.filter fun t => h.sweeps != 0 && decide (t.2 ≤ h.lastSweepBegan)).map (·.1)).filter fun slot =>
    !((psys s p).stage.any fun x => x.coll == h.coll && x.shard == h.idx && x.shelf == h.shelf &&
      x.node == rBase h.cur + slot && (match x.edit with | .tag _ false _ => true | _ => false))

/-- Some m elements of a list, which ones being free from `seed` on. -/
def pickSome {α : Type} (seed : Nat) : Nat → List α → List α
  | 0, _ => []
  | m + 1, l =>
    let i := if l.length ≤ 1 then 0 else Config.pick seed l.length % l.length
    match l[i]? with
    | none => []
    | some x => x :: pickSome (seed + 1) m (l.eraseIdx i)

/-- COMPACT (0x0405): a Cellar shard, or one not held here, is refused (R144). -/
def specCompact : OpSpec :=
  { len := fun _ _ _ => 16, bound := fun s _ c => (tenantDesc s c 0).isSome, body := fun _ _ _ => 16
    range := fun s p c => firstBad [
      (shardMissing s p c || (namedShard s p c).any fun h => rPlacement h.cur == 1, 66), (par c 4 4 != 0, 68)]
    zero := fun s p c => if par c 8 8 = 0 then
        some (natLE 8 0 ++ natLE 8 (match namedShard s p c with | some h => (eligible s p h).length | none => 0)) else none }

/-- COMPACT (R141, R142): eligible slots reclaimed by staged writes, within the entries the frame may still commit (R135);
it goes on in later frames until MAX_SLOTS are reclaimed or none is eligible. -/
def cmdCompact (p : Fin 4) (ref : Nat) : Upd :=
  withCmd p ref 0x0405 fun c => .read fun s =>
    match namedShard s p c with
    | none => postPlain p c stNotBound 0
    | some h =>
      let g := graphOf s h h.shelf
      let el := eligible s p h
      let room := 4096 - (psys s p).committedN
      let take := pickSome (opKey s.sys.free) (min room (min (par c 8 8 - c.aux) el.length)) el
      let done := c.aux + take.length
      .seq [.sys (fun y => { y with free := y.free + 1 }),
        commitEdits p g ref take.length (take.flatMap fun slot =>
          [(rBase g.rcd + slot, .tag (((tagOf s g.rcd g.codeBytes (rBase g.rcd + slot)).gen + 1) % 256) false false),
           (rBase g.rcd + slot, .clearEdges)]),
        if done = par c 8 8 ∨ take.length = el.length then
          postReply p c stOk 0 (natLE 8 done ++ natLE 8 (el.length - take.length)) 0
            (if done = 0 then 0 else frameNow s + 1)
        else cmdMod p ref fun c => { c with aux := done }]

/-! ### Repair (R145 to R147) -/

/-- REPAIR_CTL (0x040A). -/
def specRepairCtl : OpSpec :=
  { len := fun _ _ _ => 16, bound := fun s _ c => (tenantDesc s c 0).isSome, body := fun _ _ _ => 32
    range := fun s p c => firstBad [(shardMissing s p c, 66), (decide (1 < par c 4 1), 68), (par c 5 3 != 0, 69),
      (par c 4 1 == 1 && decide (16384 < par c 8 2), 72), (par c 10 6 != 0, 74)] }

/-- REPAIR_CTL (Table 4.11): RATE set with SET, and the state of repair read. -/
def cmdRepairCtl (p : Fin 4) (ref : Nat) : Upd :=
  withCmd p ref 0x040A fun c => .read fun s =>
    match namedShard s p c with
    | none => postPlain p c stNotBound 0
    | some h =>
      let rate := if par c 4 1 = 1 then par c 8 2 else h.rate
      .seq [shardMod p h.coll h.idx fun h => { h with rate },
        postReply p c stOk 0 (natLE 2 rate ++ zeros 2 ++ natLE 4 h.sweeps ++ natLE 8 h.sweepPos ++
          natLE 4 (psys s p).repair.length ++ natLE 4 (psys s p).repairDropped ++ natLE 8 h.tombs.length)]

/-- The walk that relinks a node (R145): a class-3 insert walk on the node's current code, on a shard's graph or on its entry layer. -/
def relinkWalk (s : State) (g : Graph) (d : Bytes) (node : Nat) (slots : List Nat) : Walk :=
  { id := slots.headD 0, why := .relink node, ref := 0, state := .queued, spot := .steward, started := false, cls := 3, tenant := g.tenant,
    coll := g.coll, shard := g.shard, rcd := g.rcd, shelf := g.shelf, width := dWidth d, beam := dBeam d,
    maxExpand := dMaxExpand d, maxFrames := 0, entryBeam := dEntryBeam d, batchWin := dBatchWin d,
    pageWin := dPageWin d, hub := false, seeds := [], query := memBytes s (codeAddr g.rcd g.codeBytes node) g.codeBytes,
    queue := [], filter := [], flight := [], layer := none, stop := 0, accFrame := frameNow s, admFrame := 0, slots,
    expansions := 0, compared := 0, suppressed := 0, stale := 0, transit := 0, parks := 0, degree := dDegree d,
    codeBytes := dCodeBytes d, refine := false, refineDepth := 0, refineFmt := 0, refineGroup := 32, refineDim := 0,
    metric := 1, k := 0, payload := false, qrefine := [] }

/-- The graph a repair entry is for: a shard's current shelf, or its entry layer where it has one. -/
def repairGraph (s : State) (h : Shard) (layer : Bool) : Option Graph :=
  if layer then (if rLayer h.cur then some (graphOf s h (2 + h.shelf)) else none) else some (graphOf s h h.shelf)

/-- REPAIR_ENTRY (R145): the oldest entry of the repair list: remove (u, g) on v, or the node's relink walk queued. It
waits while repair has no entry left to commit in the frame, or no walk context is free. -/
def cmdRepairEntry (p : Fin 4) : Upd :=
  .read fun s =>
    let pop : Upd := .part p fun y => { y with repair := y.repair.drop 1 }
    match (psys s p).repair with
    | [] => .skip
    | .stale coll shard layer v u g :: _ =>
      match (shardOf s p coll shard).bind fun h => repairGraph s h layer with
      | none => pop
      | some gr => .when (repairRoom s p != 0)
          (.seq [pop, .when (inShard gr.rcd v) (commitEdits p gr 0 1 [(v, .remove u g)])])
    | .relink coll shard layer node :: _ =>
      match (shardOf s p coll shard).bind fun h => repairGraph s h layer, collOf s coll with
      | some g, some x =>
        let t := tagOf s g.rcd g.codeBytes node
        if rPlacement g.rcd = 1 ∨ !t.live ∨ t.tomb then pop
        else match takeSlots s p x.tenant (slotsFor (dBeam x.desc) (dCodeBytes x.desc)) with
          | none => .skip
          | some slots => .seq [pop,
              .part p (fun y => { y with walks := y.walks ++ [relinkWalk s g x.desc node slots] }), placeWalks p]
      | _, _ => pop

/-- The neighbour of tombstoned `t` that takes its place in a record: live, not tombstoned, absent from the record and
nearest to the record's own code (R146); free among equally near ones. -/
def swapFor (s : State) (g : Graph) (seed v t : Nat) (own : List (Nat × Nat)) : Option (Nat × Nat) :=
  let es := edgesOf (memBytes s (nodeAddr g.rcd g.deg g.codeBytes t) (nodeLen g.rcd g.deg g.codeBytes)) g.deg
  let ok := es.filter fun e =>
    let k := tagOf s g.rcd g.codeBytes e.1
    inShard g.rcd e.1 && k.live && !k.tomb && k.gen == e.2 && !(own.any (·.1 == e.1)) && e.1 != v
  let best := ok.foldl (fun a e => min a (g.dist s v e.1)) 0x10000
  let near := ok.filter fun e => g.dist s v e.1 == best
  if near.length ≤ 1 then near.head? else near[Config.pick seed near.length % near.length]?

/-- What the sweep does to one record's edges (R146). -/
def sweepEdits (s : State) (g : Graph) (seed v : Nat) : List Edit :=
  let own := edgesOf (memBytes s (nodeAddr g.rcd g.deg g.codeBytes v) (nodeLen g.rcd g.deg g.codeBytes)) g.deg
  (own.foldl (fun (a : List Edit × List (Nat × Nat)) e =>
    let k := tagOf s g.rcd g.codeBytes e.1
    if !(inShard g.rcd e.1) || !k.live || k.gen != e.2 then (a.1 ++ [.remove e.1 e.2], a.2)
    else if k.tomb then
      match swapFor s g (seed + a.1.length) v e.1 a.2 with
      | some w => (a.1 ++ [.swap e.1 e.2 w.1 w.2], a.2 ++ [w])
      | none => (a.1 ++ [.remove e.1 e.2], a.2)
    else a) ([], own)).1

/-- One record of a sweep, and the sweep's beginning and end; it waits while repair has no entry left to commit. -/
def sweepOne (p : Fin 4) (coll shard : Nat) : Upd :=
  .read fun s =>
    match shardOf s p coll shard with
    | none => .skip
    | some h =>
      if repairRoom s p = 0 then .skip
      else
        let g := graphOf s h h.shelf
        let v := rBase h.cur + h.sweepPos
        let na := nodeAddr g.rcd g.deg g.codeBytes v
        let n := frameNow s
        .seq [.part p fun y => { y with swept := y.swept + 1 },
          match poisonIn s na (nodeLen g.rcd g.deg g.codeBytes) with
          | some l => memErr .poison p (sourceCode .steward) l
          | none => .seq [.sys (fun y => { y with free := y.free + 1 }),
              commitEdits p g 0 1 ((sweepEdits s g (opKey s.sys.free) v).map (v, ·))],
          shardMod p coll shard fun h =>
            let h := if h.sweepPos = 0 then { h with sweepFrame := n } else h
            if h.sweepPos + 1 < rCap h.cur then { h with sweepPos := h.sweepPos + 1 }
            else { h with sweepPos := 0, sweeps := (h.sweeps + 1) % 2 ^ 32, lastSweepBegan := h.sweepFrame, lastSweepEnded := n }]

/-- Several records of a sweep. -/
def sweepMany (p : Fin 4) (coll shard : Nat) : Nat → Upd
  | 0 => .skip
  | n + 1 => .seq [sweepOne p coll shard, sweepMany p coll shard n]

/-- REPAIR_SWEEP (R146): records of a Loft or Pantry shard, as many as leave the partition's sweeps within the shard's RATE in this
frame. -/
def cmdRepairSweep (p : Fin 4) (coll shard : Nat) : Upd :=
  .read fun s =>
    match shardOf s p coll shard with
    | none => .skip
    | some h => .when (rPlacement h.cur != 1) (sweepMany p coll shard (h.rate - (psys s p).swept))

/-- FREE_LIST_SCAN (R143): the next n slots' tags; a slot whose tag is not LIVE is free, and one that is tombstoned counts
as seen so in this frame. A tag that reads as poison frees nothing. -/
def cmdFreeListScan (p : Fin 4) (coll shard n : Nat) : Upd :=
  .read fun s =>
    match shardOf s p coll shard with
    | none => .skip
    | some h =>
      let g := graphOf s h h.shelf
      let slots := (List.range (min n (rCap h.cur - h.scanPos))).map (h.scanPos + ·)
      let bad := slots.filterMap fun k => poisonIn s (tagAddr g.rcd g.codeBytes (rBase g.rcd + k)) 2
      let ok := slots.filter fun k => (poisonIn s (tagAddr g.rcd g.codeBytes (rBase g.rcd + k)) 2).isNone
      let tag (k : Nat) : Tag := tagOf s g.rcd g.codeBytes (rBase g.rcd + k)
      .seq [.each bad fun l => memErr .poison p (sourceCode .steward) l,
        shardMod p coll shard fun h => { h with
          scanPos := h.scanPos + slots.length
          free := h.free ++ ok.filter fun k => !(tag k).live && !(h.free.contains k)
          tombs := (ok.filter fun k => (tag k).live && (tag k).tomb && !(ahas h.tombs k)).foldl
            (fun m k => aset m k (frameNow s)) h.tombs }]

/-! ### Shelves (R151 to R158) -/

/-- SHELF_BUILD (0x0406): MODE 1 needs a next record that is not in the Cellar (R151). -/
def specShelfBuild : OpSpec :=
  { len := fun _ _ _ => 8, bound := fun s _ c => (tenantDesc s c 0).isSome, body := fun _ _ _ => 8
    range := fun s p c => firstBad [((tenantDesc s c 0).isSome && (namedShelf s p c).isNone, 66),
      (decide (1 < par c 4 1) || (par c 4 1 == 1 && (namedShelf s p c).any fun h =>
        match h.next with | none => true | some r => rPlacement r == 1), 68),
      (par c 5 3 != 0, 69)] }

/-- SHELF_BUILD (R151): the delta list starts at the next Bell. Of a shard whose shelf is being built, replayed, mirrored or retired
already the spec says nothing: the build starts again with an empty list (DESIGN CHOICE, log entry 112). -/
def cmdShelfBuild (p : Fin 4) (ref : Nat) : Upd :=
  withCmd p ref 0x0406 fun c => .read fun s =>
    let n := frameNow s + 1
    .seq [shardMod p (par c 0 2) (par c 2 2) fun h => { h with
        shelfState := .building, startFrame := n, mode := par c 4 1, copyPos := 0, copied := false, delta := [] },
      postReply p c stOk 0 (natLE 6 n ++ zeros 2)]

/-- Whether a shard's replay has ended, so that it is mirrored (R153). -/
def mirrorIfEmpty (p : Fin 4) (coll shard : Nat) : Upd :=
  shardMod p coll shard fun h => if h.shelfState = .replaying ∧ h.delta = [] ∧ h.next.isSome then { h with shelfState := .mirrored } else h

/-- Whether a build or replay request may enter the queues now (R157): a quarter of the walk admission queue and of each comparison queue
of the partition free, and a class-3 token left. -/
def shelfMay (s : State) (p : Fin 4) : Bool :=
  quarterFree qWalks (walkQueue (psys s p)) &&
  ((64 :: ((List.range 6).map (6 * p.val + ·) ++ (List.range 8).map (32 + 8 * p.val + ·))).all fun k => quarterFree qCompare (compareQueue s p k)) &&
  (match shaperTokens s p 3 with | some t => decide (0 < t) | none => true)

/-- Where a node's code is found on a shelf: its code row, or for a Cellar shelf a copy in the block of a node with an
edge to it (Table 3.9). -/
def codeFrom (s : State) (g : Graph) (u gen : Nat) : Option Bytes :=
  if rPlacement g.rcd = 1 then
    (List.range (rCap g.rcd)).findSome? fun k =>
      let v := rBase g.rcd + k
      let b := memBytes s (nodeAddr g.rcd g.deg g.codeBytes v) (nodeLen g.rcd g.deg g.codeBytes)
      let i := (edgesOf b g.deg).findIdx (· == (u, gen))
      if i < (edgesOf b g.deg).length then some ((b.drop (blockCodes g.deg + i * g.codeBytes)).take g.codeBytes) else none
  else some (memBytes s (codeAddr g.rcd g.codeBytes u) g.codeBytes)

/-- One slot of the current shelf `g` copied to the next shelf `t` (R151): a live node with its code, refine record and
header, and its edges as R146 sets them; a tombstoned one left out, its generation raised. -/
def copySlot (g t : Graph) (refineBytes k : Nat) : Upd :=
  .read fun s =>
    let u := rBase g.rcd + k
    let tag := tagOf s g.rcd g.codeBytes u
    let seed := opKey s.sys.free
    let put (gen : Nat) (live : Bool) : Upd := memStore (tagAddr t.rcd t.codeBytes u) (tagBytes gen live false)
    if tag.live && !tag.tomb then
      let b := memBytes s (nodeAddr g.rcd g.deg g.codeBytes u) (nodeLen g.rcd g.deg g.codeBytes)
      let es := (sweepEdits s g (seed + 4096) u).foldl (applyEdit g.deg) (edgesOf b g.deg)
      .seq [.sys fun y => { y with free := y.free + 1 },
        memStore (codeAddr t.rcd t.codeBytes u) ((codeFrom s g u tag.gen).getD (freeBytes g.codeBytes seed)),
        .when (refineBytes != 0) (memStore (refineAddr t.rcd refineBytes u) (memBytes s (refineAddr g.rcd refineBytes u) refineBytes)),
        memStore (nodeAddr t.rcd t.deg t.codeBytes u)
          (b.take 5 ++ natLE 1 es.length ++ (b.take 32).drop 6 ++ es.flatMap fun e => natLE 5 e.1 ++ natLE 1 e.2),
        put tag.gen true]
    else put (if tag.live then tag.gen + 1 else tag.gen) false

/-- Slots of a MODE 1 copy made, up to n, as far as R157 lets them; slots beyond the current capacity hold no node. -/
def copySlots (p : Fin 4) (coll shard refineBytes : Nat) : Nat → Upd
  | 0 => .skip
  | n + 1 => .read fun s => match shardAny s p coll shard with
    | none => .skip
    | some h => match h.next with
      | none => .skip
      | some r =>
        let g := graphOf s h h.shelf
        let t := graphOf s h (1 - h.shelf)
        .when (decide (h.copyPos < rCap r) && shelfMay s p) (.seq [shaperTake p 3 1,
          if h.copyPos < rCap h.cur then copySlot g t refineBytes h.copyPos
          else memStore (tagAddr t.rcd t.codeBytes (rBase r + h.copyPos)) (zeros 2),
          shardMod p coll shard fun h => { h with copyPos := h.copyPos + 1 },
          copySlots p coll shard refineBytes n])

/-- SHELF_COPY_DONE (R151, R153, R157): the MODE 1 copy carried on within the frame's class-3 tokens and the queues' room; when its last
slot is copied it ends and the replay begins. The entry set and the entry layer's record are copied as they are. -/
def cmdShelfCopyDone (p : Fin 4) (coll shard : Nat) : Upd :=
  .read fun s =>
    match shardAny s p coll shard, collOf s coll with
    | some h, some x =>
      match h.next with
      | none => .skip
      | some r =>
        let d := x.desc
        let rb := if dRefineFmt d = 0 then 0 else refineRecBytes (dRefineFmt d) (dGroup d) (dDim d)
        .when (h.shelfState == .building && h.mode == 1 && decide (h.startFrame ≤ frameNow s) && rPlacement r != 1)
          (.seq [copySlots p coll shard rb (rCap r - h.copyPos),
            .read fun s => .when ((shardAny s p coll shard).any fun h => decide (rCap r ≤ h.copyPos)) (.seq [
             memStore (rEntrySet r) (memBytes s (rEntrySet h.cur) (8 * min (rEntryN r) (rEntryN h.cur))),
             .when (rLayer r && rLayer h.cur) (memStore (rEntryAddr r) (memBytes s (rEntryAddr h.cur) 160)),
             shardMod p coll shard fun h => { h with copied := true, shelfState := .replaying },
             mirrorIfEmpty p coll shard])])
    | _, _ => .skip

/-- Whether a delta is skipped on the next shelf (R153). -/
def replaySkips (s : State) (t : Graph) (d : Delta) : Bool :=
  let tag := tagOf s t.rcd t.codeBytes d.node
  let usn := memLE s (nodeAddr t.rcd t.deg t.codeBytes d.node + 8) 8
  if d.opcode = 0x0401 then tag.live && tag.gen == d.gen && decide (d.usn ≤ usn) else d.opcode != 0 && decide (d.usn ≤ usn)

/-- One delta replayed onto the next shelf, or skipped (R153); one replayed counts among the entries of the frame (R135). -/
def replayOne (p : Fin 4) (coll shard : Nat) : Upd :=
  .read fun s =>
    match shardAny s p coll shard with
    | none => .skip
    | some h =>
      match h.delta, h.next with
      | d :: _, some _ =>
        let t := graphOf s h (1 - h.shelf)
        .seq [.when (!(replaySkips s t d)) (.seq [
            .part p (fun y => { y with committedN := y.committedN + 1 }),
            .when (d.opcode == 0x0401) (insertContents t d.node d.usn d.payload d.code d.refine),
            .each d.edits fun e => applyStaged p (frameNow s) ⟨coll, shard, 1 - h.shelf, e.1, e.2, 0, some d.commit⟩]),
          shardMod p coll shard fun h => { h with delta := h.delta.drop 1 }]
      | _, _ => .skip

/-- Up to n deltas replayed, each within R157 and the 4,096 entries of the frame (R135). -/
def replayMany (p : Fin 4) (coll shard : Nat) : Nat → Upd
  | 0 => .skip
  | n + 1 => .read fun s =>
    .when (shelfMay s p && decide ((psys s p).committedN < 4096) && (shardAny s p coll shard).any fun h => h.delta != [])
      (.seq [shaperTake p 3 1, replayOne p coll shard, replayMany p coll shard n])

/-- SHELF_REPLAY (R153): deltas replayed in commit order; the shard is mirrored from the first moment none is left. -/
def cmdShelfReplay (p : Fin 4) (coll shard n : Nat) : Upd :=
  .read fun s => .when ((shardAny s p coll shard).any fun h => h.shelfState == .replaying)
    (.seq [replayMany p coll shard (min n 1048576), mirrorIfEmpty p coll shard])

/-- SHELF_SWAP (0x0407): of an aborted build it completes with BAD_PARAM (R158). -/
def specShelfSwap : OpSpec :=
  { len := fun _ _ _ => 16, bound := fun s _ c => (tenantDesc s c 0).isSome, body := fun _ _ _ => 16
    range := fun s p c => firstBad [
      (((tenantDesc s c 0).isSome && (namedShelf s p c).isNone) || (namedShelf s p c).any fun h => h.shelfState == .aborted, 66),
      (decide (1 < par c 4 1), 68), (par c 5 1 != 0, 69), (par c 12 4 != 0, 76)] }

/-- A SHELF_SWAP accepted (R153): with MODE 0 the replay begins. -/
def swapAccept (p : Fin 4) (c : Cmd) : Upd :=
  .seq [shardMod p (par c 0 2) (par c 2 2) fun h =>
      if h.shelfState = .building ∧ h.mode = 0 then { h with shelfState := .replaying } else h,
    mirrorIfEmpty p (par c 0 2) (par c 2 2)]

/-- SHELF_SWAP (R155, R158): the swap is taken at a Bell; of a build that has ended since, it completes with BAD_PARAM. -/
def cmdShelfSwap (p : Fin 4) (ref : Nat) : Upd :=
  withCmd p ref 0x0407 fun c => .read fun s =>
    if (namedShelf s p c).any fun h => h.shelfState == .aborted then postPlain p c stBadParam 66
    else cmdMod p ref fun c => { c with phase := .running }

/-- The SHELF_SWAP commands that wait for a shard: `swapped` those whose swap Bell has been. -/
def swapsOf (s : State) (p : Fin 4) (h : Shard) (swapped : Bool) : List Cmd :=
  (psys s p).cmds.filter fun c => c.opcode == 0x0407 && c.phase == .running && par c 0 2 == h.coll && par c 2 2 == h.idx &&
    (c.aux != 0) == swapped

/-- The reply of a SHELF_SWAP; RETIRE_FRAME of one that does not wait for the retirement is not stated. -/
def swapReply (p : Fin 4) (c : Cmd) (swapFrame : Nat) (retire : Option Nat) : Upd :=
  match retire with
  | some r => postReply p c stOk 0 (natLE 6 swapFrame ++ natLE 6 r ++ zeros 4) 0 swapFrame
  | none => .fresh fun v => postReply p c stOk 0 (natLE 6 swapFrame ++ natLE 6 v.toNat ++ zeros 4) 0 swapFrame

/-- A shard's retirement, once no walk is on the old shelf (R155). -/
def shelfRetire (p : Fin 4) (coll shard : Nat) : Upd :=
  .read fun s =>
    match shardOf s p coll shard with
    | none => .skip
    | some h =>
      .when (h.shelfState == .retiring &&
          !((psys s p).walks.any fun w => w.coll == coll && w.shard == shard && w.shelf % 2 != h.shelf))
        (.seq [shardMod p coll shard fun h => { h with shelfState := .none, old := none },
          .each (swapsOf s p h true) fun c => swapReply p c c.aux (some (frameNow s))])

/-- The swap of a shard at action 3 of Bell step n (R154): the next shelf becomes current. Slots whose tombstone the new
shelf does not hold are free. -/
def shelfSwapBell (p : Fin 4) (n : Nat) : Upd :=
  .read fun s => .each (psys s p).shards fun h => .read fun s =>
    match h.next with
    | none => .skip
    | some r =>
      let due := (swapsOf s p h false).filter fun c => par c 6 6 ≤ n
      .when (h.shelfState == .mirrored && !due.isEmpty) (
        let t := graphOf s h (1 - h.shelf)
        let gone := (h.tombs.filter fun x => !(tagOf s t.rcd t.codeBytes (rBase r + x.1)).live).map (·.1)
        .seq [setDone p h.setBy n, shardMod p h.coll h.idx fun h => { h with
            held := true, setBy := none, cur := r, next := none, old := if h.held then some h.cur else none, shelf := 1 - h.shelf, shelfState := .retiring, swapFrame := n,
            delta := [], tombs := h.tombs.filter fun x => !(gone.contains x.1), free := h.free ++ gone },
          .each due fun c =>
            if nbit (par c 4 1) 0 then cmdMod p c.ref fun c => { c with aux := n } else swapReply p c n none])

/-- SHELF_RETIRE (R155). -/
def cmdShelfRetire (p : Fin 4) (coll shard : Nat) : Upd := shelfRetire p coll shard

def execCompact (p : Fin 4) (ref : Nat) (s : State) : Host.Outcome State Fault Refusal := (cmdCompact p ref).go s
def execRepairCtl (p : Fin 4) (ref : Nat) (s : State) : Host.Outcome State Fault Refusal := (cmdRepairCtl p ref).go s
def execRepairEntry (p : Fin 4) (s : State) : Host.Outcome State Fault Refusal := (cmdRepairEntry p).go s
def execRepairSweep (p : Fin 4) (coll shard : Nat) (s : State) : Host.Outcome State Fault Refusal :=
  (cmdRepairSweep p coll shard).go s
def execFreeListScan (p : Fin 4) (coll shard n : Nat) (s : State) : Host.Outcome State Fault Refusal :=
  (cmdFreeListScan p coll shard n).go s
def execShelfBuild (p : Fin 4) (ref : Nat) (s : State) : Host.Outcome State Fault Refusal := (cmdShelfBuild p ref).go s
def execShelfCopyDone (p : Fin 4) (coll shard : Nat) (s : State) : Host.Outcome State Fault Refusal :=
  (cmdShelfCopyDone p coll shard).go s
def execShelfReplay (p : Fin 4) (coll shard n : Nat) (s : State) : Host.Outcome State Fault Refusal :=
  (cmdShelfReplay p coll shard n).go s
def execShelfSwap (p : Fin 4) (ref : Nat) (s : State) : Host.Outcome State Fault Refusal := (cmdShelfSwap p ref).go s
def execShelfRetire (p : Fin 4) (coll shard : Nat) (s : State) : Host.Outcome State Fault Refusal :=
  (cmdShelfRetire p coll shard).go s

end Sys2Proof.Machine
end

