-- ==== Sys2Proof/Machine/Flash.lean ====
section
/-!
DEFINITION. The Cellar (chapter 12): the map of the window, ingest and release, fold and collection, scrub, the LDPC stages'
outcomes, the channel Sieves, health, format and start-up.
-/

namespace Sys2Proof.Machine

/-! ### Channels -/

/-- The partition of a channel and its number there (R407). -/
def flP (c : Nat) : Fin 4 := toP (c / 8)
def flJ (c : Nat) : Nat := c % 8

/-- A channel's data. -/
def chan (s : State) (c : Nat) : Channel := s.sys.chans.get (Fin.ofNat 32 c)

/-- A channel's data changed. -/
def chanMod (c : Nat) (f : Channel → Channel) : Upd := .sys fun y => { y with chans := updAt y.chans (Fin.ofNat 32 c) f }

/-- FL_STATUS.STATE set. -/
def flState (c st : Nat) : Upd := regMod .flStatus (flP c) (flJ c) fun w => setFld w 59 56 st

/-- GC_HOLD in force. -/
def gcHold (s : State) (c : Nat) : Bool := bit (lv s .flCtl (flP c) (flJ c)) 0

/-- A count of the health log raised: it saturates at its field's maximum (R404). -/
def logMod (c : Nat) (f : Health → Health) : Upd := chanMod c fun x => { x with log := f x.log }

/-- FLASH_HEALTH: a bit of FL_STATUS set, with a notice when it was clear (R405). -/
def flashNotice (c b : Nat) : Upd :=
  .read fun s =>
    .when (!(bit (rd s .flStatus (flP c) (flJ c)) b))
      (.seq [regSetBit .flStatus (flP c) (flJ c) b,
        .read fun s => crier 0x42 (flP c).val 0 0 0 (natLE 1 c ++ natLE 1 (fld (rd s .flStatus (flP c) (flJ c)) 63 60))])

/-- Mapped pages of a channel, and MAPPED in bytes. -/
def Channel.pages (x : Channel) : Nat := (x.units.map fun u => u.2.pages.length).foldl (· + ·) 0
def Channel.mapped (x : Channel) : Nat := 16384 * x.pages

/-- Fine page tables in use by a channel. -/
def Channel.fine (x : Channel) : Nat := x.units.countP fun u => !u.2.coarse

/-- NATIVE, RESV and G, bytes (R387). -/
def Channel.nativeB (x : Channel) : Nat := x.native * 1048576
def Channel.resv (x : Channel) : Nat := x.log.bits * 34359738368

/-- USER_MAX, bytes (R387). -/
def Channel.userMax (x : Channel) : Nat :=
  min 8796093022208 (x.nativeB - x.resv - x.nativeB / 64 - x.nativeB / 16)

/-- The SLC buffer, bytes (R395), and what of it holds data yet to be folded. -/
def Channel.slc (x : Channel) : Nat :=
  4294967296 * onesIn x.log.targets 8 + (x.nativeB - x.resv - x.mapped - x.nativeB / 64) / (x.log.bits + 1)
def Channel.slcUsed (x : Channel) : Nat := (x.units.map fun u => u.2.slc).foldl (· + ·) 0

/-! ### The map (R386, R389, R393) -/

/-- A kept target for a page, which one being free. -/
def targetFor (x : Channel) (seed : Nat) : Nat :=
  let l := (List.range 8).filter fun t => nbit x.log.targets t
  if l.length ≤ 1 then l.headD 0 else l.getD (Config.pick seed l.length % l.length) 0

/-- A unit after an ingest of its pages `first` to `last`, whole or in part (R389). -/
def unitIngest (x : Channel) (old : Option FlashUnit) (whole hot : Bool) (first last order seed : Nat) : FlashUnit :=
  let fineNow := match old with | some u => !u.coarse | none => false
  if whole ∧ !fineNow ∧ !hot then
    { coarse := true, pages := (List.range 256).map (·, targetFor x seed), hot := false, order, slc := 0 }
  else
    let base : FlashUnit := old.getD { coarse := false, pages := [], hot := false, order, slc := 0 }
    { coarse := false,
      pages := (List.range (last + 1 - first)).foldl (fun m i => aset m (first + i) (targetFor x (seed + i))) base.pages,
      hot := hot || (base.hot && !whole), order, slc := base.slc }

/-- A unit after a release that covers its pages `first` to `last` whole: none when nothing of it is left mapped. -/
def unitRelease (u : FlashUnit) (whole : Bool) (first n : Nat) : Option FlashUnit :=
  if whole then none
  else
    let pages := u.pages.filter fun x => !(decide (first ≤ x.1) && decide (x.1 < first + n))
    some { u with coarse := false, pages, slc := min u.slc (16384 * pages.length) }

/-- The part of a range in one 4 MiB unit of the window, by the unit's first address: start and length. -/
def inUnit (dst n base : Nat) : Nat × Nat :=
  let a := max dst base
  (a, min (dst + n) (base + 0x400000) - a)

/-- The map of one unit after an ingest or release; the pages it programs go to the SLC buffer while it has room (R396). -/
def mapUnit (s : State) (chans : Vector Channel 32) (i : Ingest) (order seed base : Nat) : Vector Channel 32 :=
  let c := Fin.ofNat 32 (channelOf s base)
  let idx := unitIdxOf s base
  let (a, n) := inUnit i.dst i.bytes base
  let whole := n == 0x400000
  updAt chans c fun x =>
    if i.release then
      let f := ceilDiv (a - base) 16384
      match aget x.units idx with
      | none => x
      | some u => match unitRelease u whole f ((a + n - base) / 16384 - f) with
        | none => { x with units := adel x.units idx }
        | some v => { x with units := aset x.units idx v }
    else
      let first := (a - base) / 16384
      let last := (a + n - 1 - base) / 16384
      let u := unitIngest x (aget x.units idx) whole i.hot first last order seed
      let more := min (16384 * (last + 1 - first)) (x.slc - x.slcUsed)
      { x with units := aset x.units idx { u with slc := min (u.slc + more) (16384 * u.pages.length) } }

/-- The first addresses of the units a range touches. -/
def unitsIn (dst n : Nat) : List Nat := linesOf 0x400000 dst n

/-- The map after an ingest or release. -/
def mapAfter (s : State) (order seed : Nat) (chans : Vector Channel 32) (i : Ingest) : Vector Channel 32 :=
  (indexed (unitsIn i.dst i.bytes)).foldl (fun m b => mapUnit s m i order (seed + b.1 * 256) b.2) chans

/-- Fine page tables of a partition under a map. -/
def fineIn (chans : Vector Channel 32) (p : Fin 4) : Nat :=
  ((List.range 8).map fun j => (chans.get (Fin.ofNat 32 (8 * p.val + j))).fine).foldl (· + ·) 0

/-! ### FLASH_INGEST, FLASH_RELEASE and INGEST_COMMIT -/

def ingDst (c : Cmd) : Nat := if c.opcode = 0x0B01 then par c 8 8 else par c 0 8
def ingBytes (c : Cmd) : Nat := if c.opcode = 0x0B01 then par c 16 8 else par c 8 8

/-- A partition's quarter of the window (Table 10.3). -/
def quarter (p : Fin 4) : Nat := 0x1000000000000 + p.val * 0x400000000000
def inQuarter (p : Fin 4) (a n : Nat) : Bool := decide (quarter p ≤ a) && decide (a + n ≤ quarter p + 0x400000000000)

/-- Whether two ranges meet. -/
def meets (a n b m : Nat) : Bool := decide (a < b + m) && decide (b < a + n)

/-- Whether a range meets the node blocks or refine records of a Cellar shard homed in the partition, current or retiring (R388). -/
def meetsShard (s : State) (p : Fin 4) (a n : Nat) : Bool :=
  (psys s p).shards.any fun h =>
    match collOf s h.coll with
    | none => false
    | some co => ([h.cur] ++ h.old.toList).any fun r =>
        rPlacement r == 1 && (meets a n (rNode r) (rCap r * blockBytes (dDegree co.desc) (dCodeBytes co.desc)) ||
          (dRefineFmt co.desc != 0 &&
            meets a n (rRefine r) (rCap r * refineRecBytes (dRefineFmt co.desc) (dGroup co.desc) (dDim co.desc))))

/-- Whether the sets of a range that starts in the accepting quarter serve the tenant (Table 12.6, who may use it). -/
def ingestPermit (s : State) (p : Fin 4) (c : Cmd) : Bool :=
  let a := ingDst c
  c.params.length < (if c.opcode = 0x0B01 then 32 else 16) || !(inQuarter p a 0) || a == quarter p + 0x400000000000 ||
  (List.range 8).all fun j =>
    let b := quarter p + j * 0x80000000000
    !(meets a (max 1 (ingBytes c)) b 0x80000000000) || unitServes s 4 (flashSetOf s b) c.tenant

/-- FLASH_INGEST (0x0B01), refused as R388 says. -/
def specFlashIngest : OpSpec :=
  { permit := ingestPermit
    len := fun _ _ _ => 32
    range := fun s p c =>
      let src := par c 0 8
      let n := ingBytes c
      firstBad [(src % 64 != 0 || !(oneRow src n) || !(regionOf src == .loft || regionOf src == .pantry) ||
          ownerOf s src != some p || ownerOf s (src + max 1 n - 1) != some p, 64),
        (ingDst c % 512 != 0 || !(inQuarter p (ingDst c) n) || meetsShard s p (ingDst c) n, 72),
        (n % 512 != 0 || decide (2 ^ 30 < n), 80), (decide (2 ≤ par c 24 1), 88), (par c 25 7 != 0, 89)]
    bound := fun s p c => rangeBound s c.tenant (ingDst c) (ingBytes c) && rangeMine s p c (par c 0 8) (ingBytes c)
    body := fun _ _ _ => 8
    zero := fun _ _ c => if ingBytes c = 0 then some (zeros 8) else none }

/-- FLASH_RELEASE (0x0B02). -/
def specFlashRelease : OpSpec :=
  { permit := ingestPermit
    len := fun _ _ _ => 16
    range := fun s p c =>
      let n := ingBytes c
      firstBad [(ingDst c % 512 != 0 || !(inQuarter p (ingDst c) n) || meetsShard s p (ingDst c) n, 64),
        (n % 512 != 0 || decide (2 ^ 30 < n), 72)]
    bound := fun s _ c => rangeBound s c.tenant (ingDst c) (ingBytes c)
    body := fun _ _ _ => 8
    zero := fun _ _ c => if ingBytes c = 0 then some (zeros 8) else none }

/-- Whether an earlier-admitted ingest or release whose destination meets this one's has yet to commit (R391). -/
def ingestBehind (s : State) (p : Fin 4) (c : Cmd) : Bool :=
  (psys s p).cmds.any fun d =>
    (d.opcode == 0x0B01 || d.opcode == 0x0B02) && d.ref != c.ref && meets (ingDst c) (ingBytes c) (ingDst d) (ingBytes d) &&
    (d.phase == .running || (d.phase == .admitted && decide (d.ref < c.ref)))

/-- Why an ingest cannot start: the pool of R394 that its map would overrun, when it is carried out after those under way. -/
def ingestPool (s : State) (p : Fin 4) (i : Ingest) : Option Nat :=
  let before := (psys s p).ingests.foldl (mapAfter s 0 0) s.sys.chans
  let after := mapAfter s 0 0 before i
  if 65536 < fineIn after p ∧ fineIn before p < fineIn after p then some 0x0B01
  else if (List.range 8).any fun j =>
      let x := after.get (Fin.ofNat 32 (8 * p.val + j))
      decide ((before.get (Fin.ofNat 32 (8 * p.val + j))).mapped < x.mapped) && decide (x.userMax < x.mapped) then some 0x0B02
  else none

/-- Whether collection is held on a channel of the range and no block is erased there, which is the part's state and free
(R398). -/
def ingestHeld (s : State) (i : Ingest) : Bool :=
  !i.release && ((unitsIn i.dst i.bytes).any fun b => gcHold s (channelOf s b)) && Config.pick (opKey s.sys.free) 2 % 2 == 0

/-- The programs under way on a channel: those of ingests that have yet to commit. -/
def busyOn (s : State) (c : Nat) : List (Nat × Nat × Nat) :=
  (chan s c).busy.filter fun b => (psys s (flP c)).ingests.any fun i => i.ref == b.1 && i.commit.isNone

/-- An ingest's programs begun, on one target at a time of each channel it writes; which one is free. -/
def programStart (s : State) (i : Ingest) (seed : Nat) : Upd :=
  .each (((unitsIn i.dst i.bytes).map (channelOf s)).eraseDups) fun c =>
    chanMod c fun x => { x with busy := busyOn s c ++ [(i.ref, targetFor x (seed + c), 0)] }

/-- A read of a row of Table 12.9 from a target: a program under way there is suspended for a read of rows 1 to 3 where the target's profile
and NO_SUSPEND allow it, at most four times (R397). A read served after that has waited for the program's end, and the next of its ingest's
programs is under way, on a target that is free (DESIGN CHOICE, log 122). -/
def suspendFor (c target row : Nat) : Upd :=
  .read fun s =>
    let may := decide (row ≤ 3) && !(bit (lv s .flCtl (flP c) (flJ c)) 1) && Config.maySuspend c target
    let seed := opKey s.sys.free + 2 ^ 30
    .when ((busyOn s c).any fun b => b.2.1 == target)
      (.seq [.sys fun y => { y with free := y.free + 1 },
        chanMod c fun x => { x with busy := (busyOn s c).map fun b =>
          if b.2.1 ≠ target then b else if may ∧ b.2.2 < 4 then (b.1, target, b.2.2 + 1) else (b.1, targetFor x seed, 0) }])

/-- An ingest or release begun: its bytes read, its place in the order taken. -/
def ingestStart (p : Fin 4) (c : Cmd) (src : Nat) (i : Ingest) : Upd :=
  .read fun s =>
    if ingestBehind s p c then .skip
    else match ingestPool s p i with
      | some code => postPlain p c stRetry code
      | none =>
        if ingestHeld s i then .seq [.sys fun y => { y with free := y.free + 1 }, postPlain p c stRetry 0x0B02]
        else .seq [.sys fun y => { y with free := y.free + 1 },
          .when (!i.release) (chargeRead s i.tenant src i.bytes),
          .part p fun y => { y with ingests := y.ingests ++ [i] },
          .when (!i.release) (.read fun s => programStart s i (opKey s.sys.free)),
          cmdMod p c.ref fun c => { c with phase := .running }]

/-- FLASH_INGEST (R389). -/
def cmdFlashIngest (p : Fin 4) (ref : Nat) : Upd :=
  withCmd p ref 0x0B01 fun c => .read fun s =>
    let src := par c 0 8
    let n := ingBytes c
    match rangeFail s p c.tenant false (src, n) with
    | some (st, a) => endAccess p c (sourceCode .steward) st a
    | none => cohGate [(src, n, false)] <|
      ingestStart p c src
        { ref, release := false, tenant := c.tenant, dst := ingDst c, bytes := n, hot := nbit (par c 24 1) 0,
          data := Mem.slice s.mem (unalias s src) n, commit := none }

/-- FLASH_RELEASE (R393). -/
def cmdFlashRelease (p : Fin 4) (ref : Nat) : Upd :=
  withCmd p ref 0x0B02 fun c =>
    ingestStart p c 0
      { ref, release := true, tenant := c.tenant, dst := ingDst c, bytes := ingBytes c, hot := false, data := [], commit := none }

/-- Bytes of the pages of a channel that an ingest programs. -/
def programmedOn (s : State) (i : Ingest) (c : Nat) : Nat :=
  ((unitsIn i.dst i.bytes).map fun b =>
    if channelOf s b = c then
      let x := inUnit i.dst i.bytes b
      16384 * ((x.1 + x.2 - 1 - b) / 16384 + 1 - (x.1 - b) / 16384)
    else 0).foldl (· + ·) 0

/-- Bytes of an ingest on a channel. -/
def ingestedOn (s : State) (i : Ingest) (c : Nat) : Nat :=
  ((unitsIn i.dst i.bytes).map fun b => if channelOf s b = c then (inUnit i.dst i.bytes b).2 else 0).foldl (· + ·) 0

/-- INGEST_COMMIT (R390): every page and the journal record are programmed. -/
def cmdIngestCommit (p : Fin 4) (ref : Nat) : Upd :=
  .read fun s =>
    match (psys s p).ingests.find? (·.ref == ref), cmdOf s p ref with
    | some i, some c =>
      if i.commit.isSome then .skip
      else
        let n := frameNow s
        .seq [.part p fun y => { y with ingests := y.ingests.map fun i => if i.ref = ref then { i with commit := some n } else i },
          .when (!i.release) (.seq [ledger i.tenant 9 (i.bytes / 512),
            .each (List.range 8) fun j =>
              logMod (8 * p.val + j) fun h => { h with
                ingested := h.ingested + ingestedOn s i (8 * p.val + j)
                programmed := h.programmed + programmedOn s i (8 * p.val + j) }]),
          postReply p c stOk 0 (natLE 6 n ++ zeros 2) 0 (n + 1)]
    | _, _ => .skip

/-- Poisoned codewords of a Cellar range that it covers whole made good (R384). -/
def unpoison (a n : Nat) : Upd :=
  .sys fun y => { y with poison := y.poison.filter fun l => !(decide (a ≤ l) && decide (l + 512 ≤ a + n)) }

/-- An ingest or release made visible. -/
def ingestApply (p : Fin 4) (i : Ingest) : Upd :=
  .read fun s =>
    let first := roundUp i.dst 16384
    let n := (i.dst + i.bytes) / 16384 * 16384 - first
    .seq [.sys fun y => { y with free := y.free + 1, chans := mapAfter s (i.commit.getD 0) (opKey s.sys.free) y.chans i },
      if i.release then .seq [.cellarZero first n, unpoison first n]
      else .seq [.cellarCopy i.dst (fun _ => i.data) 0 i.bytes, unpoison i.dst i.bytes],
      .part p fun y => { y with ingests := y.ingests.filter (·.ref != i.ref) }]

/-- At action 3 of Bell step n: ingests and releases with a commit frame before n take effect, in the order they committed
(R390); then each channel's SLC buffer is set (R395). -/
def flashBell (p : Fin 4) (n : Nat) : Upd :=
  .read fun s =>
    .seq [.each ((psys s p).ingests.filter fun i => match i.commit with | some f => decide (f < n) | none => false) (ingestApply p),
      .each (List.range 8) fun j => .read fun s =>
        let x := chan s (8 * p.val + j)
        .when (chanState s (8 * p.val + j) == 2 || chanState s (8 * p.val + j) == 3)
          (regMod .flSlc p j fun w => setFld (setFld w 63 32 (x.slc / 1048576)) 31 0 ((x.slc - x.slcUsed) / 1048576))]

/-! ### Health (R404, Table 12.10) -/

/-- WEAR_USED (Table 12.10). -/
def wearUsed (h : Health) : Nat := if h.peRated = 0 then 0 else min 255 (h.peAvg * 100 / h.peRated)

/-- The range of TEMP_HOURS of a temperature. -/
def hoursOf (temp : Nat) : Nat := if temp < 40 then 0 else min 7 (temp / 10 - 3)

/-- A health log after a frame of `us` microseconds with what the channel's targets measure. -/
def Health.measured (h : Health) (us : Nat) (m : FlashSense) : Health :=
  { h with
    peAvg := m.peAvg, peMax := m.peMax, tempNow := m.temp, tempMax := max h.tempMax m.temp
    hours := h.hours.mapIdx fun i x => if i = hoursOf m.temp then x + us else x }

/-- At a Bell step: what the targets of the channels in service measure goes into their logs and FL_STATUS. -/
def healthBell (l : List FlashSense) : Upd :=
  .each l fun m => .read fun s =>
    .when (chanState s m.chan.val == 2 || chanState s m.chan.val == 3)
      (.seq [logMod m.chan.val fun h => h.measured (bellUs s) m,
        .read fun s => regMod .flStatus (flP m.chan.val) (flJ m.chan.val) fun w =>
          setFld (setFld w 15 8 (wearUsed (chan s m.chan.val).log)) 7 0 (min m.temp 255)])

/-! ### FLASH_INFO and HEALTH_READ -/

/-- The channels a FLASH_INFO or HEALTH_READ names. -/
def infoChans (p : Fin 4) (c : Cmd) : List Nat :=
  if c.opcode = 0x0B03 ∧ par c 0 1 = 0xFF then (List.range 8).map (8 * p.val + ·) else [par c 0 1]

/-- The fabric manager for every channel, another tenant for channels bound to it. -/
def infoPermit (s : State) (p : Fin 4) (c : Cmd) : Bool :=
  c.tenant == 0 || c.params.length < 8 ||
  (infoChans p c).all fun k => decide (32 ≤ k) ||
    unitServes s 4 (flashSetOf s (quarter (flP k) + flJ k * 0x80000000000)) c.tenant

/-- FLASH_INFO (0x0B03). -/
def specFlashInfo : OpSpec :=
  { permit := infoPermit, len := fun _ _ _ => 8
    range := fun _ p c => firstBad [((infoChans p c).any (32 ≤ ·), 64), (par c 1 7 != 0, 65)]
    body := fun _ p c => 32 * (infoChans p c).length }

/-- HEALTH_READ (0x0B04). -/
def specHealthRead : OpSpec :=
  { permit := infoPermit, len := fun _ _ _ => 8
    range := fun _ p c => firstBad [((infoChans p c).any (32 ≤ ·), 64), (par c 1 7 != 0, 65)]
    body := fun _ _ _ => 128 }

/-- A FLASH_INFO entry (Table 12.7). -/
def infoBytes (s : State) (k : Nat) : Bytes :=
  let x := chan s k
  let r := rd s .flSlc (flP k) (flJ k)
  natLE 8 (x.mapped / 1048576) ++ natLE 8 (x.userMax / 1048576) ++ natLE 4 (fld r 63 32) ++ natLE 4 (fld r 31 0) ++
  natLE 4 x.fine ++ natLE 1 x.w ++ natLE 1 (chanState s k) ++ zeros 2

/-- FLASH_INFO. -/
def cmdFlashInfo (p : Fin 4) (ref : Nat) : Upd :=
  withCmd p ref 0x0B03 fun c => .read fun s => postReply p c stOk 0 ((infoChans p c).flatMap (infoBytes s))

/-- A number as bytes, saturating at the field's maximum. -/
def natSat (n v : Nat) : Bytes := natLE n (min v (256 ^ n - 1))

/-- The health log (Table 12.10). -/
def healthBytes (k : Nat) (h : Health) : Bytes :=
  natLE 1 k ++ natLE 1 h.targets ++ natLE 1 h.bits ++ natSat 1 h.spareLeft ++ natLE 1 (wearUsed h) ++ zeros 3 ++
  natSat 4 h.peAvg ++ natSat 4 h.peMax ++ natSat 4 h.peRated ++ natSat 4 h.retired ++ natSat 8 h.corrected ++ natSat 8 h.soft ++
  natSat 4 h.uncorr ++ natSat 4 h.progFails ++ natSat 4 h.eraseFails ++ zeros 4 ++ natSat 8 (h.ingested / 1048576) ++
  natSat 8 (h.programmed / 1048576) ++ natSat 8 (h.readBytes / 1048576) ++ natSat 1 h.tempNow ++ natSat 1 h.tempMax ++ zeros 2 ++
  h.hours.flatMap (fun us => natSat 4 (us / 3600000000)) ++ natLE 6 h.logFrame ++ zeros 6

/-- HEALTH_READ (R404). -/
def cmdHealthRead (p : Fin 4) (ref : Nat) : Upd :=
  withCmd p ref 0x0B04 fun c => .read fun s =>
    postReply p c stOk 0 (padTo 128 (healthBytes (par c 0 1) (chan s (par c 0 1)).log))

/-! ### FLASH_FORMAT -/

/-- The channels a format names. -/
def fmtChans (p : Fin 4) (c : Cmd) : List Nat := ((List.range 8).filter fun j => nbit (par c 0 1) j).map (8 * p.val + ·)

/-- Whether a channel mask is a union of whole sets of a width. -/
def wholeSets (mask : Nat) (w : Nat → Nat) : Bool :=
  (List.range 8).all fun j => (List.range 8).all fun i =>
    !(nbit mask j) || j / max 1 (w j) != i / max 1 (w j) || nbit mask i

/-- FLASH_FORMAT (0x0B05), refused as R406 says. -/
def specFlashFormat : OpSpec :=
  { permit := fmOnly, len := fun _ _ _ => 8
    range := fun s p c =>
      let w := par c 1 1
      firstBad [([1, 2, 4, 8].contains w && !(wholeSets (par c 0 1) (fun _ => w) &&
            wholeSets (par c 0 1) fun j => (chan s (8 * p.val + j)).w), 64),
        (!([1, 2, 4, 8].contains w), 65), (par c 2 6 != 0, 66)]
    bound := fun s p c => (fmtChans p c).all fun k =>
      let u := unit s 4 (flashSetOf s (quarter p + flJ k * 0x80000000000))
      u.state == .unbound || u.state == .disabled }

/-- A health log cleared by a format: what the channel is stays. -/
def healthFormat (h : Health) : Health :=
  { Health.empty with targets := h.targets, bits := h.bits, peRated := h.peRated, tempNow := h.tempNow, tempMax := h.tempNow }

/-- One channel formatted: no unit mapped, the log cleared, no byte of its range of the window left (R406); one that is FAILED stays so. -/
def formatOne (k w : Nat) : Upd :=
  .read fun s =>
    let a := quarter (flP k) + flJ k * 0x80000000000
    .seq [chanMod k fun x => { x with w, units := [], log := healthFormat x.log, saved := healthFormat x.log, scrub := 0 },
      .cellarZero a 0x80000000000,
      .sys fun y => { y with poison := y.poison.filter fun l => !(decide (a ≤ l) && decide (l < a + 0x80000000000)) },
      regMod .flStatus (flP k) (flJ k) fun w => setFld (setFld w 23 16 100) 15 8 0,
      .when (chanState s k != 4) (flState k 2)]

/-- FLASH_FORMAT. -/
def cmdFlashFormat (p : Fin 4) (ref : Nat) : Upd :=
  withCmd p ref 0x0B05 fun c => .seq [.each (fmtChans p c) fun k => formatOne k (par c 1 1), postPlain p c stOk 0]

/-! ### Background work -/

/-- A unit of a channel changed. -/
def unitMod (c unit : Nat) (f : FlashUnit → FlashUnit) : Upd := chanMod c fun x => { x with units := amod x.units unit f }

/-- FOLD (R394, R395): the data of a unit rewritten at native density; a fine unit that is not HOT becomes coarse while more
than 57,344 tables are in use, oldest ingest first. It yields to work of rows 1 to 4 (R398). No window byte changes. -/
def cmdFold (c : Fin 32) (unit : Nat) : Upd :=
  .read fun s =>
    let x := chan s c.val
    match aget x.units unit with
    | none => .skip
    | some u =>
      if gcHold s c.val ∨ chanState s c.val ≠ 2 ∨ channelWork s c.val then .skip
      else if !u.coarse ∧ !u.hot ∧ 57344 < fineIn s.sys.chans (flP c.val) ∧
          (x.units.all fun v => v.2.coarse || v.2.hot || decide (u.order ≤ v.2.order)) then
        .seq [.sys fun y => { y with free := y.free + 1 },
          unitMod c.val unit fun u => { u with
            coarse := true, slc := 0, pages := (List.range 256).map (·, targetFor x (opKey s.sys.free)) },
          logMod c.val fun h => { h with programmed := h.programmed + 0x400000 }]
      else if u.slc ≠ 0 then
        .seq [unitMod c.val unit fun u => { u with slc := 0 }, logMod c.val fun h => { h with programmed := h.programmed + u.slc }]
      else .skip

/-- A page of a unit at a new place on its channel, on a target that is free; window bytes as before (R398). -/
def pageMove (c unit page : Nat) : Upd :=
  .read fun s =>
    let x := chan s c
    match aget x.units unit with
    | none => .skip
    | some u => .when (ahas u.pages page)
        (.seq [.sys fun y => { y with free := y.free + 1 },
          unitMod c unit fun u => { u with pages := aset u.pages page (targetFor x (opKey s.sys.free)) },
          logMod c fun h => { h with programmed := h.programmed + 16384 }])

/-- Pages of a failed block, or of one with a bad codeword, relocated (R384, R400). -/
def relocate (c : Nat) (pages : List Nat) : Upd := .each pages fun g => pageMove c (g / 256) (g % 256)

/-- GARBAGE_COLLECTION (R398): one page moved, unless GC_HOLD stops it or work of rows 1 to 4 of Table 12.9 waits. -/
def cmdGarbageCollection (c : Fin 32) (unit page : Nat) : Upd :=
  .read fun s => .when (!(gcHold s c.val) && chanState s c.val == 2 && !(channelWork s c.val)) (pageMove c.val unit page)

/-- Mapped pages of a channel in map order, as unit × 256 + page. -/
def mapOrder (x : Channel) : List Nat := x.units.flatMap fun u => u.2.pages.map fun g => 256 * u.1 + g.1

/-- FLASH_SCRUB (R399): the next SCRUB_PAGES pages decoded, once no work of rows 1 to 4 waits; the weak ones of them relocated, unless
GC_HOLD stops it. The counts
of their codewords come with FLASH_READ_DONE. -/
def cmdFlashScrub (c : Fin 32) (weak : List Nat) : Upd :=
  .read fun s =>
    let l := mapOrder (chan s c.val)
    let n := min (fld (lv s .flCtl (flP c.val) (flJ c.val)) 31 16) l.length
    let pos := (chan s c.val).scrub % max 1 l.length
    let mine := ((l ++ l).drop pos).take n
    .when (chanState s c.val == 2 && !(channelWork s c.val))
      (.seq [chanMod c.val fun x => { x with scrub := (pos + n) % max 1 l.length },
        .when (!(gcHold s c.val)) (.each (weak.filter fun g => mine.contains g) fun g => pageMove c.val (g / 256) (g % 256))])

/-- A reader's code, and the partition whose memory block records a codeword of a channel (R384). -/
def flashPoison (c : Nat) (reader : Agent) (addr : Nat) : Upd :=
  let cw := addr / 512 * 512
  .seq [poisonLine cw, memErr .poison (flP c) (sourceCode reader) cw]

/-- The expansions whose block a Drover's or Sieve's read belongs to. -/
def readsFor (s : State) (c : Nat) (reader : Agent) (addr : Nat) : List (Walk × Flight) :=
  if reader = .drover ∨ reader = .sieve then
    (channelReads s (flP c)).filter fun x =>
      let a := x.1.blockAt x.2.node
      decide (a ≤ addr) && decide (addr < a + blockBytes x.1.degree x.1.codeBytes)
  else []

/-- FLASH_READ_DONE (R383, R384, R397): a codeword of the channel decoded at a stage, or at none; an expansion's read when the channel comes
to it, any other reader's as row 3 of Table 12.9. -/
def cmdFlashReadDone (c : Fin 32) (reader : Agent) (addr : Nat) (d : Decoded) : Upd :=
  .read fun s =>
    let p := flP c.val
    let j := flJ c.val
    let read := logMod c.val fun h => { h with readBytes := h.readBytes + 576 }
    if regionOf addr ≠ .cellar ∨ channelOf s addr ≠ c.val ∨ !(chanUp s c.val) then .skip
    else match aget (chan s c.val).units (unitIdxOf s addr) with
      | none => .skip
      | some u =>
        let waiting := readsFor s c.val reader addr
        let turn := waiting.find? fun x => readTurn s p x.1 x.2
        if !(ahas u.pages (addr % 0x400000 / 16384)) ∨ (waiting ≠ [] ∧ turn = none) then .skip
        else .seq [suspendFor c.val ((targetAt s addr).getD 0) ((turn.map fun x => readRow x.1.cls).getD 3), match d with
          | .hard => .seq [read, logMod c.val fun h => { h with corrected := h.corrected + 1 }, regCount .flErr p j 63 32 1]
          | .soft | .retry => .seq [read, logMod c.val fun h => { h with soft := h.soft + 1 }, regCount .flErr p j 31 16 1]
          | .failed pages => .seq [read, logMod c.val fun h => { h with uncorr := h.uncorr + 1 }, regCount .flErr p j 15 0 1,
              flashPoison c.val reader addr, relocate c.val pages, flashNotice c.val 61]]

/-- CHANNEL_SIEVE_COMPARE (R401, R402): the codes of a block, at the channel of the block's first byte. -/
def cmdChannelSieveCompare (c : Fin 32) (p : Fin 4) (walk node : Nat) : Upd :=
  .read fun s => compareNode p walk node (fun w u => siteOf s w node u == .channel c.val) 64

/-- The log written into the reserved region. -/
def logSave (c : Nat) : Upd :=
  .read fun s => .seq [logMod c fun h => { h with logFrame := frameNow s }, chanMod c fun x => { x with saved := x.log }]

/-- BLOCK_RETIRE (R400, R404, R405): a failed block taken out of use, its valid data relocated. -/
def cmdBlockRetire (c : Fin 32) (f : BlockFail) (lostMib spareLeft : Nat) : Upd :=
  .seq [chanMod c.val fun x => { x with
      native := x.native - lostMib
      log := { x.log with retired := x.log.retired + 1, spareLeft := min spareLeft 100,
                          eraseFails := x.log.eraseFails + f.erase.toNat, progFails := x.log.progFails + (!f.erase).toNat } },
    regMod .flStatus (flP c.val) (flJ c.val) fun w => setFld w 23 16 (min spareLeft 100),
    relocate c.val f.pages,
    logSave c.val,
    .read fun s => .when (decide (min spareLeft 100 < fld (lv s .flCtl (flP c.val) (flJ c.val)) 47 40)) (flashNotice c.val 62)]

/-- HEALTH_LOG_COPY (R404): 4,194,304 frames after the last copy. -/
def cmdHealthLogCopy (c : Fin 32) : Upd :=
  .read fun s => .when (decide ((chan s c.val).log.logFrame + 4194304 ≤ frameNow s)) (logSave c.val)

/-- ZQ_CALIBRATION (Table 12.2): 65,536 frames after the last. -/
def cmdZqCalibration (c : Fin 32) : Upd :=
  .read fun s => .when (decide ((chan s c.val).zq + 65536 ≤ frameNow s)) (chanMod c.val fun x => { x with zq := frameNow s })

/-- A channel or target that failed (R382): the record, with a notice. -/
def chanFailed (c target : Nat) : Upd :=
  fault (flP c) { faultBase 0x0E 0 with engineKind := 3, engine := c, detail := natLE 1 c ++ natLE 1 target }

/-- A channel that enters FAILED; target 0xFF names the channel as a whole. -/
def chanFail (c : Nat) : Upd := .seq [flState c 4, chanFailed c 0xFF]

/-- Whether a target meets the conditions of R379 by itself. -/
def targetFit (x : Target) : Bool :=
  x.profile && x.pageBytes == 16384 && decide (2048 ≤ x.spareBytes) && (x.planes == 2 || x.planes == 4) &&
  (x.bits == 3 || x.bits == 4) && x.slc

/-- A target's geometry. -/
def targetGeometry (x : Target) : List Nat := [x.planes, x.bits, x.spareBytes, x.pages, x.blocks]

/-- The targets a channel keeps (R379): the fit ones, of one geometry. -/
def keptTargets (r : ChannelResult) : List (Nat × Target) :=
  let fits := r.found.filter fun x => decide (x.1 < 8) && targetFit x.2
  fits.filter fun x => fits.all fun y => targetGeometry y.2 == targetGeometry x.2

/-- TARGETS: the mask of the targets kept. -/
def keptMask (r : ChannelResult) : Nat := ((List.range 8).map fun t => if (keptTargets r).any (·.1 == t) then 2 ^ t else 0).sum

/-- MODE and RATE: the highest rate of Table 12.1 that every kept target and its profile allow and at which the interface trains (R378). -/
def channelRate (r : ChannelResult) : Option (Nat × Nat) :=
  [(0, 3600), (0, 3200), (0, 2400), (1, 1600), (1, 1200), (1, 800)].find? fun x =>
    r.trains.contains x.2 && (keptTargets r).all fun y => y.2.rates.contains x.2

/-- CHANNEL_STARTUP (R378, R379, R381, Table 12.3), once the partition's stacks have started. -/
def cmdChannelStartup (c : Fin 32) (r : ChannelResult) : Upd :=
  .read fun s =>
    let p := flP c.val
    let j := flJ c.val
    let up := (List.range 6).all fun i => stackState s (6 * p.val + i) == 3 || stackState s (6 * p.val + i) == 5
    if 1 < chanState s c.val then .skip
    else match (keptTargets r).head?, channelRate r with
      | some first, some rate =>
        if !up then flState c.val 1
        else .seq [chanMod c.val fun x =>
            let h := if r.journal then x.saved else healthFormat x.saved
            { x with
              native := r.native, units := if r.journal then x.units else [], zq := frameNow s
              log := { h with targets := keptMask r, bits := first.2.bits, peRated := first.2.peRated, tempNow := r.temp,
                              tempMax := max h.tempMax r.temp } },
          .read fun s =>
            let h := (chan s c.val).log
            regMod .flStatus p j fun w =>
              setFld (setFld (setFld (setFld (setFld (setFld (setFld w 55 52 rate.1) 51 40 rate.2) 39 32 h.targets) 31 28 h.bits)
                23 16 h.spareLeft) 15 8 (wearUsed h)) 7 0 (min r.temp 255),
          flState c.val (if r.journal then 2 else 3)]
      | _, _ => .seq [regMod .flStatus p j fun w => setFld w 39 32 (keptMask r), chanFail c.val]

/-- The window address of a page of a channel's unit (R385, the inverse). -/
def pageAddr (s : State) (c unit page : Nat) : Nat :=
  let w := (chan s c).w
  quarter (flP c) + flJ c / w * (w * 0x80000000000) + (unit * w + flJ c % w) * 0x400000 + page * 16384

/-- Every codeword of the pages on a target poisoned. -/
def targetPoison (c target : Nat) : Upd :=
  .read fun s =>
    .each (chan s c).units fun u => .each (u.2.pages.filter (·.2 == target)) fun g =>
      .each (List.range 32) fun i => poisonLine (pageAddr s c u.1 g.1 + 512 * i)

/-- FLASH_TARGET_TIMEOUT (R382): a RESET brings the target back, or its pages read as poison and it is kept no more. -/
def cmdFlashTargetTimeout (c : Fin 32) (target : Fin 8) (recovered : Bool) : Upd :=
  .read fun s =>
    let m := (chan s c.val).log.targets
    if recovered ∨ !(nbit m target.val) then .skip
    else
      .seq [targetPoison c.val target.val,
        logMod c.val fun h => { h with targets := m - 2 ^ target.val },
        regMod .flStatus (flP c.val) (flJ c.val) fun w => setFld w 39 32 (m - 2 ^ target.val),
        chanFailed c.val target.val, flashNotice c.val 60,
        .when (m == 2 ^ target.val) (chanFail c.val)]

def execChannelStartup (c : Fin 32) (r : ChannelResult) (s : State) : Host.Outcome State Fault Refusal := (cmdChannelStartup c r).go s
def execFlashIngest (p : Fin 4) (ref : Nat) (s : State) : Host.Outcome State Fault Refusal := (cmdFlashIngest p ref).go s
def execFlashRelease (p : Fin 4) (ref : Nat) (s : State) : Host.Outcome State Fault Refusal := (cmdFlashRelease p ref).go s
def execIngestCommit (p : Fin 4) (ref : Nat) (s : State) : Host.Outcome State Fault Refusal := (cmdIngestCommit p ref).go s
def execFlashInfo (p : Fin 4) (ref : Nat) (s : State) : Host.Outcome State Fault Refusal := (cmdFlashInfo p ref).go s
def execHealthRead (p : Fin 4) (ref : Nat) (s : State) : Host.Outcome State Fault Refusal := (cmdHealthRead p ref).go s
def execFlashFormat (p : Fin 4) (ref : Nat) (s : State) : Host.Outcome State Fault Refusal := (cmdFlashFormat p ref).go s
def execFold (c : Fin 32) (unit : Nat) (s : State) : Host.Outcome State Fault Refusal := (cmdFold c unit).go s
def execGarbageCollection (c : Fin 32) (unit page : Nat) (s : State) : Host.Outcome State Fault Refusal :=
  (cmdGarbageCollection c unit page).go s
def execFlashScrub (c : Fin 32) (weak : List Nat) (s : State) : Host.Outcome State Fault Refusal := (cmdFlashScrub c weak).go s
def execFlashReadDone (c : Fin 32) (reader : Agent) (addr : Nat) (d : Decoded) (s : State) : Host.Outcome State Fault Refusal :=
  (cmdFlashReadDone c reader addr d).go s
def execChannelSieveCompare (c : Fin 32) (p : Fin 4) (walk node : Nat) (s : State) : Host.Outcome State Fault Refusal :=
  (cmdChannelSieveCompare c p walk node).go s
def execBlockRetire (c : Fin 32) (f : BlockFail) (lostMib spareLeft : Nat) (s : State) :
    Host.Outcome State Fault Refusal := (cmdBlockRetire c f lostMib spareLeft).go s
def execHealthLogCopy (c : Fin 32) (s : State) : Host.Outcome State Fault Refusal := (cmdHealthLogCopy c).go s
def execZqCalibration (c : Fin 32) (s : State) : Host.Outcome State Fault Refusal := (cmdZqCalibration c).go s
def execFlashTargetTimeout (c : Fin 32) (target : Fin 8) (recovered : Bool) (s : State) : Host.Outcome State Fault Refusal :=
  (cmdFlashTargetTimeout c target recovered).go s

end Sys2Proof.Machine
end

