-- ==== Sys2Proof/Machine/Mill.lean ====
section
/-!
DEFINITION. Tensor programs (chapter 8): loading and unloading objects, runs, their streams, and one definition for each
VTC operation of Table 8.11. A run's operations act one after another in list order (R346).
-/

namespace Sys2Proof.Machine

/-! ### Objects and runs -/

/-- The Mills' data of a partition changed. -/
def millMod (p : Fin 4) (f : MillSt → MillSt) : Upd := .part p fun y => { y with mill := f y.mill }

def objOf (s : State) (p : Fin 4) (h : Nat) : Option VObj := (psys s p).mill.objs.find? (·.handle == h)
def runOf (s : State) (p : Fin 4) (id : Nat) : Option VRun := (psys s p).mill.runs.find? (·.id == id)

/-! ### The Mills' dispatch queues (Tables 1.9 and 8.1) -/

/-- Whether an operation is a Mill operation, which waits in the dispatch queue of each Mill it runs on: array products and the epilogue
unit's work (Table 8.11). -/
def VOp.onQueue (v : VOp) : Bool := decide (1 ≤ v.vop) && decide (v.vop ≤ 7) || v.vop == 0x0D

/-- The Mill of an index in a partition's 48. -/
def MillSt.unit (m : MillSt) (i : Nat) : Mill := m.units.getD (i % 48) ⟨[], [8]⟩

/-- Some of a partition's Mills changed. -/
def MillSt.onUnits (m : MillSt) (l : List Nat) (f : Mill → Mill) : MillSt :=
  { m with units := (indexed m.units).map fun x => if l.any fun i => i % 48 == x.1 then f x.2 else x.2 }

/-- Whether a run's operation stands in the dispatch queue of every Mill of its object, or there is room for it in each: 64 entries. -/
def MillSt.accepts (m : MillSt) (o : VObj) (run : Nat) : Bool :=
  o.mills.all fun i => (m.unit i).queue.contains run || decide ((m.unit i).queue.length < 64)

/-- A run's operation put in the queues of its Mills, where each has room and the operation is one of theirs. -/
def MillSt.dispatch (m : MillSt) (r : VRun) : MillSt :=
  match m.objs.find? (·.handle == r.handle) with
  | none => m
  | some o =>
    if (o.ops[r.op]?).any (·.onQueue) && m.accepts o r.id then
      m.onUnits o.mills fun u => if u.queue.contains r.id then u else { u with queue := u.queue ++ [r.id] }
    else m

/-- A run's operation gone from the queues, and the operations that waited for room dispatched, in the order of their runs. -/
def MillSt.advance (m : MillSt) (run : Nat) : MillSt :=
  m.runs.foldl .dispatch { m with units := m.units.map fun u => { u with queue := u.queue.filter (· != run) } }

/-- A run context freed, with its streams; the runs of its object in flight with it keep what it has written (R280). -/
def runDrop (p : Fin 4) (id : Nat) : Upd :=
  millMod p fun m =>
    let gone := m.runs.filter (·.id == id)
    let wrote (r : VRun) : List (Nat × Nat) := (gone.filter (·.handle == r.handle)).flatMap (·.wrote)
    let left : MillSt := { m with runs := (m.runs.filter (·.id != id)).map fun r => { r with peers := r.peers ++ wrote r },
                                  streams := m.streams.filter (·.run != id) }
    left.advance id

/-- The batch threshold of a tenant in force (R39). -/
def threshOf (s : State) (tenant : Nat) : Nat := fld (lv s .batchThresh 0 tenant) 15 0

/-- Whether a memory-bound operation of a batch size on memory at an address runs on the Mills, under the threshold in force when it was
admitted (R38 to R40, Table 8.12). -/
def onMills (s : State) (thresh batch addr : Nat) : Bool :=
  decide (thresh ≤ batch) || regionOf (unalias s addr) != .loft

/-- The same for an operation of a run on a tensor: an intermediate lies in scratchpad or the Pantry, so its work is the Mills'. -/
def tensorOnMills (s : State) (o : VObj) (r : VRun) (t : Tensor) (batch : Nat) : Bool :=
  t.role == 3 || onMills s r.thresh batch (r.addr o t)

/-! ### Loading (R272 to R274, R276) -/

/-- PROG_LOAD (0x0501). The command itself is among those that count against the 1,024 objects (R275). -/
def specProgLoad : OpSpec :=
  { len := fun _ _ _ => 16, body := fun _ _ _ => 8
    bound := fun s p c => rangeMine s p c (par c 0 8) (par c 8 8)
    pool := fun s p _ => if (psys s p).mill.objs.length + (psys s p).cmds.countP (·.opcode == 0x0501) ≤ 1024 then none
      else some 0x0501 }

/-- The parts of an image that load copies: header, tables, side lists and shadow table. -/
def objReads (img : Bytes) (a : Nat) : List (Nat × Nat) :=
  let n := img.length
  let part (off len : Nat) : Nat × Nat := (a + off, min len (n - off))
  let ts := (List.range (leAt img 16 2)).map fun i => tensorIn ((img.drop (leAt img 24 8 + 64 * i)).take 64)
  [part 0 64, part (leAt img 24 8) (64 * leAt img 16 2), part (leAt img 32 8) (32 * leAt img 18 2)] ++
  (ts.map fun t => part (leAt img 48 8 + t.side) (8 * t.sideN)) ++
  (if leAt img 40 8 = 0 then [] else
    [part (leAt img 40 8) (((shadowKeys ts).map fun k => roundUp (16 + k.1.group) 16).sum)])

/-- PROG_LOAD: the image is checked and copied, and placed on at least MIN_MILLS of the tenant's Mills, which and how many
being free (R41, R274). -/
def cmdProgLoad (p : Fin 4) (ref : Nat) : Upd :=
  withCmd p ref 0x0501 fun c => .read fun s =>
    let a := par c 0 8
    let img := memBytes s a (par c 8 8)
    match (objReads img a).findSome? (rangeFail s p c.tenant false), freeHandle (opKey s.sys.free) 1024 ((psys s p).mill.objs.map (·.handle)) with
    | some (st, l), _ => endAccess p c 0 st l
    | none, none => postPlain p c stRetry 0x0501
    | none, some h =>
      let mine := unitsBound s 1 p c.tenant
      let least := leAt img 56 2
      let n := least + (if least < mine.length then Config.pick (opKey s.sys.free + 2) (mine.length - least + 1) % (mine.length - least + 1) else 0)
      let placed := pickSome (opKey s.sys.free + 3) n mine
      match objIn img (par c 8 8) mine.length h c.tenant a placed with
      | none => postPlain p c stBadParam 64
      | some o =>
        cohGate ((objReads img a).map fun x => (x.1, x.2, false)) <|
        .seq [.sys fun y => { y with free := y.free + 1 },
          .each (objReads img a) fun x => chargeRead s c.tenant x.1 x.2,
          millMod p fun m => { m with objs := m.objs ++ [o] },
          postReply p c stOk 0 (natLE 2 h ++ natLE 2 placed.length ++ zeros 4)]

/-- Whether a command names an object of its tenant. -/
def objMine (s : State) (p : Fin 4) (c : Cmd) : Bool := (objOf s p (par c 0 2)).any (·.tenant == c.tenant)

/-- PROG_UNLOAD (0x0502). -/
def specProgUnload : OpSpec :=
  { len := fun _ _ _ => 8, range := fun _ _ c => firstBad [(par c 2 6 != 0, 66)], bound := objMine }

/-- PROG_UNLOAD (R276): the object is unloading; its status comes with PROG_UNLOAD_DONE. -/
def cmdProgUnload (p : Fin 4) (ref : Nat) : Upd :=
  withCmd p ref 0x0502 fun c => .read fun s =>
    if objMine s p c then
      .seq [millMod p fun m => { m with objs := m.objs.map fun o => if o.handle = par c 0 2 then { o with unloading := true } else o },
        cmdMod p ref fun c => { c with phase := .running }]
    else postPlain p c stNotBound 0

/-- Whether a run of an object has not posted its status. -/
def objBusy (s : State) (p : Fin 4) (h : Nat) : Bool :=
  (psys s p).mill.runs.any (·.handle == h) ||
  (psys s p).cmds.any fun c => c.opcode == 0x0503 && par c 0 2 == h && c.phase != .waiting

/-- PROG_UNLOAD_DONE (R276): the object's last run has posted; the handle is free and PROG_UNLOAD posts OK. -/
def cmdProgUnloadDone (p : Fin 4) (h : Nat) : Upd :=
  .read fun s =>
    match objOf s p h with
    | none => .skip
    | some o =>
      if !o.unloading || objBusy s p h then .skip
      else .seq [millMod p fun m => { m with objs := m.objs.filter (·.handle != h) },
        .each ((psys s p).cmds.filter fun c => c.opcode == 0x0502 && par c 0 2 == h && c.phase == .running) fun c =>
          postPlain p c stOk 0]

/-- PROG_INFO (0x0504). -/
def specProgInfo : OpSpec :=
  { len := fun _ _ _ => 8, range := fun _ _ c => firstBad [(par c 2 6 != 0, 66)], bound := objMine, body := fun _ _ _ => 16 }

/-- PROG_INFO (Table 8.8). -/
def cmdProgInfo (p : Fin 4) (ref : Nat) : Upd :=
  withCmd p ref 0x0504 fun c => .read fun s =>
    match objOf s p (par c 0 2) with
    | none => postPlain p c stNotBound 0
    | some o =>
      if o.tenant ≠ c.tenant then postPlain p c stNotBound 0
      else postReply p c stOk 0 (natLE 2 o.mills.length ++ natLE 2 o.ops.length ++ natLE 2 o.tensors.length ++
        natLE 2 ((psys s p).mill.runs.countP (·.handle == o.handle)) ++ natLE 4 o.window ++ natLE 1 o.unloading.toNat ++ zeros 3)

/-! ### Runs (Table 8.9, R275 to R280) -/

/-- The bindings of a PROG_RUN. -/
def runBinds (c : Cmd) : List (Nat × Nat) :=
  (List.range (min (par c 8 2) 255)).map fun i => (par c (32 + 16 * i) 4, par c (40 + 16 * i) 8)

def Cmd.runCalib (c : Cmd) : Bool := nbit (par c 2 1) 0
def Cmd.runClip (c : Cmd) : Bool := nbit (par c 2 1) 1
def Cmd.runTable (c : Cmd) : Bool := nbit (par c 2 1) 2

/-- PROG_RUN (0x0503). The command itself is among those that count against the 256 run contexts (R275). With ROWS 0 the empty result of
R81 is a reply body of zeros: OK, no operation completed (DESIGN CHOICE, log 115). -/
def specProgRun : OpSpec :=
  { len := fun _ _ c => 32 + 16 * par c 8 2, exact := fun _ _ _ => true, body := fun _ _ _ => 32
    range := fun s p c =>
      let o := objOf s p (par c 0 2)
      let t (id : Nat) : Option Tensor := o.bind (·.tensor id)
      firstBad ([(decide (8 ≤ par c 2 1), 66),
        (if c.runClip then decide (par c 3 1 < 8) || decide (24 < par c 3 1) else par c 3 1 != 0, 67),
        (decide (65535 < par c 4 4), 68), (decide (255 < par c 8 2), 72), (par c 10 6 != 0, 74),
        (c.runTable && (par c 16 8 == 0 || inCellar s (par c 16 8)), 80),
        (c.runCalib && (par c 24 8 == 0 || inCellar s (par c 24 8)), 88)] ++
        (indexed (runBinds c)).flatMap fun x =>
          [(o.isSome && (t x.2.1).all (·.role == 0), 96 + 16 * x.1), (par c (36 + 16 * x.1) 4 != 0, 100 + 16 * x.1),
           ((t x.2.1).any (·.role == 2) && inCellar s x.2.2, 104 + 16 * x.1)])
    bound := fun s p c =>
      (match objOf s p (par c 0 2) with
       | some o => o.tenant == c.tenant && !o.unloading && o.mills.all (unitServes s 1 · c.tenant) &&
           (!c.runTable || rangeMine s p c (par c 16 8) o.ops.length) && (!c.runCalib || rangeMine s p c (par c 24 8) 1)
       | none => false) &&
      (runBinds c).all fun x => rangeMine s p c x.2 1
    pool := fun s p _ => if (psys s p).cmds.countP (·.opcode == 0x0503) ≤ 256 then none else some 0x0502
    zero := fun _ _ c => if par c 4 4 = 0 then some (zeros 32) else none }

/-- The streams of a run, in operation order: each weight once for the run, each input once for every operation that reads it, so
that it is never read before its operation (R271). How many of the object's Mills use a tensor is free; each of them reads it. -/
def runStreams (seed : Nat) (o : VObj) (r : VRun) : List Prefetch :=
  let uses := (indexed o.ops).flatMap fun x =>
    ((if x.2.vop = 8 then [] else [x.2.a]) ++ (if x.2.b = 0 then [] else [x.2.b])).eraseDups.filterMap fun id =>
      (o.tensor id).bind fun t => if t.role ≤ 1 then some (x.1, t, decide (x.2.vop ≤ 2) && id == x.2.b) else none
  let first := uses.foldl (fun (l : List (Nat × Tensor × Bool)) u =>
    if u.2.1.role = 0 ∧ (l.any fun y => y.2.1.id == u.2.1.id) then l else l ++ [u]) []
  (indexed first).map fun x =>
    let t := x.2.2.1
    ⟨r.id * 2 ^ 20 + x.1, r.id, x.2.1, t.id, t.stride * ((r.shape t).1 * (r.shape t).2), [], 0, x.2.2.2,
      1 + Config.pick (seed + x.1) o.mills.length % max 1 o.mills.length, none⟩

/-- A run of a command as it is admitted. -/
def runNew (o : VObj) (c : Cmd) : VRun :=
  { id := c.ref, ref := c.ref, handle := o.handle, tenant := c.tenant, rows := par c 4 4, binds := runBinds c, op := 0, words := [],
    inter := [], shapes := [], cycles := 0, fallbacks := 0, drift := 0, calib := [], waiting := none, thresh := c.thresh, sides := [],
    sel := none, wrote := [], peers := [] }

/-- PROG_RUN: a run context is taken and its streams are built, and its first operation is dispatched; the operations follow. -/
def cmdProgRun (p : Fin 4) (ref : Nat) : Upd :=
  withCmd p ref 0x0503 fun c => .read fun s =>
    match objOf s p (par c 0 2) with
    | none => postPlain p c stNotBound 0
    | some o =>
      let r := runNew o c
      .seq [cmdMod p ref fun c => { c with phase := .running }, .sys fun y => { y with free := y.free + 1 },
        millMod p fun m => MillSt.dispatch { m with runs := m.runs ++ [r], streams := m.streams ++ runStreams (opKey s.sys.free) o r } r]

/-- Bytes in a run's stream rings not consumed yet. -/
def ringHeld (m : MillSt) (run : Nat) : Nat :=
  ((m.streams.filter (·.run == run)).map fun x => x.data.length - x.fed).sum

/-- The Mill whose prefetcher a stream runs on: the one it has, or the first of the object's Mills with one of its four prefetchers
free. A stream that has moved all its bytes holds none (R270). -/
def prefetcher (m : MillSt) (o : VObj) (x : Prefetch) : Option Nat :=
  match x.on with
  | some i => some i
  | none => o.mills.find? fun i => decide (m.streams.countP (fun y => y.on == some i && decide (y.data.length < y.total)) < 4)

/-- PREFETCH_STREAM (R270, R271): up to n bytes moved into the stream's ring by a prefetcher while it holds credit for free space, weights
ahead of their operation and an input only for the operation that runs; or up to n bytes consumed by that operation's feeder. -/
def cmdPrefetchStream (p : Fin 4) (stream n : Nat) (feed : Bool) : Upd :=
  .read fun s =>
    let m := (psys s p).mill
    match m.streams.find? (·.id == stream) with
    | none => .skip
    | some x =>
      match runOf s p x.run, (runOf s p x.run).bind (fun r => objOf s p r.handle) with
      | some r, some o =>
        let put (f : Prefetch → Prefetch) : Upd := millMod p fun m =>
          { m with streams := m.streams.map fun y => if y.id = stream then f y else y }
        if feed then
          if r.op = x.op ∧ r.waiting = none then put fun y => { y with fed := min y.data.length (y.fed + n) } else .skip
        else match o.tensor x.tensor, prefetcher m o x with
          | some t, some i =>
            if t.role ≠ 0 ∧ (r.op ≠ x.op ∨ r.waiting ≠ none) then .skip
            else
              let k := min n (min (o.window * o.mills.length - ringHeld m r.id) (x.total - x.data.length))
              let a := r.addr o t + x.data.length
              let cls := ((cmdOf s p r.ref).map (·.cls)).getD 2
              if (rangeFail s p r.tenant false (a, k)).isSome ∨ !(flashMay s p cls a) then .skip
              else cohGate [(a, k, false)]
                (.seq [put fun y => { y with data := y.data ++ memBytes s a k, on := some i },
                  flashTake p cls a (pagesIn (r.addr o t) (x.data.length + k) - pagesIn (r.addr o t) x.data.length),
                  .each (List.range x.uses) fun _ => chargeRead s r.tenant a k])
          | _, _ => .skip
      | _, _ => .skip

/-! ### Ending a run -/

/-- The outputs of a run that did not end with OK: unspecified contents (R280). -/
def scramble (s : State) (p : Fin 4) (o : VObj) (r : VRun) : Upd :=
  .each (indexed ((o.tensors.filter (·.role == 2)).flatMap fun t => r.ranges o t)) fun x =>
    .when ((rangeFail s p r.tenant true x.2).isNone)
      (memStore x.2.1 (freeBytes x.2.2 (opKey s.sys.free + x.1 * 2 ^ 52)))

/-- A run ended by a status other than OK. -/
def runFail (p : Fin 4) (o : VObj) (r : VRun) (post : Cmd → Upd) : Upd :=
  .read fun s => .seq [scramble s p o r, .sys fun y => { y with free := y.free + 1 }, runDrop p r.id,
    match cmdOf s p r.ref with | some c => post c | none => .skip]

/-- The calibration records of a run, in ascending TENSOR_ID (R279). -/
def calibBytes (o : VObj) (r : VRun) (clip : Option Nat) : Bytes :=
  (sortBy (fun a b => decide (a.id < b.id)) (o.tensors.filter (·.calib))).flatMap fun t =>
    let c := (r.calib.find? (·.tensor == t.id)).getD ⟨t.id, [], List.replicate 32 0, 0, 0, 0⟩
    let n := t.groups * ((r.shape t).1 * (r.shape t).2)
    calibOut t t.groups clip { c with amax := c.amax ++ List.replicate (n - c.amax.length) 0 }

/-- A run whose last operation is done: the flag table, the calibration records and the reply (R278, R279, Table 8.10). -/
def runFinish (p : Fin 4) (id : Nat) : Upd :=
  .read fun s =>
    match runOf s p id with
    | none => .skip
    | some r => match objOf s p r.handle, cmdOf s p r.ref with
      | some o, some c =>
        if r.op < o.ops.length then .skip
        else
          let cal := if c.runCalib then calibBytes o r (if c.runClip then some (par c 3 1) else none) else []
          match (if c.runTable then rangeFail s p c.tenant true (par c 16 8, r.words.length) else none),
                rangeFail s p c.tenant true (par c 24 8, cal.length) with
          | some (st, a), _ => runFail p o r fun c => endAccess p c (sourceCode .mill) st a
          | none, some (st, a) => runFail p o r fun c => endAccess p c (sourceCode .mill) st a
          | none, none =>
            cohGate [(par c 16 8, if c.runTable then r.words.length else 0, true), (par c 24 8, cal.length, true)] <|
            .seq [.when c.runTable (.seq [runStore p r (par c 16 8) (r.words.map (BitVec.ofNat 8)), chargeWrite s c.tenant (par c 16 8) r.words.length]),
              .when c.runCalib (.seq [runStore p r (par c 24 8) cal, chargeWrite s c.tenant (par c 24 8) cal.length]),
              runDrop p id,
              postReply p c stOk 0 (natLE 1 (r.words.foldl (· ||| ·) 0) ++ zeros 1 ++ natLE 2 r.op ++ natLE 8 r.cycles ++
                natLE 2 (frameNow s + 1 - c.admFrame) ++ natLE 2 (min r.fallbacks 0xFFFF) ++ natLE 4 r.drift ++ natLE 4 cal.length ++ zeros 8)]
      | _, _ => .skip

/-! ### One operation -/

/-- One write of a tensor as calibration sees it (R248, R279): its first row, the rows as encoded, and the values before encoding. -/
structure Written where
  tensor : Tensor
  off : Nat
  val : TVal
  src : List (List Num)

/-- What an operation gives: a failure, or the tensors it writes with the values before encoding, its flags, weight sets,
drift-guard samples and any other effect. -/
structure OpOut where
  /-- status, DETAIL and FAULT_REF -/
  fail : Option (Nat × Nat × Nat) := none
  /-- an access that cannot be made: status and address -/
  access : Option (Nat × Nat) := none
  /-- who makes the accesses to rows (Table 8.12) -/
  agent : Agent := .mill
  /-- rows read or added to one by one, which hosts must not hold (R467) -/
  touch : List (Nat × Nat × Bool) := []
  outs : List (Tensor × TVal × List (List Num)) := []
  flags : FlagN := .none
  fronts : Nat := 0
  fallbacks : Nat := 0
  /-- physical columns of the segment an array product runs on -/
  cols : Option Nat := none
  samples : List (Bool × Option Nat) := []
  effect : Upd := .skip
  /-- rows stored one by one: address, bytes -/
  stores : List (Nat × Bytes) := []
  /-- the rows stored, for calibration -/
  written : List Written := []
  /-- outlier lists of the tensors written (R241) -/
  sides : List (Nat × List (Nat × Nat × Nat)) := []
  /-- the line whose poison ends the run once its other effects are made (R336) -/
  poison : Option Nat := none
  /-- a TALLY_WAIT that must wait for this target -/
  wait : Option Nat := none
  /-- what the run holds of a selection with passes to go (R176) -/
  more : Option Passes := none

/-- An operation that cannot be done. -/
def OpOut.no (status detail : Nat) : OpOut := { fail := some (status, detail, 0) }

/-- What an operation works on. -/
structure OpIn where
  s : State
  p : Fin 4
  c : Cmd
  o : VObj
  r : VRun
  v : VOp
  key : Nat

def OpIn.t (x : OpIn) (id : Nat) : Option Tensor := x.o.tensor id
def OpIn.val (x : OpIn) (t : Tensor) : TVal := readTensor x.s x.p x.o x.r t

/-- The ranges an operation reads whole. -/
def opReads (x : OpIn) : List (Nat × Nat) :=
  ((if x.v.vop = 8 ∨ x.v.vop = 0x11 then [] else [x.v.a]) ++ [x.v.b]).flatMap fun id =>
    match x.t id with
    | some t => if t.role = 3 then [] else x.r.ranges x.o t
    | none => []

/-- The streams of an operation's operands finished: the bytes not moved ahead are read and charged now, by each Mill that uses them. -/
def finishStreams (x : OpIn) : Upd :=
  .each ((psys x.s x.p).mill.streams.filter fun y => y.run == x.r.id && (y.tensor == x.v.a || y.tensor == x.v.b)) fun y =>
    match x.t y.tensor with
    | none => .skip
    | some t =>
      if t.role ≠ 0 ∧ y.op ≠ x.r.op then .skip
      else
        let a := x.r.addr x.o t + y.data.length
        let k := y.total - y.data.length
        .seq [.each (List.range y.uses) fun _ => chargeRead x.s x.r.tenant a k,
          millMod x.p fun m => { m with streams := m.streams.map fun z =>
            if z.id = y.id then { z with data := z.data ++ memBytes x.s a k, fed := z.total } else z }]

/-- The operands whose elements an operation reads as numbers: those may raise BADCODE (R194). -/
def readAsNumbers (v : VOp) : List Nat :=
  if v.vop ≤ 3 then [v.a, v.b] else if v.vop ≤ 7 ∨ v.vop = 0xB ∨ v.vop = 0xD ∨ v.vop = 0xE then [v.a]
  else if v.vop = 8 ∨ v.vop = 9 ∨ v.vop = 0xC then [v.b] else []

/-- BADCODE of an operation's operands. -/
def opBad (x : OpIn) : FlagN :=
  flagSum ((readAsNumbers x.v).map fun id => match x.t id with | some t => badCodes t (x.val t) | none => .none)

/-- The flag word of an operation done, its cycles and stalls (free: timing), the sets loaded, the samples, and the advance. -/
def opDone (x : OpIn) (out : OpOut) : Upd :=
  let calibRun := x.c.runCalib
  let n := out.samples.length
  let ex := out.samples.countP (·.1)
  let worst := out.samples.foldl (fun a y => match y.2 with | some d => if numLt (f32 a) (f32 d) then d else a | none => a) 0
  .fresh fun w =>
    let cycles := if x.v.vop = 1 ∨ x.v.vop = 2 ∨ out.fronts + out.fallbacks ≠ 0 ∨ (3 ≤ x.v.vop ∧ x.v.vop ≤ 7) then w.toNat % 2 ^ 32 else 0
    .fresh fun st =>
    .seq [raiseFlags x.p out.flags, ledger x.r.tenant 3 cycles,
      regCount .millFront x.p 0 63 32 out.fronts, regCount .millFront x.p 0 31 0 out.fallbacks,
      .when (cycles != 0) (.seq [regCount .millStall x.p 0 63 32 (fld st 31 0), regCount .millStall x.p 0 31 0 (fld st 63 32)]),
      .when (!calibRun && n != 0) (millMod x.p fun m =>
        let key (z : Nat × Nat × Nat) : Bool := z.1 == x.r.handle && z.2.1 == x.r.op
        let old := ((m.byOp.find? key).map (·.2.2)).getD 0
        { m with
          samples := m.samples + n, exceed := m.exceed + ex, worst := if numLt (f32 m.worst) (f32 worst) then worst else m.worst,
          byOp := if ex = 0 then m.byOp else (x.r.handle, x.r.op, old + ex) :: m.byOp.filter (!key ·),
          refs := if ex = 0 then m.refs else x.r.ref :: m.refs.filter (· != x.r.ref) }),
      (match out.cols with
       | some w => millMod x.p fun m => m.onUnits x.o.mills fun u => { u with segments := if w < 8 then [w, 8 - w] else [8] }
       | none => .skip),
      runMod x.p x.r.id fun r => { r with
        op := r.op + 1, sel := none, sides := out.sides ++ r.sides.filter (fun y => !(out.outs.any fun w => w.1.id == y.1)), words := r.words ++ [out.flags.word], cycles := r.cycles + cycles, fallbacks := r.fallbacks + out.fallbacks,
        drift := min (2 ^ 32 - 1) (r.drift + ex), waiting := none },
      millMod x.p (·.advance x.r.id),
      runFinish x.p x.r.id]

/-- Calibration statistics of a tensor marked CALIB brought up to date. -/
def calibPut (x : OpIn) (w : Written) : Upd :=
  .when (x.c.runCalib && w.tensor.calib) (runMod x.p x.r.id fun r =>
    let old := (r.calib.find? (·.tensor == w.tensor.id)).getD ⟨w.tensor.id, [], List.replicate 32 0, 0, 0, 0⟩
    { r with calib := calibAdd (x.key + 2 ^ 60) w.tensor w.off w.val w.src old :: r.calib.filter (·.tensor != w.tensor.id) })

/-- Statistics of a marked operand, the first time an operation reads it. -/
def calibIn (x : OpIn) : Upd :=
  .each [x.v.a, x.v.b] fun id => match x.t id with
    | some t => .when (decide (t.role ≤ 1) && !(x.r.calib.any (·.tensor == id)))
        (.read fun _ => let v := x.val t; calibPut x ⟨t, 0, v, v.rows.map (TRow.values t v.st)⟩)
    | none => .skip

/-- The ranges of memory that an operation's outputs take. -/
def outWrites (x : OpIn) (outs : List (Tensor × TVal)) : List (Nat × Nat) :=
  let r := outs.foldl (fun r w => r.shaped w.1 w.2) x.r
  (outs.filter (·.1.role != 3)).flatMap fun w => r.ranges x.o w.1

/-- Whether every row written has its tensor's length. -/
def outFits (outs : List (Tensor × TVal)) : Bool := outs.all fun w => w.2.rows.all fun row => row.codes.length == w.1.d0

/-- The tensors an operation writes and what it writes to them. -/
def OpOut.vals (out : OpOut) : List (Tensor × TVal) := out.outs.map fun w => (w.1, w.2.1)

/-- The current operation of a run performed, where it is one of this code, nothing holds the run (R346, R350) and, of a Mill operation,
the dispatch queues of its Mills take it. -/
def opStep (p : Fin 4) (run vop : Nat) (f : OpIn → OpOut) : Upd :=
  .read fun s =>
    match runOf s p run with
    | none => .skip
    | some r => match objOf s p r.handle, cmdOf s p r.ref with
      | some o, some c => match o.ops[r.op]? with
        | none => .skip
        | some v =>
          if v.vop ≠ vop ∨ r.waiting ≠ none ∨ (v.onQueue ∧ !((psys s p).mill.accepts o r.id)) then .skip
          else
            let x : OpIn := ⟨s, p, c, o, r, v, opKey s.sys.free⟩
            match (opReads x).findSome? (rangeFail s p r.tenant false) with
            | some (st, a) => runFail p o r fun c => endAccess p c (sourceCode .mill) st a
            | none => cohGate ((opReads x).map fun a => (a.1, a.2, false)) <|
              let out := f x
              let writes := outWrites x out.vals ++ out.stores.map fun w => (w.1, w.2.length)
              let bad := out.access.toList ++ writes.filterMap (rangeFail s p r.tenant true)
              let out := { out with flags := out.flags.add (opBad x) }
              match out.fail, bad.head? with
              | some (st, d, ref), _ => .seq [out.effect, runFail p o r fun c => postReply p c st d [] ref]
              | none, some (st, a) => runFail p o r fun c => endAccess p c (sourceCode out.agent) st a
              | none, none =>
                if !(outFits out.vals) then runFail p o r fun c => postPlain p c stBadParam 0
                else match out.wait, out.more with
                  | some target, _ => runMod p run fun r => { r with waiting := some target }
                  | none, some y => .seq [.sys fun y => { y with free := y.free + 1 }, runMod p run fun r => { r with sel := some y }]
                  | none, none => cohGate (out.touch ++ writes.map fun w => (w.1, w.2, true)) <|
                    .seq [.sys fun y => { y with free := y.free + 1 }, finishStreams x, calibIn x,
                      .each out.outs (fun w => .seq [writeTensor p o r w.1 w.2.1, calibPut x ⟨w.1, 0, w.2.1, w.2.2⟩]),
                      .each out.stores (fun w => .seq [runStore p r w.1 w.2, chargeWrite s r.tenant w.1 w.2.length]),
                      .each out.written (calibPut x), runMod p run (fun r => { r with wrote := r.wrote ++ writes }),
                      out.effect,
                      match out.poison with
                      | some l => runFail p o r fun c => endPoison p c (sourceCode .stackEngine) l 0 []
                      | none => opDone x out]
      | _, _ => .skip

/-- An operation on operand A and an output. -/
def opUnary (p : Fin 4) (run vop : Nat) (f : OpIn → Tensor → TVal → Tensor → OpOut) : Upd :=
  opStep p run vop fun x => match x.t x.v.a, x.t x.v.out with
    | some a, some t => f x a (x.val a) t
    | _, _ => .no stBadParam 0

/-- Rows per matrix kept from A. -/
def perOf (v : TVal) : Nat := v.per

/-- An output encoded from FP32 rows. -/
def outF32 (t : Tensor) (per : Nat) (rows : List (List (Nat × FlagN))) : OpOut :=
  let (v, fl) := finishRows t per rows
  { outs := [(t, v, rows.map fun l => l.map fun e => f32 e.1)], flags := fl }

/-! ### Array products -/

/-- Weight sets by how they are loaded (R263, R264): by front, or by row broadcast. -/
def setsOf (x : OpIn) (bm : Bool) (b : Tensor) (w : Nat) : Nat × Nat :=
  if bit (lv x.s .millCtl x.p) 0 || (!b.frontOut && (bm || decide (2 ≤ b.role))) then (0, w) else (w, 0)

/-- The guard's rate for an operation, none when it is off (R243, R247, R248). -/
def guardRate (x : OpIn) (b : Tensor) : Option Nat :=
  let ctl := lv x.s .driftCtl x.p
  let r := fld ctl 11 8
  if x.c.runCalib then some 6
  else if twoBit b.fmt then some (min r 10)
  else if bit ctl 0 then some r else none

/-- A product of streamed A and stationary B (R229 to R234, R240, R243). -/
def productOp (x : OpIn) (bm : Bool) (a b t : Tensor) (mats : List MatPair) : OpOut :=
  let va := x.val a
  let ks := (mats.flatMap fun m => m.as ++ m.bs).map (·.codes.length)
  let k := ks.headD 0
  if ks.any (· != k) then .no stBadParam 0
  else
    let r := productRows t x.key va.per (exactInts a b t) mats
    let kd := match mats.head? with | some m => kindOf m.as m.bs | none => kindOf [] []
    let cols := segmentCols (x.key + 2 ^ 59) kd
    let n := (mats.head?.map (·.bs.length)).getD 0
    let sets := setsOf x bm b (weightSets kd cols (if bm then va.per else va.rows.length) k n * mats.length)
    let samples := match guardRate x b with
      | some rate => (indexed mats).flatMap fun m =>
          driftSamples x.o b (x.key + 2 ^ 61 + m.1 * 2 ^ 56) rate (fld (lv x.s .driftTau x.p) 31 0) (if bm then m.1 * (x.val b).per else 0) m.2
      | none => []
    { outs := [(t, r.1, r.2.2)], flags := r.2.1.add (flagSum (mats.map (·.flags))),
      fronts := sets.1, fallbacks := sets.2, cols := some cols, samples }

/-- The side list of a tensor's row: of one that the run's CONVERT wrote (R241), or of the object's. -/
def sideOf (o : VObj) (r : VRun) (t : Tensor) (row : Nat) : List (Nat × Nat) :=
  match (r.sides ++ o.sides).find? (·.1 == t.id) with
  | some (_, l) => (l.filter (·.1 == row)).map (·.2)
  | none => []

/-- MATMUL: every row of A with every row of B. -/
def cmdMatmul (p : Fin 4) (run : Nat) : Upd :=
  opStep p run 0x01 fun x => match x.t x.v.a, x.t x.v.b, x.t x.v.out with
    | some a, some b, some t =>
      let va := x.val a
      let vb := x.val b
      productOp x false a b t [⟨va.rows.map (TRow.operand a va.st []), stationary b vb vb.rows (sideOf x.o x.r b), [], .none⟩]
    | _, _, _ => .no stBadParam 0

/-- BMATMUL: matrix i of A with matrix i of B (R250, R251). -/
def cmdBmatmul (p : Fin 4) (run : Nat) : Upd :=
  opStep p run 0x02 fun x => match x.t x.v.a, x.t x.v.b, x.t x.v.out with
    | some a, some b, some t => productOp x true a b t (batchMats a b (x.val a) (x.val b))
    | _, _, _ => .no stBadParam 0

/-! ### The epilogue unit -/

/-- EWISE (R282). -/
def cmdEwise (p : Fin 4) (run : Nat) : Upd :=
  opUnary p run 0x03 fun x a va t =>
    let b := match x.t x.v.b with | some b => let vb := x.val b; vb.rows.map (TRow.elems b vb.st) | none => []
    outF32 t va.per (ewiseRows x.v.sub (va.rows.map (TRow.elems a va.st)) b)

/-- NORM (R282). -/
def cmdNorm (p : Fin 4) (run : Nat) : Upd :=
  opUnary p run 0x04 fun x a va t =>
    outF32 t va.per ((indexed (va.rows.map (TRow.elems a va.st))).map fun r => normRow x.v.sub (x.key + r.1 * 2 ^ 40) r.2)

/-- SOFTMAX at temperature AUX (R282). -/
def cmdSoftmax (p : Fin 4) (run : Nat) : Upd :=
  opUnary p run 0x05 fun x a va t =>
    outF32 t va.per ((indexed (va.rows.map (TRow.elems a va.st))).map fun r => softmaxRow (x.key + r.1 * 2 ^ 40) x.v.aux r.2)

/-- REDUCE along the innermost dimension (R212, R213, R215, R282). -/
def cmdReduce (p : Fin 4) (run : Nat) : Upd :=
  opUnary p run 0x06 fun x a va t =>
    let rows := (indexed (va.rows.map (TRow.elems a va.st))).map fun r => reduceRow x.v.sub (x.key + r.1 * 2 ^ 40) r.2
    let (v, f) := finishWith t va.per (rows.map fun r => [r])
    { outs := [(t, v, rows.map fun r => [r.1])], flags := f }

/-- The outliers per group that a CONVERT asks its encoder to take out: AUX, from 1 to 4, for an output of 8 bits or fewer (R241; that AUX
asks for them is a DESIGN CHOICE, log 120). -/
def outlierLimit (v : VOp) (t : Tensor) : Nat := if v.aux ≤ 4 ∧ fmtBits t.fmt ≤ 8 then v.aux else 0

/-- CONVERT (R203, R225, R241): with outliers asked for, they are taken out first and go to the output's side list in BF16. -/
def cmdConvert (p : Fin 4) (run : Nat) : Upd :=
  opUnary p run 0x07 fun x a va t =>
    let src := va.rows.map (TRow.values a va.st)
    let o := outlierLimit x.v t
    let cut := src.map fun r => if o = 0 then (r, []) else takeOutliers o t.run r
    let (v, f) := finishExact t va.per (cut.map (·.1))
    let taken := (indexed cut).flatMap fun r => r.2.2.map fun y => (r.1, y.1, convert 0xC false y.2)
    { outs := [(t, v, src)], flags := f.add (flagSum (taken.map fun y => y.2.2.2)),
      sides := if taken.isEmpty then [] else [(t.id, taken.map fun y => (y.1, y.2.1, y.2.2.1))] }

/-- The rows an output tensor holds in a run. -/
def rowsOf (x : OpIn) (t : Tensor) : Nat := (x.r.shape t).1 * (x.r.shape t).2

/-- KV_APPEND (R252): record i of A's rows at record AUX + i of OUT, under TWO_LEVEL. Records beyond OUT's rows are refused: a run writes
nothing outside its outputs (R280). -/
def cmdKvAppend (p : Fin 4) (run : Nat) : Upd :=
  opUnary p run 0x0D fun x a va t =>
    let rows := va.rows.map (TRow.values a va.st)
    let encs := rows.map (encodeRow t.fmt t.u 1 t.group num0)
    let flags := flagSum (encs.map (·.2))
    let stride := roundUp (t.valBytes + t.groups + 4 * ceilDiv t.groups 16) 16
    let vals := encs.map fun e => (⟨e.1.codes, e.1.s1, e.1.s2⟩ : TRow)
    let fits := if t.role = 3 then decide (x.v.aux + rows.length ≤ rowsOf x t) else decide ((x.v.aux + rows.length) * stride ≤ rowsOf x t * t.stride)
    if rows.any (·.length != t.d0) || !fits then .no stBadParam 0
    else if t.role = 3 then
      let old := x.val t
      let put := (indexed vals).foldl (fun (l : List TRow) e => l.set (x.v.aux + e.1) e.2) old.rows
      { outs := [(t, { old with rows := put }, rows)], flags }
    else
      { stores := (indexed encs).map fun e => (x.r.addr x.o t + (x.v.aux + e.1) * stride,
          padTo stride (packRow t.fmt e.2.1.codes ++ e.2.1.s1.flatMap (natLE 1) ++ e.2.1.s2.flatMap (natLE 4))), flags,
        written := [⟨t, x.v.aux, ⟨vals.length, vals, 0⟩, rows⟩] }

/-! ### Moves and adds -/

/-- A tensor of row indices read as numbers. -/
def indicesOf (t : Tensor) (v : TVal) : List Nat :=
  (v.rows.flatMap (TRow.values t v.st)).map fun n => match n with
    | .fin false m e => m * 2 ^ e.toNat / 2 ^ (-e).toNat
    | _ => 2 ^ 64

/-- GATHER (R333, R341): the rows of A that B names, as stored; read by the stacks' engines or by the Mills' prefetchers (R38 to R40,
R284, Table 8.12). -/
def cmdGather (p : Fin 4) (run : Nat) : Upd :=
  opUnary p run 0x08 fun x a va t => match x.t x.v.b with
    | none => .no stBadParam 0
    | some b =>
      let ix := indicesOf b (x.val b)
      let ranges := if a.role = 3 then [] else ix.map fun i => (x.r.addr x.o a + i * a.stride, a.stride)
      let agent := if tensorOnMills x.s x.o x.r a ix.length then Agent.mill else .stackEngine
      if ix.any (va.rows.length ≤ ·) then .no stNotBound 0
      else match ranges.findSome? (rangeFail x.s p x.r.tenant false) with
        | some y => { access := some y, agent }
        | none =>
          let rows := ix.filterMap fun i => va.rows[i]?
          { outs := [(t, ⟨rows.length, rows, va.st⟩, rows.map (TRow.values a va.st))],
            touch := ranges.map fun y => (y.1, y.2, false),
            effect := .each ranges fun y => chargeRead x.s x.r.tenant y.1 y.2 }

/-- The lines that the stack engines' ADDs of rows touch, beyond those their stores count: one add for an entry, or for a row that the Mills
have summed (Table 8.12); `rows` holds addresses and entries. -/
def addLines (s : State) (mills : Bool) (n : Nat) (rows : List (Nat × Nat)) : Upd :=
  .each rows fun r => .when (regionOf (unalias s r.1) == .loft)
    (stackLines (stackOf (unalias s r.1)) ((if mills then 1 else r.2) * units64 r.1 n - partLines r.1 n))

/-- SCATTER_ADD (R334, R335, R341, Table 8.12): A's rows added to the rows of OUT that B names. An entry whose row lies on a
poisoned line is not applied and ends the run with POISONED (R336). -/
def cmdScatterAdd (p : Fin 4) (run : Nat) : Upd :=
  opUnary p run 0x09 fun x a va t => match x.t x.v.b with
    | none => .no stBadParam 0
    | some b =>
      let ix := indicesOf b (x.val b)
      let old := x.val t
      let addr (i : Nat) : Nat := x.r.addr x.o t + i * t.stride
      let mills := tensorOnMills x.s x.o x.r t va.rows.length
      if ix.any (old.rows.length ≤ ·) || a.d0 != t.d0 then .no stNotBound 0
      else
        let es := ix.zip va.rows
        let bad (i : Nat) : Option Nat := if t.role = 3 then none else poisonIn x.s (addr i) t.stride
        let rows := (ix.eraseDups.filter fun i => (bad i).isNone).map fun i =>
          let mine := (es.filter (·.1 == i)).map (·.2.codes)
          let cells := (List.range t.d0).map fun j =>
            addElem (t.fmt == 0xD) mills (x.key + (i * t.d0 + j) * 2 ^ 32) (((old.rows.getD i ⟨[], [], []⟩).codes).getD j 0) (mine.map (·.getD j 0))
          (i, mine.length, cells.map (·.1), flagSum (cells.map (·.2)))
        let flags := flagSum (rows.map (·.2.2.2))
        let vals (codes : List Nat) : List Num := TRow.values t 0 ⟨codes, [], []⟩
        if t.role = 3 then
          let put := rows.foldl (fun (l : List TRow) r => l.set r.1 ⟨r.2.2.1, [], []⟩) old.rows
          { outs := [(t, { old with rows := put }, put.map fun r => vals r.codes)], flags }
        else
          { stores := rows.map fun r => (addr r.1, packRow t.fmt r.2.2.1), flags, effect := addLines x.s mills t.stride (rows.map fun r => (addr r.1, r.2.1)),
            written := rows.map fun r => ⟨t, r.1, ⟨1, [⟨r.2.2.1, [], []⟩], 0⟩, [vals r.2.2.1]⟩, poison := ix.findSome? bad }

/-- COPY (R198): A's codes and scales, without conversion. -/
def cmdCopy (p : Fin 4) (run : Nat) : Upd :=
  opUnary p run 0x0F fun _ a va t =>
    let rows := va.rows.map fun r => { (rowIn t (packRow a.fmt r.codes) [] []) with s1 := r.s1, s2 := r.s2 }
    { outs := [(t, ⟨va.per, rows, va.st⟩, rows.map (TRow.values t va.st))] }

/-- HAMMING (R283, R284): out[m][n] is the distance of query code m and code n. On the arrays it loads weight sets; in what container
the feeders expand the bits is free. -/
def cmdHamming (p : Fin 4) (run : Nat) : Upd :=
  opUnary p run 0x0A fun x a va t => match x.t x.v.b with
    | none => .no stBadParam 0
    | some b =>
      let vb := x.val b
      let ds := va.rows.map fun r => vb.rows.map fun q => (List.zipWith (fun i j => if i % 2 = j % 2 then 0 else 1) r.codes q.codes).sum
      let src : List (List Num) := ds.map fun l => l.map fun d => .fin false d 0
      let (v, f) := finishExact t va.per src
      let kd : SetKind := ⟨[8, 4, 3].getD (Config.pick (x.key + 1) 3 % 3) 8, 128, false⟩
      let cols := segmentCols (x.key + 2) kd
      let sets := setsOf x false b (weightSets kd cols va.rows.length a.d0 vb.rows.length)
      if a.d0 ≠ b.d0 then .no stBadParam 0
      else if tensorOnMills x.s x.o x.r b va.rows.length then
        { outs := [(t, v, src)], flags := f, fronts := sets.1, fallbacks := sets.2, cols := some cols }
      else
        { outs := [(t, v, src)], flags := f,
          effect := .seq [ledger x.r.tenant 5 (va.rows.length * vb.rows.length),
            .each (indexed vb.rows) fun q => stackPairs (stackOf (unalias x.s (x.r.addr x.o b + q.1 * b.stride))) va.rows.length] }

/-! ### The Sorter -/

/-- Whether a run's selection holds a register of the Sorter or may take one; else it waits (R166). -/
def sorterTakes (s : State) (p : Fin 4) (run : Nat) : Bool :=
  match runOf s p run with
  | none => true
  | some r => (r.sel.any (·.pass != 0)) || registerLeft (psys s p) (((cmdOf s p r.ref).map (·.cls)).getD 0)

/-- An operation on the Sorter. -/
def opSorter (p : Fin 4) (run vop : Nat) (f : OpIn → Tensor → TVal → Tensor → OpOut) : Upd :=
  .read fun s => .when (sorterTakes s p run) (opUnary p run vop f)

/-- The first element of B, the temperature of an EXP selection or merge; none without B. -/
def tempOf (x : OpIn) : Option Nat :=
  (x.t x.v.b).map fun b => (((x.val b).rows.head?.bind fun r => (r.f32s b (x.val b).st).head?).map (·.1)).getD 0

/-- A tensor's row as the Sorter takes it (R168, R183): FP32 scores by index. -/
def scoreRow (t : Tensor) (st : Nat) (r : TRow) : List Entry :=
  (indexed (r.f32s t st)).map fun e => ⟨BitVec.ofNat 32 e.2.1, e.1, 0, 0, 0, none⟩

/-- An output of result blocks. -/
def outBlocks (t : Tensor) (per : Nat) (blocks : List Bytes) (flags : FlagN) : OpOut :=
  let v := finishRaw t per (blocks.map (padTo t.valBytes))
  { outs := [(t, v, v.rows.map (TRow.values t v.st))], flags }

/-- TOPK: the best AUX of each row of A, as a result block, in EXP mode with a B that gives the temperature (DESIGN CHOICE, log 94). Above
256 it runs in passes, each reading its row anew, one pass at each event, row by row (R176, R177). -/
def cmdTopk (p : Fin 4) (run : Nat) : Upd :=
  opSorter p run 0x0B fun x a va t =>
    let how : Select := ⟨x.v.dir == 1, (tempOf x).isSome, (tempOf x).getD 0, x.v.aux⟩
    let conv (r : TRow) : FlagN := flagSum ((r.f32s a va.st).map (·.2))
    if t.valBytes < blockSize x.v.aux false then .no stBadParam 0
    else if x.v.aux ≤ 256 then
      let blocks := (indexed va.rows).map fun r =>
        selectBlock (x.key + r.1 * 2 ^ 40) how.dirHigh false false how.exp how.temp x.v.aux (scoreRow a va.st r.2)
      outBlocks t va.per (blocks.map fun b => blockOut b.1) (flagSum (blocks.map (·.2) ++ va.rows.map conv))
    else
      let y := x.r.sel.getD ⟨x.c.cls, [], 0, [], 0, 0, .none⟩
      let row := va.rows.getD y.blocks.length ⟨[], [], []⟩
      let z := passNext x.key how (scoreRow a va.st row) (if y.pass = 0 then { y with flags := y.flags.add (conv row) } else y)
      if z.blocks.length < va.rows.length then { more := some z } else outBlocks t va.per z.blocks z.flags

/-- MERGE (R185 to R189): the blocks that are the rows of one matrix of A merged into the best AUX. The temperature of an EXP
merge is B's first element, free without B. -/
def cmdMerge (p : Fin 4) (run : Nat) : Upd :=
  opSorter p run 0x0C fun x a va t =>
    let temp := (tempOf x).getD ((Config.free (x.s.sys.free)).toNat % 2 ^ 32)
    let lists := (cut (max 1 va.per) va.rows).map fun rows => rows.map fun r => blockIn (packRow a.fmt r.codes)
    let merged := (indexed lists).map fun l =>
      mergeBlocks (x.key + l.1 * 2 ^ 44) (x.v.dir == 1) (l.2.any (·.payload)) (l.2.any (·.massExp)) false temp x.v.aux l.2
    if lists.any (fun l => !(mergeable l) || l.any (·.dirHigh != (x.v.dir == 1))) ||
        merged.any (fun b => decide (t.valBytes < blockSize x.v.aux b.1.payload)) then .no stBadParam 0
    else outBlocks t 1 (merged.map fun b => blockOut b.1) (flagSum (merged.map (·.2)))

/-! ### The text unit and the Steward -/

/-- Whether a run's DETOK waits for a vocabulary table to come into force (R304). -/
def detokWaits (s : State) (p : Fin 4) (run : Nat) : Bool :=
  ((runOf s p run).bind fun r => cmdOf s p r.ref).any (vocabWaits s p)

/-- DETOK (R307): a feed of the stream that AUX names, of the program's tenant and partition; an ID that no token or byte of the stream's
mode has gets BAD_PARAM, as in a feed. -/
def cmdDetok (p : Fin 4) (run : Nat) : Upd :=
  .read fun s => .when (!(detokWaits s p run)) <| opUnary p run 0x0E fun x a va t =>
    let ids := indicesOf a va
    match streamOf x.s p x.v.aux with
    | none => .no stNotBound 0
    | some st =>
      if st.tenant ≠ x.r.tenant then .no stNotBound 0
      else match st.state with
        | .failed true _ => .no stBadParam 64
        | .failed false ref => { fail := some (stContextReset, 0, ref) }
        | .draining => .no stNotBound 0
        | _ =>
          if ids.any fun i => decide ((if st.mode = 0 then 2 ^ 20 else 256) ≤ i) then .no stBadParam 0
          else if 131072 < st.queue.length + 64 + (if st.mode = 0 then 96 * ids.length else if st.mode = 1 then 3 * ids.length else 6 * ids.length) then
            .no stRetry 0x0702
          else
            let data := if st.mode = 0 then ids.flatMap (natLE 4) else ids.map (BitVec.ofNat 8)
            let r := feedRun (psys x.s p).text.vocab st data 0
            let (ti, cons, _, _) := r.hit.getD (0xFFFF, 0, 0, 0)
            let out := natLE 1 r.final.endCode ++ natLE 1 r.final.stopIndex ++ natLE 2 ti ++ natLE 2 cons ++ zeros 2 ++
              natLE 4 r.final.queue.length ++ zeros 4
            if t.stride < 16 then .no stBadParam 0
            else match r.bad with
              | some d => { fail := some (stBadParam, d, 0), effect := .seq [textCounts p x.r.tenant r, streamPut p r.final] }
              | none =>
                { outs := [(t, finishRaw t 1 [padTo t.valBytes out], [])],
                  effect := .seq [textCounts p x.r.tenant r, streamPut p r.final] }

/-- Whether the tally an operation names serves the run's tenant (R349). -/
def opTallyOk (x : OpIn) : Bool := unitHolds x.s 10 (32 * x.p.val + x.v.aux % 4096 / 128) x.r.tenant

/-- TALLY_WAIT (R350): the run waits until the tally reaches or passes the target that A holds, low word first. -/
def cmdTallyWait (p : Fin 4) (run : Nat) : Upd :=
  opStep p run 0x10 fun x => match x.t x.v.a with
    | none => .no stBadParam 0
    | some a =>
      let w := (x.val a).rows.flatMap (·.codes)
      let target := w.getD 0 0 + 2 ^ 32 * w.getD 1 0
      if !(opTallyOk x) then .no stNotBound 0
      else if target ≤ (rd x.s .tally p (x.v.aux % 4096)).toNat then {} else { wait := some target }

/-- TALLY_WAIT_RELEASE (R350): the tally has reached the target; the run goes on. -/
def cmdTallyWaitRelease (p : Fin 4) (run : Nat) : Upd :=
  .read fun s =>
    match runOf s p run with
    | none => .skip
    | some r => match r.waiting, objOf s p r.handle, cmdOf s p r.ref with
      | some target, some o, some c => match o.ops[r.op]? with
        | some v =>
          if target ≤ (rd s .tally p (v.aux % 4096)).toNat then
            let x : OpIn := ⟨s, p, c, o, r, v, opKey s.sys.free⟩
            .seq [finishStreams x, opDone x {}]
          else .skip
        | none => .skip
      | _, _, _ => .skip

/-- TALLY_ADD (R350). -/
def cmdTallyAdd (p : Fin 4) (run : Nat) : Upd :=
  opStep p run 0x11 fun x =>
    if opTallyOk x then { effect := tallyInc p (x.v.aux % 4096) } else .no stNotBound 0

/-! ### Settings -/

/-- The drift guard at a Bell (R245): the frame just ended judged where it holds MIN_SAMPLES samples (Table 7.8), and its counts cleared.
DRIFT_COUNT and WORST are those of the frame last judged (Table 7.11). -/
def driftBell (p : Fin 4) (endRef : Nat → Nat → Upd) : Upd :=
  .read fun s =>
    let m := (psys s p).mill
    let ctl := lv s .driftCtl p
    let judged := decide (fld ctl 31 16 ≤ m.samples)
    let alarm := judged && decide (m.samples * fld ctl 39 32 < m.exceed * 256)
    let mode := fld ctl 2 1
    let worst := m.byOp.foldl (fun (a : Nat × Nat × Nat) y => if a.2.2 < y.2.2 then y else a) (0, 0, 0)
    let o := objOf s p worst.1
    let frame := frameNow s - 1
    let rec' : FaultRec := { faultBase 0x07 (if mode = 2 then 1 else 0) with
      tenant := (o.map (·.tenant)).getD 0, count := if mode = 2 then m.refs.length else 0,
      detail := natLE 2 worst.1 ++ natLE 2 worst.2.1 ++ natLE 4 m.samples ++ natLE 4 m.exceed ++ natLE 4 m.worst }
    .seq [millMod p fun m => { m with samples := 0, exceed := 0, worst := 0, byOp := [], refs := [] },
      .when judged (regMod .driftCount p 0 fun w => setFld (setFld w 63 32 m.samples) 31 0 m.exceed),
      .when judged (regMod .driftTotal p 0 fun w => setFld w 31 0 m.worst),
      .when alarm (.seq [
        regMod .driftStatus p 0 fun w => setFld (setBit w 63 true) 47 0 frame,
        regCount .driftTotal p 0 63 32 1,
        .when (mode == 1 || mode == 2) (fault p rec'),
        .when (mode == 2) (.each m.refs fun r => endRef r (nextFaultRef s p))])]

def execProgLoad (p : Fin 4) (ref : Nat) (s : State) : Host.Outcome State Fault Refusal := (cmdProgLoad p ref).go s
def execProgUnload (p : Fin 4) (ref : Nat) (s : State) : Host.Outcome State Fault Refusal := (cmdProgUnload p ref).go s
def execProgUnloadDone (p : Fin 4) (h : Nat) (s : State) : Host.Outcome State Fault Refusal := (cmdProgUnloadDone p h).go s
def execProgRun (p : Fin 4) (ref : Nat) (s : State) : Host.Outcome State Fault Refusal := (cmdProgRun p ref).go s
def execProgInfo (p : Fin 4) (ref : Nat) (s : State) : Host.Outcome State Fault Refusal := (cmdProgInfo p ref).go s
def execMatmul (p : Fin 4) (run : Nat) (s : State) : Host.Outcome State Fault Refusal := (cmdMatmul p run).go s
def execBmatmul (p : Fin 4) (run : Nat) (s : State) : Host.Outcome State Fault Refusal := (cmdBmatmul p run).go s
def execEwise (p : Fin 4) (run : Nat) (s : State) : Host.Outcome State Fault Refusal := (cmdEwise p run).go s
def execNorm (p : Fin 4) (run : Nat) (s : State) : Host.Outcome State Fault Refusal := (cmdNorm p run).go s
def execSoftmax (p : Fin 4) (run : Nat) (s : State) : Host.Outcome State Fault Refusal := (cmdSoftmax p run).go s
def execReduce (p : Fin 4) (run : Nat) (s : State) : Host.Outcome State Fault Refusal := (cmdReduce p run).go s
def execConvert (p : Fin 4) (run : Nat) (s : State) : Host.Outcome State Fault Refusal := (cmdConvert p run).go s
def execGather (p : Fin 4) (run : Nat) (s : State) : Host.Outcome State Fault Refusal := (cmdGather p run).go s
def execScatterAdd (p : Fin 4) (run : Nat) (s : State) : Host.Outcome State Fault Refusal := (cmdScatterAdd p run).go s
def execHamming (p : Fin 4) (run : Nat) (s : State) : Host.Outcome State Fault Refusal := (cmdHamming p run).go s
def execTopk (p : Fin 4) (run : Nat) (s : State) : Host.Outcome State Fault Refusal := (cmdTopk p run).go s
def execMerge (p : Fin 4) (run : Nat) (s : State) : Host.Outcome State Fault Refusal := (cmdMerge p run).go s
def execKvAppend (p : Fin 4) (run : Nat) (s : State) : Host.Outcome State Fault Refusal := (cmdKvAppend p run).go s
def execDetok (p : Fin 4) (run : Nat) (s : State) : Host.Outcome State Fault Refusal := (cmdDetok p run).go s
def execCopy (p : Fin 4) (run : Nat) (s : State) : Host.Outcome State Fault Refusal := (cmdCopy p run).go s
def execTallyWait (p : Fin 4) (run : Nat) (s : State) : Host.Outcome State Fault Refusal := (cmdTallyWait p run).go s
def execTallyWaitRelease (p : Fin 4) (run : Nat) (s : State) : Host.Outcome State Fault Refusal := (cmdTallyWaitRelease p run).go s
def execTallyAdd (p : Fin 4) (run : Nat) (s : State) : Host.Outcome State Fault Refusal := (cmdTallyAdd p run).go s
def execPrefetchStream (p : Fin 4) (stream n : Nat) (feed : Bool) (s : State) : Host.Outcome State Fault Refusal :=
  (cmdPrefetchStream p stream n feed).go s

end Sys2Proof.Machine
end

