-- ==== Sys2Proof/Machine/Tables.lean ====
section
/-!
DEFINITION. Embedding tables (chapter 10): TABLE_DEFINE, TABLE_DROP, ROW_LOOKUP, ROW_ADD, HOT_SET, ROW_FWD and the hot-row
set.
-/

namespace Sys2Proof.Machine

/-! ### Descriptors (Tables 10.8 and 10.9) -/

def tFmt (d : Bytes) : Nat := byteAt d 2 % 16
def tU (d : Bytes) : Bool := nbit (byteAt d 2) 4
def tRanges (d : Bytes) : Nat := byteAt d 3
def tElems (d : Bytes) : Nat := leAt d 4 2
def tEvery (d : Bytes) : Nat := leAt d 6 2
def tTotal (d : Bytes) : Nat := leAt d 8 8
def tBase (d : Bytes) : Nat := leAt d 16 8
def tHotMax (d : Bytes) : Nat := leAt d 24 4
def tHotAddr (d : Bytes) : Nat := leAt d 32 8
def tRowBytes (d : Bytes) : Nat := tElems d * fmtBits (tFmt d) / 8
def tStride (d : Bytes) : Nat := roundUp (tRowBytes d) 64

/-- Rows of range i: up to the next range or the end of the table. -/
def rangeRows (total : Nat) (rs : List RowRange) (i : Nat) : Nat :=
  ((rs[i + 1]?).map (·.first)).getD total - ((rs[i]?).map (·.first)).getD total

/-- The ranges of a TABLE_DEFINE; those homed at the accepting partition take their places in ascending order (R330). -/
def rangesIn (part partition : Nat) (total : Nat) (b : Bytes) (n : Nat) : List RowRange :=
  let raw := (List.range n).map fun i => (⟨leAt b (16 * i) 8, leAt b (16 * i + 8) 3, byteAt b (16 * i + 11), 0⟩ : RowRange)
  (indexed raw).map fun x =>
    let before := ((List.range x.1).filter fun k => (raw[k]?).any fun r => r.part == part && r.partition == partition).map
      (rangeRows total raw)
    { x.2 with place := before.sum }

/-- Rows a table's ranges home at a partition. -/
def rowsHere (part partition total : Nat) (rs : List RowRange) : Nat :=
  ((List.range rs.length).filter fun k => (rs[k]?).any fun r => r.part == part && r.partition == partition).map
    (rangeRows total rs) |>.sum

/-- A table of a partition. -/
def tableOf (s : State) (p : Fin 4) (id : Nat) : Option Table := (psys s p).tables.find? (·.id == id)

/-- A table a tenant's commands may use now (R328, R331). -/
def tableFor (s : State) (p : Fin 4) (tenant id : Nat) : Option Table :=
  (tableOf s p id).filter fun t => t.tenant == tenant && t.opening.isNone && !t.closing

/-- A table changed. -/
def tableMod (p : Fin 4) (id : Nat) (f : Table → Table) : Upd :=
  .part p fun y => { y with tables := y.tables.map fun t => if t.id = id then f t else t }

/-- MEM_HOT.TABLES brought up to date (Table 10.16). -/
def hotTables (p : Fin 4) : Upd :=
  .read fun s => regMod .memHot p 0 fun w => setFld w 4 0 ((psys s p).tables.countP fun t => tEvery t.desc != 0)

/-- The range that holds a row. -/
def rangeOf (t : Table) (row : Nat) : Option RowRange := (t.ranges.filter (·.first ≤ row)).getLast?

/-- The address of a row homed here (R330). -/
def rowAddr (t : Table) (row : Nat) : Nat :=
  match rangeOf t row with
  | some r => tBase t.desc + (r.place + (row - r.first)) * tStride t.desc
  | none => tBase t.desc

/-! ### TABLE_DEFINE and TABLE_DROP -/

/-- The block of a TABLE_DEFINE. -/
def defRanges (s : State) (p : Fin 4) (c : Cmd) : List RowRange :=
  rangesIn (partId s) p.val (tTotal c.params) (c.params.drop 64) (min (tRanges c.params) 64)

/-- The rows and the hot area a definition takes here. -/
def defRows (s : State) (p : Fin 4) (c : Cmd) : Nat × Nat :=
  (tBase c.params, rowsHere (partId s) p.val (tTotal c.params) (defRanges s p c) * tStride c.params)
def defHot (c : Cmd) : Nat × Nat := (tHotAddr c.params, 2 * tHotMax c.params * tStride c.params)

/-- Whether a range lies in memory that a partition owns. -/
def ownedBy (s : State) (p : Fin 4) (x : Nat × Nat) : Bool :=
  x.2 == 0 || (oneRow x.1 x.2 && ownerOf s x.1 == some p && ownerOf s (x.1 + x.2 - 1) == some p)

/-- TABLE_DEFINE (0x0602), refused as R329 says. -/
def specTableDefine : OpSpec :=
  { len := fun _ _ c => 64 + 16 * tRanges c.params, exact := fun _ _ _ => true
    range := fun s p c =>
      let d := c.params
      let rs := defRanges s p c
      firstBad ([((tableOf s p (leAt d 0 2)).isSome, 64),
        (!([8, 9, 0xA, 0xB, 0xC, 0xD, 0xE].contains (tFmt d)) || decide (32 ≤ byteAt d 2) || (tU d && tFmt d != 8 && tFmt d != 0xE), 66),
        (tRanges d == 0 || decide (64 < tRanges d), 67),
        (decide (tRowBytes d < 8) || decide (4096 < tRowBytes d), 68),
        (tEvery d != 0 && regionOf (tBase d) == .cellar, 70),
        (tTotal d == 0 || decide (2 ^ 40 < tTotal d), 72),
        (tBase d % 64 != 0 || !(ownedBy s p (defRows s p c)), 80),
        (if tEvery d = 0 then tHotMax d != 0 else tHotMax d == 0 || decide (65536 < tHotMax d), 88),
        (leAt d 28 4 != 0, 92),
        (tHotAddr d % 64 != 0 || (tEvery d != 0 && !(ownedBy s p (defHot c) && regionOf (tHotAddr d) == .pantry &&
          rangeBound s c.tenant (tHotAddr d) (defHot c).2)), 96),
        (leAt d 40 8 != 0 || leAt d 48 8 != 0 || leAt d 56 8 != 0, 104)] ++
        (indexed rs).flatMap fun x =>
          [(decide (2 ^ 40 ≤ x.2.first) || decide (tTotal d ≤ x.2.first) ||
            (if x.1 = 0 then x.2.first != 0 else decide (x.2.first ≤ ((rs[x.1 - 1]?).map (·.first)).getD 0)), 128 + 16 * x.1),
           (decide (2 ^ 20 ≤ x.2.part), 136 + 16 * x.1), (decide (4 ≤ x.2.partition), 139 + 16 * x.1),
           (leAt d (76 + 16 * x.1) 4 != 0, 140 + 16 * x.1)])
    bound := fun s p c => let r := defRows s p c; r.2 == 0 || rangeBound s c.tenant r.1 r.2
    pool := fun s p c =>
      let hot := (psys s p).tables.countP fun t => tEvery t.desc != 0
      if 1024 ≤ (psys s p).tables.length then some 0x0602 else if tEvery c.params ≠ 0 ∧ 16 ≤ hot then some 0x0603 else none }

/-- TABLE_DEFINE (R328 to R330): the table is defined from the next Bell. -/
def cmdTableDefine (p : Fin 4) (ref : Nat) : Upd :=
  withCmd p ref 0x0602 fun c => .read fun s =>
    if (tableOf s p (par c 0 2)).isSome then postPlain p c stBadParam 64
    else if 1024 ≤ (psys s p).tables.length then postPlain p c stRetry 0x0602
    else if tEvery c.params ≠ 0 ∧ 16 ≤ (psys s p).tables.countP (fun t => tEvery t.desc != 0) then postPlain p c stRetry 0x0603
    else .seq [.part p fun y => { y with tables := y.tables ++
        [{ id := par c 0 2, tenant := c.tenant, desc := c.params.take 64, ranges := defRanges s p c, opening := some (frameNow s + 1),
           closing := false, hot := [], hotNext := none, half0 := [], half1 := [], active := none, copying := none,
           refreshed := none, ready := none }] },
      hotTables p, postReply p c stOk 0 [] 0 (frameNow s + 1)]

/-- The opcodes that use a table, and the offset of the original block in them (R332). -/
def rowOff (c : Cmd) : Nat := if c.opcode = 0x0606 then 16 else 0
def rowOp (c : Cmd) : Nat := if c.opcode = 0x0606 then par c 8 2 else c.opcode

/-- Whether a command uses a table. -/
def usesTable (c : Cmd) (id : Nat) : Bool :=
  [0x0604, 0x0605, 0x0606, 0x0410].contains c.opcode && par c (rowOff c) 2 == id && c.phase != .waiting

/-- Whether a TABLE_DROP finds its table: one of its tenant that is defined; one that is being dropped takes a further drop, as R95
has it for collections (R331). -/
def dropFinds (s : State) (p : Fin 4) (c : Cmd) : Bool :=
  (tableOf s p (par c 0 2)).any fun t => t.tenant == c.tenant && t.opening.isNone

/-- TABLE_DROP (0x0603). -/
def specTableDrop : OpSpec :=
  { len := fun _ _ _ => 8, range := fun _ _ c => firstBad [(par c 2 6 != 0, 66)], bound := dropFinds }

/-- TABLE_DROP (R331): commands admitted from now on do not find the table. -/
def cmdTableDrop (p : Fin 4) (ref : Nat) : Upd :=
  withCmd p ref 0x0603 fun c => .read fun s =>
    if dropFinds s p c then
      .seq [tableMod p (par c 0 2) fun t => { t with closing := true }, cmdMod p ref fun c => { c with phase := .running }]
    else postPlain p c stNotBound 0

/-- TABLE_DROP_DONE (R331): the last command that uses the table has posted. -/
def cmdTableDropDone (p : Fin 4) (id : Nat) : Upd :=
  .read fun s =>
    match tableOf s p id with
    | none => .skip
    | some t =>
      if !t.closing || (psys s p).cmds.any (usesTable · id) then .skip
      else .seq [.part p fun y => { y with tables := y.tables.filter (·.id != id) }, hotTables p,
        .each ((psys s p).cmds.filter fun c => c.opcode == 0x0603 && par c 0 2 == id && c.phase == .running) fun c =>
          postPlain p c stOk 0]

/-- A table at a Bell: its definition comes into force, a filled half becomes active, and at a refresh Bell the hot list
changes (R329, R337, R338). -/
def Table.atBell (n : Nat) (t : Table) : Table :=
  let t := match t.opening with | some b => if b ≤ n then { t with opening := none } else t | none => t
  let t := match t.ready with | some h => { t with active := some h, ready := none } | none => t
  if tEvery t.desc ≠ 0 ∧ n % tEvery t.desc = 0 then { t with hot := t.hotNext.getD t.hot, hotNext := none } else t

/-- The refresh Bell at which a hot list changed in a frame takes effect (R337); 0 for a table that has none. -/
def refreshBell (d : Bytes) (n : Nat) : Nat := if tEvery d = 0 then 0 else (n / tEvery d + 1) * tEvery d

/-- The tables of a partition at a Bell. -/
def tableBell (p : Fin 4) (n : Nat) : Upd := .part p fun y => { y with tables := y.tables.map (Table.atBell n) }

/-! ### Coordination (R332) -/

/-- Bytes of one entry of a ROW_ADD. -/
def addBytes (d : Bytes) : Nat := 8 + roundUp (tRowBytes d) 8

/-- The entries of a row command: row, and the values' bytes of a ROW_ADD. -/
def rowEntries (d : Bytes) (c : Cmd) : List (Nat × Bytes) :=
  let b := c.params.drop (rowOff c)
  if rowOp c = 0x0410 then
    (List.range (min (leAt b 4 4) 1024)).map fun i => (leAt b (16 + addBytes d * i) 8, (b.drop (24 + addBytes d * i)).take (tRowBytes d))
  else (List.range (min (leAt b 4 4) 1024)).map fun i => (leAt b (8 + 8 * i) 8, [])

def rowHead (c : Cmd) : Nat := if rowOp c = 0x0410 then 16 else 8

/-- The length of a row command's block. -/
def rowLen (s : State) (p : Fin 4) (c : Cmd) : Nat :=
  let n := par c (rowOff c + 4) 4
  if rowOp c = 0x0410 then
    match tableFor s p c.tenant (par c (rowOff c) 2) with
    | some t => rowOff c + 16 + n * addBytes t.desc
    | none => max (rowOff c + 16) c.params.length
  else rowOff c + 8 + 8 * n

/-- The packet offset of entry i's row word. -/
def rowWordAt (d : Bytes) (c : Cmd) (i : Nat) : Nat :=
  64 + rowOff c + (if rowOp c = 0x0410 then 16 + addBytes d * i else 8 + 8 * i)

/-- The field in error of a row command (R333, R334, R337). -/
def rowRange (s : State) (p : Fin 4) (c : Cmd) : Option Nat :=
  let o := 64 + rowOff c
  let q := rowOff c
  let t := tableFor s p c.tenant (par c q 2)
  let d := (t.map (·.desc)).getD []
  let es := rowEntries d c
  let add := rowOp c == 0x0410
  firstBad ([(c.opcode == 0x0606 && !([0x0604, 0x0605, 0x0410].contains (par c 8 2)), 72), (c.opcode == 0x0606 && par c 10 6 != 0, 74),
    (add && t.any (fun t => !((tFmt t.desc == 0xD) || (tFmt t.desc == 0xE && !(tU t.desc))) || regionOf (tBase t.desc) == .cellar), o),
    (add && par c (q + 2) 2 != 0, o + 2), (rowOp c == 0x0604 && decide (2 ≤ par c (q + 2) 1), o + 2),
    (rowOp c == 0x0605 && decide (3 ≤ par c (q + 2) 1), o + 2), (!add && par c (q + 3) 1 != 0, o + 3),
    (rowOp c == 0x0604 && decide (1024 < par c (q + 4) 4), o + 4), (add && par c (q + 8) 8 != 0, o + 8)] ++
    (if t.isNone then [] else (indexed es).map fun e =>
      (decide (tTotal d ≤ e.2.1) ||
       (rowOp c == 0x0605 && t.any (fun t => (rangeOf t e.2.1).any fun r => !(r.part == partId s && r.partition == p.val))),
       rowWordAt d c e.1)) ++
    (match t with
     | some t => if rowOp c = 0x0605 then
         let rows := es.map (·.1)
         let now := t.hotNext.getD t.hot
         let next := if par c (q + 2) 1 = 0 then rows else if par c (q + 2) 1 = 1 then now ++ rows else now.filter (!rows.contains ·)
         [(decide (tHotMax t.desc < next.length), o + 4), (rows.eraseDups.length != rows.length || next.eraseDups.length != next.length, o + 8)]
       else []
     | none => []))

/-- The body of a share of n entries. -/
def rowBody (d : Bytes) (c : Cmd) (n : Nat) : Nat :=
  if rowOp c = 0x0604 then n * roundUp (tRowBytes d) 8 else if rowOp c = 0x0410 then roundUp (ceilDiv n 8) 8 else 0

/-- A row command's pieces: one per home, in order of first entry. -/
def rowPieces (s : State) (p : Fin 4) (c : Cmd) (t : Table) : List Piece :=
  let homes := (rowEntries t.desc c).map fun e => ((rangeOf t e.1).map fun r => 4 * r.part + r.partition).getD (4 * partId s + p.val)
  homes.eraseDups.map fun h =>
    let es := (indexed homes).filterMap fun x => if x.2 = h then some x.1 else none
    mkPiece s p h (h / 4) (h % 4) es (rowBody t.desc c es.length)

/-- Step 9 of a row command. -/
def rowPool (s : State) (p : Fin 4) (c : Cmd) : Option Nat :=
  match tableFor s p c.tenant (par c (rowOff c) 2) with
  | none => none
  | some t => if (layReplies (rowPieces s p c t) (recordsUsed (psys s p)) none).isNone then some 0x0302 else none

/-- What ROW_LOOKUP, ROW_ADD, HOT_SET and ROW_FWD share. -/
def specRows : OpSpec :=
  { len := rowLen, exact := fun _ _ _ => true, range := rowRange, pool := rowPool
    bound := fun s p c => (tableFor s p c.tenant (par c (rowOff c) 2)).isSome
    body := fun s p c => match tableFor s p c.tenant (par c (rowOff c) 2) with
      | some t => rowBody t.desc c (par c (rowOff c + 4) 4) | none => 0
    zero := fun _ _ c => if par c (rowOff c + 4) 4 = 0 then some [] else none }
def specRowLookup : OpSpec := specRows
def specRowAdd : OpSpec := specRows
def specHotSet : OpSpec := specRows
def specRowFwd : OpSpec := { specRows with permit := stewardOnly }

/-- A share's block: the original block restricted to its entries (R332). -/
def rowBlock (d : Bytes) (c : Cmd) (x : Piece) : Bytes :=
  let b := c.params.drop (rowOff c)
  let w := if rowOp c = 0x0410 then addBytes d else 8
  b.take 4 ++ natLE 4 x.entries.length ++ (b.drop 8).take (rowHead c - 8) ++ x.entries.flatMap fun i => (b.drop (rowHead c + w * i)).take w

/-- The shares of a row command sent. -/
def rowSend (p : Fin 4) (ref : Nat) : Upd :=
  .read fun s =>
    match cmdOf s p ref with
    | none => .skip
    | some c => match tableOf s p (par c (rowOff c) 2) with
      | none => .skip
      | some t => .each (c.pieces.filter fun x => !x.loc && !x.sent && x.done.isNone) fun x =>
          sendShare p ref x 0x0606 0 (rowBlock t.desc c x) (rowBody t.desc c x.entries.length) (natLE 2 (rowOp c) ++ zeros 6)

/-- A row command accepted: records taken, shares sent unless FENCE holds them. -/
def rowAccept (p : Fin 4) (ref : Nat) : Upd :=
  .read fun s =>
    match cmdOf s p ref with
    | none => .skip
    | some c => match tableFor s p c.tenant (par c (rowOff c) 2) with
      | none => .skip
      | some t =>
        let ps := rowPieces s p c t
        .seq [cmdMod p ref fun c => { c with pieces := (layReplies ps (recordsUsed (psys s p)) none).getD ps },
          .when (!c.hasFence) (rowSend p ref)]

/-- Fenced shares sent at admission (R122). -/
def rowAdmit (p : Fin 4) (ref : Nat) : Upd :=
  .read fun s => match cmdOf s p ref with | some c => .when c.hasFence (rowSend p ref) | none => .skip

/-- The bit of a bitmap. -/
def mapBit (b : Bytes) (i : Nat) : Bool := nbit (byteAt b (i / 8)) (i % 8)

/-- A bitmap of n entries, padded to 8 bytes (R336). -/
def bitmap (n : Nat) (t : Nat → Bool) : Bytes :=
  padTo (roundUp (ceilDiv n 8) 8) ((List.range (ceilDiv n 8)).map fun j =>
    BitVec.ofNat 8 (((List.range 8).map fun i => if 8 * j + i < n ∧ t (8 * j + i) then 2 ^ i else 0).sum))

/-- An entry's piece and its place in it. -/
def entryPiece (c : Cmd) (i : Nat) : Option (Piece × Nat) :=
  (c.pieces.find? fun x => x.entries.contains i).map fun x => (x, x.entries.findIdx (· == i))

/-- A row command ended when its last piece is done: the first status of Table 2.14 (R124), the rows in entry order, or the
refusal bitmap (R333, R336). -/
def rowCheck (p : Fin 4) (ref : Nat) : Upd :=
  .read fun s =>
    match cmdOf s p ref with
    | none => .skip
    | some c =>
      if !(allDone c) then .skip
      else
        let d := ((tableOf s p (par c (rowOff c) 2)).map (·.desc)).getD []
        let n := min (par c (rowOff c + 4) 4) 1024
        let bodyOf (i : Nat) : Option (Bytes × Nat) := (entryPiece c i).bind fun x => x.1.done.map fun y => (y.body, x.2)
        let refused (i : Nat) : Bool :=
          ((entryPiece c i).any fun x => x.1.done.any fun y => y.status == stRetry) || ((bodyOf i).any fun y => mapBit y.1 y.2)
        let bad := if rowOp c = 0x0410 then
            c.pieces.filter fun x => x.done.any fun y => statusFails y.status && y.status != stRetry else c.pieces
        match worstPiece { c with pieces := bad } with
        | some x =>
          if (x.done.any fun y => y.status == stPoisoned) ∧ rowOp c = 0x0410 then
            let first := (bad.filterMap fun x => x.done.bind fun y => if y.status = stPoisoned then x.entries[y.detail]? else none).foldl min n
            postReply p c stPoisoned first []
          else postPieceStatus p c x 1
        | none =>
          if rowOp c = 0x0604 then
            let w := roundUp (tRowBytes d) 8
            postReply p c stOk 0 ((List.range n).flatMap fun i => match bodyOf i with
              | some y => (y.1.drop (w * y.2)).take w | none => zeros w)
          else if rowOp c = 0x0410 then
            let k := (List.range n).countP refused
            if k = n then postReply p c stRetry 0 (bitmap n refused) else postReply p c stOk k (bitmap n refused)
          else postReply p c stOk 0 [] 0 (if rowOp c = 0x0605 then refreshBell d (frameNow s) else 0)

/-! ### At the home -/

/-- The half of the hot area that holds a row, with its slot, when a lookup may use it (R333). -/
def hotSlot (t : Table) (row : Nat) : Option (Nat × Nat) :=
  match t.active with
  | none => none
  | some h =>
    let l := if h = 0 then t.half0 else t.half1
    if l.contains row then some (h, l.findIdx (· == row)) else none

/-- The address of a slot of a half. -/
def hotAddr (t : Table) (h slot : Nat) : Nat := tHotAddr t.desc + (h * tHotMax t.desc + slot) * tStride t.desc

/-- Who gathers rows: the stack engine that holds a row of the Loft for a batch below the threshold in force at admission; else the
Mills' prefetchers (R38 to R40, Tables 8.12 and 11.3). -/
def gatherAgent (s : State) (thresh batch addr : Nat) : Agent := if onMills s thresh batch addr then .mill else .stackEngine

/-- A ROW_LOOKUP's rows read at their home: done, or why not. -/
def lookupHere (p : Fin 4) (c : Cmd) (t : Table) (x : Piece) : Upd :=
  .read fun s =>
    let fresh := nbit (par c (rowOff c + 2) 1) 0
    let rows := x.entries.map fun i => (((rowEntries t.desc c)[i]?).map (·.1)).getD 0
    let at' := rows.map fun r => match (if fresh then none else hotSlot t r) with
      | some h => (hotAddr t h.1 h.2, true)
      | none => (rowAddr t r, false)
    let n := tRowBytes t.desc
    match (at'.map fun a => (a.1, n)).findSome? (rangeFail s p c.tenant false) with
    | some (st, a) =>
      .seq [accessErr p (sourceCode (gatherAgent s c.thresh (par c (rowOff c + 4) 4) a)) st a,
        .when (st == stPoisoned) (fault p (faultOf s p c { faultBase 0x0C 0 with addr := a })),
        pieceDone p c.ref x.unit ⟨st, 0, 0, []⟩]
    | none =>
      .seq [.each at' (fun a => chargeRead s c.tenant a.1 n), regCount .memHot p 0 63 32 (at'.countP (·.2)),
        pieceDone p c.ref x.unit ⟨stOk, 0, 0, at'.flatMap fun a => padTo (roundUp n 8) (memBytes s a.1 n)⟩]

/-- A migration that has made a row read-only here (Table 4.13). -/
def rowMig (s : State) (p : Fin 4) (table row : Nat) : Option Migration :=
  (psys s p).migs.find? fun m => m.kind == 1 && m.id == table && decide (m.first ≤ row) && decide (row < m.first + m.rows) &&
    m.checked && !m.cutDone

/-- The values of one row after adds in a free order, and their flags (R334, R335). -/
def rowSum (fp mills : Bool) (key : Nat) (old : List Nat) (adds : List (List Nat)) : List Nat × FlagN :=
  let cells := (indexed old).map fun x => addElem fp mills (key + x.1 * 2 ^ 20) x.2 (adds.map (·.getD x.1 0))
  (cells.map (·.1), (cells.map (·.2)).foldl FlagN.add .none)

/-- The adds of several entries of a command to the rows homed here, applied at the memory; an entry on a poisoned line is not applied.
With a batch at or above the threshold in force at admission, or a row outside the stacks, the Mills first sum the entries of a row
(R38 to R40, R335). -/
def applyAdds (p : Fin 4) (tenant : Nat) (t : Table) (es : List (Nat × Bytes)) (thresh batch : Nat) : Upd :=
  .read fun s =>
    let n := tRowBytes t.desc
    let mills := decide (thresh ≤ batch) || es.any fun e => onMills s thresh batch (rowAddr t e.1)
    let rows := (es.map (·.1)).eraseDups.filter fun r => (poisonIn s (rowAddr t r) n).isNone
    .seq [.sys fun y => { y with free := y.free + 1 },
      .each (indexed rows) fun r =>
        let a := rowAddr t r.2
        let words (b : Bytes) : List Nat := (List.range (tElems t.desc)).map fun i => leAt b (4 * i) 4
        let (vals, f) := rowSum (tFmt t.desc == 0xD) mills (opKey s.sys.free + r.1 * 2 ^ 44) (words (memBytes s a n))
          ((es.filter (·.1 == r.2)).map fun e => words e.2)
        .seq [memPut a (vals.flatMap (natLE 4)), chargeWrite s tenant a n, raiseFlags p f,
          .when (regionOf (unalias s a) == .loft) (stackLines (stackOf (unalias s a)) (units64 a n))]]

/-- A ROW_ADD's piece ended when none of its entries is parked (R161, R336): `area` holds 1 for a refused entry. -/
def addDone (p : Fin 4) (ref unit : Nat) (poisoned : Option Nat) : Upd :=
  .read fun s =>
    match cmdOf s p ref with
    | none => .skip
    | some c => match c.pieces.find? (·.unit == unit) with
      | none => .skip
      | some x =>
        if (psys s p).migs.any fun m => m.kind == 1 && !m.cutDone && m.parked.any (·.ref == ref) then .skip
        else
          let n := x.entries.length
          let refused (i : Nat) : Bool := (Mem.read x.area i).toNat == 1
          .seq [match poisoned with
            | some i => pieceDone p ref unit ⟨stPoisoned, i, 0, []⟩
            | none => pieceDone p ref unit ⟨stOk, (List.range n).countP refused, 0, bitmap n refused⟩,
            rowCheck p ref]

/-- The Daybook record of a ROW_ADD share (R524, Table 18.8): its entries' results with the row in place of the node. -/
def rowRecord (s : State) (p : Fin 4) (c : Cmd) (t : Table) (es : List (Nat × Bytes)) : DayRec :=
  DayRec.mk 0 (frameNow s) 0x0410 c.tenant t.id 0 c.seq (if c.steward then c.srcPart else partId s) (if c.steward then c.srcPartition else p.val) 0
    (es.flatMap fun e => resultBytes stOk 0 e.1 0 (frameNow s)) (es.flatMap fun e => natLE 8 e.1 ++ padTo (roundUp e.2.length 8) e.2)
    es.length false none false false

/-- A ROW_ADD's entries at their home: parked while the rows are read-only, refused where the buffer is full (R160),
else applied. -/
def addHere (p : Fin 4) (c : Cmd) (t : Table) (x : Piece) : Upd :=
  .read fun s =>
    let all := rowEntries t.desc c
    let es := (indexed x.entries).map fun i => (i.1, (all[i.2]?).getD (0, []))
    let n := tRowBytes t.desc
    match (es.map fun e => (rowAddr t e.2.1, n)).findSome? (rangeFail s p c.tenant true) with
    | some (st, a) => .seq [accessErr p (sourceCode .steward) st a, pieceDone p c.ref x.unit ⟨st, 0, 0, []⟩, rowCheck p c.ref]
    | none =>
      let held := es.filter fun e => (rowMig s p t.id e.2.1).isSome
      let free := es.filter fun e => (rowMig s p t.id e.2.1).isNone
      let full := !(dayFits s p (dayLen (rowRecord s p c t (free.map (·.2)))))
      let late := if full then free else []
      let free := if full then [] else free
      let poisoned := (free.filter fun e => (poisonIn s (rowAddr t e.2.1) n).isSome).head?
      .seq [
        .each late fun e => pieceMod p c.ref x.unit fun y => { y with area := Mem.write y.area e.1 1 },
        .each held fun e => .read fun s => match rowMig s p t.id e.2.1 with
          | none => .skip
          | some m =>
            let bytes := 32 + e.2.2.length
            let put (f : Migration → Migration) : Upd :=
              .part p fun y => { y with migs := y.migs.map fun z => if z.ref = m.ref then f z else z }
            if m.parked.length < 4096 ∧ m.parkedBytes + bytes ≤ 1048576 then
              put fun z => { z with parkedBytes := z.parkedBytes + bytes,
                                    parked := z.parked ++ [⟨p.val, c.ref, e.1, 0x0410, e.2.1, 0, 0, 0, e.2.2, [], []⟩] }
            else .seq [put fun z => { z with overflow := z.overflow + 1 },
              pieceMod p c.ref x.unit fun y => { y with area := Mem.write y.area e.1 1 },
              fault p (faultOf s p c { faultBase 0x08 0 with detail := natLE 2 ((x.entries[e.1]?).getD e.1) ++ zeros 6 ++ natLE 8 e.2.1 })],
        applyAdds p c.tenant t (free.map (·.2)) c.thresh (par c (rowOff c + 4) 4),
        .when (free != []) (dayAppend p (rowRecord s p c t (free.map (·.2)))),
        (match poisoned with
         | some e => let l := (poisonIn s (rowAddr t e.2.1) n).getD 0
           .seq [memErr .poison p (sourceCode .stackEngine) l, fault p (faultOf s p c { faultBase 0x0C 0 with addr := l })]
         | none => .skip),
        .part p fun y => { y with migs := y.migs.map fun m =>
          if m.kind = 1 ∧ m.id = t.id ∧ !m.checked then
            { m with unacked := m.unacked ++ ((free.filter fun e => decide (m.first ≤ e.2.1) && decide (e.2.1 < m.first + m.rows)).map
                fun e => (frameNow s, p.val, c.ref, e.1)) } else m },
        addDone p c.ref x.unit (poisoned.map (·.1))]

/-- A HOT_SET at the home (R337). -/
def hotHere (p : Fin 4) (c : Cmd) (t : Table) (x : Piece) : Upd :=
  let rows := (rowEntries t.desc c).map (·.1)
  let now := t.hotNext.getD t.hot
  let mode := par c (rowOff c + 2) 1
  let next := if mode = 0 then rows else if mode = 1 then now ++ rows else now.filter (!rows.contains ·)
  .seq [tableMod p t.id fun t => { t with hotNext := some next }, pieceDone p c.ref x.unit ⟨stOk, 0, 0, []⟩]

/-- The part of a row command that its accepting partition performs. -/
def rowRun (p : Fin 4) (c : Cmd) (here : Cmd → Table → Piece → Upd) : Upd :=
  .read fun s =>
    match tableOf s p (par c (rowOff c) 2) with
    | none => postPlain p c stNotBound 0
    | some t =>
      let rows := (c.pieces.filter (·.loc)).flatMap fun x => x.entries.map fun i => (((rowEntries t.desc c)[i]?).map (·.1)).getD 0
      cohGate (if rowOp c = 0x0605 then [] else rows.map fun r => (rowAddr t r, tRowBytes t.desc, rowOp c == 0x0410)) <|
      .seq [cmdMod p c.ref fun c => { c with phase := .running },
        .each (c.pieces.filter (·.loc)) (here c t), rowCheck p c.ref]

/-- ROW_LOOKUP (R333). -/
def cmdRowLookup (p : Fin 4) (ref : Nat) : Upd := withCmd p ref 0x0604 fun c => rowRun p c (lookupHere p)

/-- ROW_ADD (R334 to R336). -/
def cmdRowAdd (p : Fin 4) (ref : Nat) : Upd := withCmd p ref 0x0410 fun c => rowRun p c (addHere p)

/-- HOT_SET (R337). -/
def cmdHotSet (p : Fin 4) (ref : Nat) : Upd := withCmd p ref 0x0605 fun c => rowRun p c (hotHere p)

/-- ROW_FWD (R332): the forwarded command on the rows homed here; rows that have moved on are forwarded in their turn. -/
def cmdRowFwd (p : Fin 4) (ref : Nat) : Upd :=
  withCmd p ref 0x0606 fun c => rowRun p c fun c t x =>
    if rowOp c = 0x0604 then lookupHere p c t x else if rowOp c = 0x0410 then addHere p c t x else hotHere p c t x

/-! ### The hot-row set (R338, R339) -/

/-- Rows of a hot list copied into a half, slot by slot; a poisoned line stays poisoned in the copy. -/
def hotCopy (p : Fin 4) (t : Table) (half : Nat) (rows : List (Nat × Nat)) : Upd :=
  .each rows fun x => .read fun s =>
    let src := rowAddr t x.2
    let dst := hotAddr t half x.1
    let n := tStride t.desc
    if (access s p t.tenant src n false) = .ok ∧ (access s p t.tenant dst n true) = .ok then
      .seq [memStore dst (memBytes s src n),
        .each ((linesOf 64 (unalias s src) n).filter (s.sys.poison.contains ·)) (fun l => poisonLine (unalias s dst + (l - unalias s src)))]
    else memErr .unmapped p (sourceCode .steward) src

/-- HOT_REFRESH (R338): at a refresh Bell the copy of the hot list into the inactive half begins, or the Bell is skipped
because a copy runs; `done` ends the copy. Each row is copied at the one or the other, which is free (R339). -/
def cmdHotRefresh (p : Fin 4) (id : Nat) (done : Bool) : Upd :=
  .read fun s =>
    match tableOf s p id with
    | none => .skip
    | some t =>
      let n := frameNow s
      if done then
        match t.copying with
        | none => .skip
        | some (half, key) =>
          let rows := if half = 0 then t.half0 else t.half1
          .seq [hotCopy p t half ((indexed rows).filter fun x => Config.pick (key + x.1) 2 % 2 != 0),
            tableMod p id fun t => { t with copying := none, ready := some half }]
      else if tEvery t.desc = 0 ∨ n % tEvery t.desc ≠ 0 ∨ t.refreshed = some n ∨ t.opening.isSome then .skip
      else if t.copying.isSome then
        .seq [tableMod p id fun t => { t with refreshed := some n }, regCount .memHot p 0 31 16 1]
      else
        let half := match t.active with | some h => 1 - h | none => 0
        let key := opKey s.sys.free
        .seq [.sys fun y => { y with free := y.free + 1 },
          hotCopy p t half ((indexed t.hot).filter fun x => Config.pick (key + x.1) 2 % 2 == 0),
          tableMod p id fun t => { t with refreshed := some n, copying := some (half, key),
                                          half0 := if half = 0 then t.hot else t.half0, half1 := if half = 0 then t.half1 else t.hot }]

def execTableDefine (p : Fin 4) (ref : Nat) (s : State) : Host.Outcome State Fault Refusal := (cmdTableDefine p ref).go s
def execTableDrop (p : Fin 4) (ref : Nat) (s : State) : Host.Outcome State Fault Refusal := (cmdTableDrop p ref).go s
def execTableDropDone (p : Fin 4) (table : Nat) (s : State) : Host.Outcome State Fault Refusal := (cmdTableDropDone p table).go s
def execRowLookup (p : Fin 4) (ref : Nat) (s : State) : Host.Outcome State Fault Refusal := (cmdRowLookup p ref).go s
def execHotSet (p : Fin 4) (ref : Nat) (s : State) : Host.Outcome State Fault Refusal := (cmdHotSet p ref).go s
def execRowFwd (p : Fin 4) (ref : Nat) (s : State) : Host.Outcome State Fault Refusal := (cmdRowFwd p ref).go s
def execRowAdd (p : Fin 4) (ref : Nat) (s : State) : Host.Outcome State Fault Refusal := (cmdRowAdd p ref).go s
def execHotRefresh (p : Fin 4) (table : Nat) (done : Bool) (s : State) : Host.Outcome State Fault Refusal :=
  (cmdHotRefresh p table done).go s

end Sys2Proof.Machine
end

