-- ==== Sys2Proof/Machine/UpdateRun.lean ====
section
/-!
DEFINITION. The commands INSERT, DELETE, REPLACE, UPDATE_SHARD, SHARE_COMMIT, COMMIT_READ and NODE_READ (chapter 4).
-/

namespace Sys2Proof.Machine

/-- The shares of a command homed here that meet a read-only unit parked, the others staged: DELETE and REPLACE entries in
order, INSERT entries by their walks. -/
def updRun (p : Fin 4) (c : Cmd) : Upd :=
  .seq [
    .read fun s => .each ((psys s p).shares.filter fun x => x.ref == c.ref && x.entries.any (!·.ready)) fun x =>
      match (migOf s p x.coll x.shard).filter parksNow with
      | some m => parkShares p m fun y => y.ref == c.ref
      | none => if x.opcode = 0x0401 then .skip
          else .each (List.range x.entries.length) fun i => targetStage p c.ref x.coll x.shard i,
    startWalks p c.ref, nowRunning p c.ref, updCheck p c.ref]

/-- INSERT (R137). -/
def cmdInsert (p : Fin 4) (ref : Nat) : Upd := withCmd p ref 0x0401 (updRun p)

/-- DELETE (R140). -/
def cmdDelete (p : Fin 4) (ref : Nat) : Upd := withCmd p ref 0x0402 (updRun p)

/-- REPLACE (R148). -/
def cmdReplace (p : Fin 4) (ref : Nat) : Upd := withCmd p ref 0x0403 (updRun p)

/-- UPDATE_SHARD (R131). -/
def cmdUpdateShard (p : Fin 4) (ref : Nat) : Upd := withCmd p ref 0x0404 (updRun p)

/-- SHARE_COMMIT (R134). -/
def cmdShareCommit (p : Fin 4) (ref shard : Nat) : Upd := shareCommit p ref shard

/-! ### COMMIT_READ (R165) -/

/-- The journal's entry for a command of a ring. -/
def journalOf (s : State) (p : Fin 4) (ring seq : Nat) : Option JournalEntry :=
  (psys s p).journal.find? fun j => j.ring == ring && j.seq == seq

/-- COMMIT_READ (0x040B): the body is the results kept. -/
def specCommitRead : OpSpec :=
  { len := fun _ _ _ => 8,
    body := fun s p c => match journalOf s p c.ring (par c 0 8) with | some j => j.results.length | none => 0 }

/-- COMMIT_READ (R165). -/
def cmdCommitRead (p : Fin 4) (ref : Nat) : Upd :=
  withCmd p ref 0x040B fun c => .read fun s =>
    match journalOf s p c.ring (par c 0 8) with
    | some j => postReply p c stOk 1 j.results
    | none => postReply p c stOk 0 []

/-! ### NODE_READ (R156) -/

/-- The code of a shelf state (Table 4.8). -/
def shelfCode : ShelfState → Nat
  | .none => 0 | .building => 1 | .replaying => 2 | .mirrored => 3 | .retiring => 4 | .aborted => 5

/-- NODE_READ (0x0409): reserved bits, and a target word whose shard is not held here or whose node is not of it, get BAD_PARAM; for the
latter two the spec names no status (DESIGN CHOICE, log entry 111). -/
def specNodeRead : OpSpec :=
  { len := fun _ _ _ => 16,
    range := fun s p c => firstBad [(par c 2 6 != 0, 66), (par c 8 8 / 2 ^ 60 != 0, 72),
      ((tenantDesc s c 0).isSome && (match shardOf s p (par c 0 2) (wordShard (par c 8 8)) with
        | some h => !(inShard h.cur (wordNode (par c 8 8))) | none => true), 72)],
    bound := fun s _ c => (tenantDesc s c 0).isSome, body := fun _ _ _ => 48 }

/-- NODE_READ (Table 4.8): tag, shelf and header as visible at the moment it runs. -/
def cmdNodeRead (p : Fin 4) (ref : Nat) : Upd :=
  withCmd p ref 0x0409 fun c => .read fun s =>
    match shardOf s p (par c 0 2) (wordShard (par c 8 8)) with
    | none => postPlain p c stBadParam 72
    | some h =>
      let g := graphOf s h h.shelf
      let u := wordNode (par c 8 8)
      let na := nodeAddr g.rcd g.deg g.codeBytes u
      match (poisonIn s na 32).orElse fun _ => poisonIn s (tagAddr g.rcd g.codeBytes u) 2 with
      | some l => .seq [memErr .poison p (sourceCode .steward) l,
          fault p (faultOf s p c { faultBase 0x0C 0 with addr := l }), postReply p c stPoisoned 0 []]
      | none =>
        let hd := memBytes s na 32
        .seq [chargeRead s c.tenant na 32,
          postReply p c stOk 0 (memBytes s (tagAddr g.rcd g.codeBytes u) 2 ++ natLE 1 h.shelf ++
            natLE 1 (shelfCode h.shelfState) ++ zeros 4 ++ hd ++ natLE 6 (frameNow s) ++ zeros 2)]

def execInsert (p : Fin 4) (ref : Nat) (s : State) : Host.Outcome State Fault Refusal := (cmdInsert p ref).go s
def execDelete (p : Fin 4) (ref : Nat) (s : State) : Host.Outcome State Fault Refusal := (cmdDelete p ref).go s
def execReplace (p : Fin 4) (ref : Nat) (s : State) : Host.Outcome State Fault Refusal := (cmdReplace p ref).go s
def execUpdateShard (p : Fin 4) (ref : Nat) (s : State) : Host.Outcome State Fault Refusal := (cmdUpdateShard p ref).go s
def execShareCommit (p : Fin 4) (ref shard : Nat) (s : State) : Host.Outcome State Fault Refusal := (cmdShareCommit p ref shard).go s
def execCommitRead (p : Fin 4) (ref : Nat) (s : State) : Host.Outcome State Fault Refusal := (cmdCommitRead p ref).go s
def execNodeRead (p : Fin 4) (ref : Nat) (s : State) : Host.Outcome State Fault Refusal := (cmdNodeRead p ref).go s

end Sys2Proof.Machine
end

