-- ==== Sys2Proof/Machine/Migrate.lean ====
section
/-!
DEFINITION. MIGRATE and REJOIN (Table 4.13, R159 to R163, R340, R531, R532): the copy, the parked updates, the cut-over and
the release of a shard or of a run of rows. What goes to a new home on another part beside map packets has no format in the
spec; the event MIGRATE_CHECK says whether that home is ready.
-/

namespace Sys2Proof.Machine

/-! ### The command's fields -/

/-- A migration as the command's block gives it. -/
def migFrom (c : Cmd) : Migration :=
  let rj := c.opcode == 0x0908
  Migration.mk c.ref (if rj then 0 else par c 0 1) (if rj then par c 0 2 else par c 2 2) (if rj then par c 2 2 else par c 4 2)
    (if rj then 0 else par c 8 8) (if rj then 0 else par c 16 8) (if rj then par c 8 3 else par c 24 3)
    (if rj then par c 4 1 else par c 27 1) (if rj then par c 16 6 else par c 28 6) 0 rj false false [] 0 0 []

/-- Whether every row of a run is homed at a partition. -/
def rowsHome (s : State) (p : Fin 4) (t : Table) (first rows : Nat) : Bool :=
  decide (first + rows ≤ tTotal t.desc) &&
  (match rangeOf t first with
   | some r => r.part == partId s && r.partition == p.val &&
      decide (first + rows ≤ (((t.ranges.filter (first < ·.first)).head?).map (·.first)).getD (tTotal t.desc))
   | none => false)

/-- The unit of a migration is here and stays as it was. -/
def migUnit (s : State) (p : Fin 4) (m : Migration) : Bool :=
  if m.kind = 0 then holdsShard s p m.id m.shard
  else match tableOf s p m.id with
    | some t => t.opening.isNone && !t.closing && (m.rows == 0 || rowsHome s p t m.first m.rows)
    | none => false

/-- Whether the unit is being moved already. -/
def migBusy (s : State) (p : Fin 4) (m : Migration) : Bool :=
  (psys s p).migs.any fun x => x.kind == m.kind && x.id == m.id &&
    (if m.kind = 0 then x.shard == m.shard else overlap x.first x.rows m.first m.rows)

/-- MIGRATE (0x0408), refused as R159 says. -/
def specMigrate : OpSpec :=
  { permit := fmOnly, len := fun _ _ _ => 34
    range := fun s p c =>
      let m := migFrom c
      firstBad [(decide (1 < m.kind), 64), (par c 1 1 != 0, 65), (migBusy s p m, 66), (par c 6 2 != 0, 70),
        (decide (2 ^ 20 ≤ m.newPart), 88), (decide (4 ≤ m.newPartition), 91), (decide (m.cut < c.accFrame + 16), 92)]
    bound := fun s p c => migUnit s p (migFrom c)
    body := fun _ _ _ => 16
    zero := fun _ _ c => if (migFrom c).kind = 1 ∧ (migFrom c).rows = 0 then some [] else none }

/-- Whether the new home of a migration is another partition of the part, and has what it needs (R532). -/
def homeHere (s : State) (m : Migration) : Bool := m.newPart == partId s
def homeReady (s : State) (m : Migration) : Bool :=
  !(homeHere s m) || ((!m.rejoin || s.sys.pwr.tested) && if m.kind = 0 then holdsShard s (toP m.newPartition) m.id m.shard else (tableOf s (toP m.newPartition) m.id).isSome)

/-- REJOIN (0x0908), refused as R532 says. -/
def specRejoin : OpSpec :=
  { permit := fmOnly, len := fun _ _ _ => 24
    range := fun s p c =>
      let m := migFrom c
      let w := (mapOf s m.id m.shard).getD 0
      let acting := (shardOf s p m.id m.shard).isSome && mDown w && mPartnerValid w && mPartnerPart w == partId s && mPartnerPartition w == p.val
      firstBad [(migBusy s p m, 64), (!acting || !(homeReady s m), 66), (decide (4 ≤ m.newPartition), 68), (par c 5 3 != 0, 69),
        (decide (2 ^ 20 ≤ m.newPart), 72), (par c 11 5 != 0, 75), (decide (m.cut < c.accFrame + 16), 80), (par c 22 2 != 0, 86)]
    body := fun _ _ _ => 16 }

/-! ### The map entries of a migration -/

def migTenant (s : State) (p : Fin 4) (m : Migration) : Nat :=
  if m.kind = 0 then ((collOf s m.id).map (·.tenant)).getD 0 else ((tableOf s p m.id).map (·.tenant)).getD 0

/-- The entries: the shard's home, or the rows that follow the run with the old home and then the run with the new one. -/
def migEntries (s : State) (p : Fin 4) (m : Migration) : List MapEntry :=
  let tn := migTenant s p m
  if m.kind = 0 then [⟨2, tn, m.id + m.shard * 65536, m.newPart + m.newPartition * 2 ^ 20⟩]
  else
    let row (first part q : Nat) : MapEntry := ⟨3, tn, m.id, first + part * 2 ^ 40 + q * 2 ^ 60⟩
    let tail : Bool := match tableOf s p m.id with
      | some t => decide (m.first + m.rows < tTotal t.desc) && !(t.ranges.any (·.first == m.first + m.rows))
      | none => false
    (if tail then [row (m.first + m.rows) (partId s) p.val] else []) ++ [row m.first m.newPart m.newPartition]

def migMod (p : Fin 4) (ref : Nat) (f : Migration → Migration) : Upd :=
  .part p fun y => { y with migs := y.migs.map fun m => if m.ref = ref then f m else m }
def migDrop (p : Fin 4) (ref : Nat) : Upd := .part p fun y => { y with migs := y.migs.filter (·.ref != ref) }
def migAt (s : State) (p : Fin 4) (ref : Nat) : Option Migration := (psys s p).migs.find? (·.ref == ref)
def migKeep (s : State) (p : Fin 4) (ref : Nat) : Option Keeping :=
  s.sys.bind.keeping.find? fun k => k.driven && k.cmd == some (p, ref)

/-- MIGRATE and REJOIN begin: the copy streams, every committed share is forwarded, the map change is prepared. -/
def migStart (p : Fin 4) (c : Cmd) : Upd :=
  .read fun s =>
    let m := migFrom c
    .seq [.part p fun y => { y with migs := y.migs ++ [m] }, mapStart (migEntries s p m) true (some (p, c.ref)), nowRunning p c.ref]

def cmdMigrate (p : Fin 4) (ref : Nat) : Upd := withCmd p ref 0x0408 (migStart p)
def cmdRejoin (p : Fin 4) (ref : Nat) : Upd := withCmd p ref 0x0908 (migStart p)

/-! ### The copy (Bell C − 2) -/

/-- One slot of a shard copied as it is to the same slot of another record. -/
def moveSlot (g t : Graph) (refineBytes k : Nat) : Upd :=
  .read fun s =>
    let u := rBase g.rcd + k
    let put (dst src n : Nat) : Upd :=
      if regionOf dst = .cellar then .cellarCopy dst (fun s => if regionOf src = .cellar then s.cellar else s.mem) src n
      else memStore dst (memBytes s src n)
    .seq [put (tagAddr t.rcd t.codeBytes u) (tagAddr g.rcd g.codeBytes u) 2,
      .when (rPlacement g.rcd != 1 && rPlacement t.rcd != 1) (put (codeAddr t.rcd t.codeBytes u) (codeAddr g.rcd g.codeBytes u) g.codeBytes),
      .when (refineBytes != 0) (put (refineAddr t.rcd refineBytes u) (refineAddr g.rcd refineBytes u) refineBytes),
      put (nodeAddr t.rcd t.deg t.codeBytes u) (nodeAddr g.rcd g.deg g.codeBytes u)
        (min (nodeLen g.rcd g.deg g.codeBytes) (nodeLen t.rcd t.deg t.codeBytes))]

/-- Committed writes of a shard that are not yet applied, forwarded to its new home as they are (Table 4.13). -/
def stageAlong (p q : Fin 4) (h k : Shard) : Upd :=
  .read fun s =>
    let l := (psys s p).stage.filter fun z => z.coll == h.coll && z.shard == h.idx && z.commit.isSome && z.shelf % 2 == h.shelf
    .part q fun y => { y with stage := y.stage ++ l.map fun z => { z with shelf := z.shelf / 2 * 2 + k.shelf } }

/-- The unit copied to a new home on the part as visible at Bell C − 2, with what is committed and not yet visible: a shard's slots and
free list into that partition's record; a run's rows after the rows the partition has. -/
def migCopy (p : Fin 4) (m : Migration) : Upd :=
  .read fun s =>
    let q := toP m.newPartition
    if !(homeHere s m) then .skip
    else if m.kind = 0 then
      match shardOf s p m.id m.shard, shardOf s q m.id m.shard, collOf s m.id with
      | some h, some k, some x =>
        let d := x.desc
        let rb := if dRefineFmt d = 0 then 0 else refineRecBytes (dRefineFmt d) (dGroup d) (dDim d)
        .seq [.each (List.range (min (rCap h.cur) (rCap k.cur))) (moveSlot (graphOf s h h.shelf) (graphOf s k k.shelf) rb),
          shardMod q m.id m.shard (fun k => { k with free := h.free, tombs := h.tombs }), stageAlong p q h k]
      | _, _, _ => .skip
    else
      match tableOf s p m.id, tableOf s q m.id with
      | some t, some k =>
        let top := rowsHere (partId s) q.val (tTotal k.desc) k.ranges
        .each (List.range m.rows) fun i => .read fun s =>
          memPut (tBase k.desc + (top + i) * tStride k.desc) (memBytes s (rowAddr t (m.first + i)) (tRowBytes t.desc))
      | _, _ => .skip

/-- A migration given up (R159, R163): its parked updates are applied here with commit frame C − 1; the command gets RETRY,
for which the spec names no pool. -/
def migRetry (p : Fin 4) (m : Migration) : Upd :=
  .read fun s =>
    .seq [(match migKeep s p m.ref with
        | some k => .seq [.each k.audience fun q => mapSend q .abort k.seq 0 [], keepDrop k.seq]
        | none => .skip),
      .fresh fun v => match cmdOf s p m.ref with
        | some c => postPlain p c stRetry (v.toNat % 2 ^ 32)
        | none => .skip]

/-- MIGRATE_CHECK (R159): at Bell C − 2 the unit becomes read-only, its uncommitted updates parked, when every delta is acknowledged,
the new home is ready and the map change is prepared everywhere; else C moves a frame, eight times at most. -/
def cmdMigrateCheck (p : Fin 4) (ref : Nat) (ready : Bool) : Upd :=
  .read fun s =>
    match migAt s p ref with
    | none => .skip
    | some m =>
      if m.checked ∨ frameNow s + 2 < m.cut then .skip
      else
        let acked := match migKeep s p ref with | some k => k.audience.all (k.acks.contains ·) | none => true
        if ready && homeReady s m && acked then
          .seq [.when (m.kind == 0) (parkShares p m fun _ => true), migCopy p m, migMod p ref fun m => { m with checked := true, unacked := [] },
            match migKeep s p ref with
            | some k => .seq [keepMod k.seq fun k => { k with epoch := m.cut }, .each k.audience fun q => mapSend q .commit k.seq m.cut []]
            | none => .skip]
        else if m.moves < 8 then
          .seq [migMod p ref fun m => { m with moves := m.moves + 1, cut := m.cut + 1 },
            match migKeep s p ref with
            | some k => .seq [keepMod k.seq fun k => { k with defers := k.defers + 1 },
                .each k.audience fun q => mapSend q .defer k.seq (m.cut + 1) []]
            | none => .skip]
        else .seq [migRetry p m, migDrop p ref]

/-! ### The cut-over -/

/-- Walks for the entries of a drained INSERT share, in context slots of the home. -/
def drainWalks (q : Fin 4) (x : UpdShare) (h : Shard) (d : Bytes) : Upd :=
  .each (indexed x.entries) fun e => .when (!e.2.ready) <| .read fun s =>
    match takeSlots s q x.tenant (slotsFor x.insBeam (dCodeBytes d)) with
    | none => entryReady q x.ref x.coll x.shard e.1 fun e => { e with status := stRetry }
    | some slots =>
      let c : Cmd := { cmdFrom [] x.ref 35 x.tenant (frameNow s) true x.src x.srcPartition with cls := 1 }
      .part q fun y => { y with walks := y.walks ++ [{ insertWalk c d h x e.1 e.2.code slots with spot := .drover }] }

/-- A share's entries begun outside a command's admission: insert walks, or its targets staged. -/
def shareRun (q : Fin 4) (y : UpdShare) (h : Shard) (d : Bytes) : Upd :=
  if y.opcode = 0x0401 then .seq [drainWalks q y h d,
    .read fun s => .each ((psys s q).walks.filter fun w => w.ref == y.ref && !w.started) fun w => match w.why with
      | .insert i => .seq [walkMod q w.id fun w => { w with started := true, state := .active, admFrame := frameNow s }, insertStart q w i]
      | _ => .skip]
  else .each (List.range y.entries.length) fun i => targetStage q y.ref y.coll y.shard i

/-- The reference of a parked share at the home it is drained to: the partition it was parked in above bit 40 (R162). -/
def drainRef (p : Fin 4) (ref : Nat) : Nat := ref + (p.val + 1) * 2 ^ 40

/-- A parked share applied at a home of the part, its partition `q`: commit frame C − 1 (R161); the result goes to the partition that
holds the command. -/
def drainShare (p q : Fin 4) (cut : Nat) (x : UpdShare) : Upd :=
  .read fun s =>
    let y := { x with ref := drainRef p x.ref, kind := .drained, dayCommit := cut - 1 }
    match shardOf s q x.coll x.shard, collOf s x.coll with
    | some h, some k => .seq [shareGone p x, .part q (fun z => { z with shares := z.shares ++ [y] }), shareRun q y h k.desc]
    | _, _ => .skip

/-- The shares of a migrating shard with parked entries, in the order in which they were parked (R161). -/
def parkedShares (s : State) (p : Fin 4) (m : Migration) : List UpdShare :=
  (m.parked.map (·.ref)).eraseDups.filterMap fun r => shareOf s p r m.id m.shard

/-- The parked entries of a migration applied at a partition of the part. -/
def drainTo (p q : Fin 4) (m : Migration) : Upd :=
  .read fun s =>
    if m.kind = 0 then .each (parkedShares s p m) (drainShare p q m.cut)
    else
      .each (m.parked.map (·.ref)).eraseDups fun r =>
        match tableOf s q m.id, cmdOf s p r with
        | some t, some c =>
          let es := (m.parked.filter (·.ref == r)).map fun e => (e.node, e.payload)
          .seq [applyAdds q c.tenant t es c.thresh (par c (rowOff c + 4) 4), dayAppend q { rowRecord s p c t es with commit := m.cut - 1 },
            .each (c.pieces.filter (·.loc)) fun x => addDone p r x.unit none]
        | _, _ => .skip

/-- A command's parked entries made a piece of its own for a home on another part: its key is the unit's above 2³². -/
def awayPiece (s : State) (p : Fin 4) (m : Migration) (unit bytes : Nat) (es : List Nat) : Option Piece :=
  (layReplies [mkPiece s p (2 ^ 32 + unit) m.newPart m.newPartition es bytes] (recordsUsed (psys s p)) none).bind (·.head?)

/-- The parked entries of a migration sent to a new home on another part, as the shares that the old home forwards from Bell C on: the
spec gives the drained buffer no format of its own (DESIGN CHOICE, log entry 113). With no fan-out record free they end with RETRY. -/
def drainAway (p : Fin 4) (m : Migration) : Upd :=
  .read fun s =>
    if m.kind = 0 then
      .each (parkedShares s p m) fun x => .read fun s => match cmdOf s p x.ref with
        | none => shareGone p x
        | some c =>
          let own := ((c.pieces.find? fun (y : Piece) => y.unit == x.shard).map (·.entries)).getD []
          let es := (m.parked.filter (·.ref == x.ref)).filterMap fun e => own[e.entry]?
          let y := awayPiece s p m x.shard (16 * es.length) es
          let results := x.entries.map fun e => resultBytes (if e.status = stOk then stRetry else e.status) x.shard e.node e.gen 0
          .seq [shareGone p x, pieceDone p c.ref x.shard ⟨stOk, 0, 0, results.flatten⟩,
            .when y.isSome (cmdMod p c.ref fun c => { c with pieces := y.toList ++ c.pieces }),
            updSend p c.ref, updCheck p c.ref]
    else
      .each (m.parked.map (·.ref)).eraseDups fun r => .read fun s => match cmdOf s p r, tableOf s p m.id with
        | some c, some t => .each (c.pieces.filter (·.loc)) fun x => .read fun s =>
            let mine := (m.parked.filter (·.ref == r))
            let es := mine.filterMap fun e => x.entries[e.entry]?
            match awayPiece s p m x.unit (rowBody t.desc c es.length) es with
            | some y => .seq [cmdMod p r fun c => { c with pieces := y :: c.pieces }, rowSend p r, addDone p r x.unit none]
            | none => .seq [.each mine (fun e => pieceMod p r x.unit fun y => { y with area := Mem.write y.area e.entry 1 }),
                addDone p r x.unit none]
        | _, _ => .skip

/-- Whether an entry of a migration's buffer is still to be acknowledged by the new home, so that the old home keeps it (R162). -/
def parkedOpen (s : State) (p : Fin 4) (m : Migration) : Bool :=
  m.parked.any fun e => ((psys s (toP m.newPartition)).shares.any fun x => x.kind == .drained && x.ref == drainRef p e.ref) ||
    (cmdOf s p e.ref).any fun c => c.pieces.any fun x => decide (2 ^ 32 ≤ x.unit) && x.done.isNone

/-- The ranges of a table after rows from `first` take a home, in the copy of partition `here`. -/
def rehomeRows (s : State) (here : Fin 4) (t : Table) (first part partition : Nat) : List RowRange :=
  let mine (r : RowRange) : Bool := r.part == partId s && r.partition == here.val
  let place := match rangeOf t first with
    | some r =>
      if r.part = part ∧ r.partition = partition then r.place + (first - r.first)
      else if part = partId s ∧ partition = here.val then
        (t.ranges.map fun r => if mine r then r.place + rangeRows (tTotal t.desc) t.ranges (t.ranges.findIdx (· == r)) else 0).foldl max 0
      else 0
    | none => 0
  let l := t.ranges.filter (·.first != first)
  (l.filter (·.first < first)) ++ [⟨first, part, partition, place⟩] ++ l.filter (first < ·.first)

/-- A map entry of a migration applied here: rows split off where a range does not begin with them, and the moved rows leave
the hot lists of their old home (R340); a rejoined shard's entry names the new part as primary, PRIMARY_DOWN 0, and the old
home as partner (R531). -/
def migApply (p : Fin 4) (m : Migration) (e : MapEntry) : Upd :=
  .read fun s =>
    if e.kind = 3 then
      .each allP fun q => .part q fun y => { y with tables := y.tables.map fun t =>
        if t.id = e.id then { t with ranges := rehomeRows s q t (nfld e.value 39 0) (nfld e.value 59 40) (nfld e.value 61 60) } else t }
    else
      let w' (w : Word) : Word := setBit (setBit (setFld (setFld w 43 24 (partId s)) 45 44 p.val) 46 true) 22 false
      .seq [mapApply (partId s) e, .when m.rejoin (collMod m.id fun c => { c with map := amod c.map m.shard w' })]

/-- MIGRATE_CUTOVER (Bell C): the map epoch names the new home and the buffer is drained to it; or, when the new home has
failed, the old home stays home and applies the buffer itself (R161 to R163, R340). -/
def cmdMigrateCutover (p : Fin 4) (ref : Nat) (newHomeUp : Bool) : Upd :=
  .read fun s =>
    match migAt s p ref with
    | none => .skip
    | some m =>
      if !m.checked ∨ m.cutDone ∨ frameNow s < m.cut then .skip
      else .seq [.when (m.kind == 0) (parkShares p m fun _ => true), .read fun s => match migAt s p ref with
        | none => .skip
        | some m => if newHomeUp then
        .seq [.each (migEntries s p m) (migApply p m), mapEpoch m.cut,
          (match migKeep s p ref with | some k => keepDrop k.seq | none => .skip),
          .when (m.kind == 1) (.seq [tableMod p m.id fun t =>
              let stays (r : Nat) : Bool := !(decide (m.first ≤ r) && decide (r < m.first + m.rows))
              { t with hot := t.hot.filter stays, hotNext := t.hotNext.map (·.filter stays) }]),
          migMod p ref fun m => { m with cutDone := true },
          cmdMod p ref fun c => { c with aux := m.parked.length, aux2 := m.overflow },
          if homeHere s m then drainTo p (toP m.newPartition) m else drainAway p m]
        else .seq [migMod p ref fun m => { m with cutDone := true }, drainTo p p m, migRetry p m, migDrop p ref]]

/-- MIGRATE_RELEASE (Bell C + 2): the unit's memory is released and the command posts, once every parked entry is acknowledged (R162); a rejoin's old home keeps its copy and
is partner again. -/
def cmdMigrateRelease (p : Fin 4) (ref : Nat) : Upd :=
  .read fun s =>
    match migAt s p ref with
    | none => .skip
    | some m =>
      if !m.cutDone ∨ frameNow s < m.cut + 2 ∨ parkedOpen s p m then .skip
      else .seq [
        if m.kind = 1 then .skip
        else if m.rejoin then shardMod p m.id m.shard fun h => { h with appliedFrame := m.cut - 2 }
        else .seq [setDone p ((shardAny s p m.id m.shard).bind (·.setBy)) 0,
          .part p fun y => { y with shards := y.shards.filter fun h => !(h.coll == m.id && h.idx == m.shard) }],
        migDrop p ref,
        match cmdOf s p ref with
        | some c => postReply p c stOk 0 (natLE 6 m.cut ++ natLE 4 c.aux ++ natLE 2 c.aux2 ++ zeros 4) 0 m.cut
        | none => .skip]

def execMigrate (p : Fin 4) (ref : Nat) (s : State) : Host.Outcome State Fault Refusal := (cmdMigrate p ref).go s
def execMigrateCheck (p : Fin 4) (ref : Nat) (ready : Bool) (s : State) : Host.Outcome State Fault Refusal := (cmdMigrateCheck p ref ready).go s
def execMigrateCutover (p : Fin 4) (ref : Nat) (newHomeUp : Bool) (s : State) : Host.Outcome State Fault Refusal :=
  (cmdMigrateCutover p ref newHomeUp).go s
def execMigrateRelease (p : Fin 4) (ref : Nat) (s : State) : Host.Outcome State Fault Refusal := (cmdMigrateRelease p ref).go s
def execRejoin (p : Fin 4) (ref : Nat) (s : State) : Host.Outcome State Fault Refusal := (cmdRejoin p ref).go s

end Sys2Proof.Machine
end

