-- ==== Sys2Proof/Machine/Stack.lean ====
section
/-!
DEFINITION. The stack engines and the housekeeping of the stacks (chapter 11): the operations of Table 11.3 but SCAN (`Utertil.lean`), scrub,
row sparing, refresh, start-up, fill and test.
-/

namespace Sys2Proof.Machine

/-! ### A stack and its rows -/

/-- A stack's data. -/
def stk (s : State) (k : Nat) : StackSt := s.sys.stks.get (Fin.ofNat 24 k)

/-- A stack's data changed. -/
def stkMod (k : Nat) (f : StackSt → StackSt) : Upd := .sys fun y => { y with stks := updAt y.stks (Fin.ofNat 24 k) f }

/-- STK_STATUS.STATE set. -/
def stkState (k st : Nat) : Upd := regMod .stkStatus (stkP k) (stkJ k) fun w => setFld w 55 52 st

/-- First address of a stack; a row is a 1 KiB piece of it, in line order across the pseudo-channels (R313, R369). -/
def stkBase (k : Nat) : Nat := k * 0x1000000000

/-- Rows of a 16-high stack: 64 pseudo-channels × 64 banks × 16,384 rows (Table 11.1). -/
def stkRows : Nat := 67108864

/-- The bank of a row: its pseudo-channel × 64 plus the bank of R355. -/
def rowBank (row : Nat) : Nat := row % 64 * 64 + row / 64 % 64

/-- Spare rows used in a bank, of 32. -/
def sparesUsed (x : StackSt) (bank : Nat) : Nat := x.spared.countP fun r => rowBank r == bank

/-- SPARES_LEFT: the fewest free spare rows in any bank. -/
def sparesLeft (x : StackSt) : Nat := 32 - (x.spared.map fun r => sparesUsed x (rowBank r)).foldl max 0

/-- A row mapped to a spare row of its bank, or kept in place with SPARE_OUT and a notice (R370). -/
def spareRow (k row : Nat) : Upd :=
  .read fun s =>
    let x := stk s k
    if x.spared.contains row then .skip
    else if sparesUsed x (rowBank row) < 32 then
      .seq [stkMod k fun x => { x with spared := row :: x.spared },
        regCount .stkEcc (stkP k) (stkJ k) 15 0 1,
        .read fun s => regMod .stkStatus (stkP k) (stkJ k) fun w => setFld w 21 16 (sparesLeft (stk s k))]
    else
      .seq [stkMod k fun x => { x with kept := row :: x.kept }, regSetBit .stkStatus (stkP k) (stkJ k) 62,
        crier 0x43 (stkP k).val 0 0 0 (natLE 1 k ++ zeros 1 ++ natLE 2 (rowBank row))]

/-- A range of the Loft written with zeros and fresh check bits: its poison goes. -/
def loftZero (a n : Nat) : Upd :=
  .seq [.memZero a n, .sys fun y => { y with poison := y.poison.filter fun l => !(decide (a ≤ l) && decide (l < a + n)) }]

/-! ### Operations of Table 11.3 -/

/-- Whether a range lies in one stack. -/
def inStack (k a n : Nat) : Bool := regionOf a == .loft && stackOf a == k && oneRow a n && stackOf (a + n - 1) == k

/-- STACK_COMPARE (R109, R358, R359): one request of up to 32 pairs of an expansion whose codes lie on the stack. -/
def cmdStackCompare (k : Fin 24) (p : Fin 4) (walk node : Nat) : Upd :=
  .read fun s => compareNode p walk node (fun w u => siteOf s w node u == .stack k.val) 32

/-- The work an engine does for an issuer: its partition and tenant. -/
def issuerT (s : State) (w : Issuer) : Nat := (issuerTenant s w).getD 0

/-- An access of a stack engine refused (R353). -/
def stkRefused (w : Issuer) (e : MemErr) (a : Nat) : Upd := memErr e w.partition (sourceCode .stackEngine) a

/-- A write of a stack engine's data to a local destination, or discarded (R353, R319). -/
def stkPut (w : Issuer) (t a : Nat) (bs : Bytes) : Upd :=
  .read fun s => if cohDead s (unalias s a) bs.length then .skip else match access s w.partition t a bs.length true with
    | .ok => .seq [memStore a bs, chargeWrite s t a bs.length]
    | .cellarWrite => stkRefused w .cellarWrite a
    | .unmapped => stkRefused w .unmapped a

/-- STACK_GATHER: rows as stored, each sent to its place at the destination. A row that touches a poisoned line is recorded
and not sent; a row that may not be read reads as zeros (R352, R353). -/
def cmdStackGather (k : Fin 24) (w : Issuer) (rows : List Nat) (len dst : Nat) : Upd :=
  cohGate (rows.map (·, len, false) ++ [(dst, rows.length * len, true)]) <| .each (indexed rows) fun x =>
    .read fun s =>
      let t := issuerT s w
      if !(inStack k.val x.2 len) ∨ len = 0 ∨ cohDead s x.2 len then .skip
      else if access s w.partition t x.2 len false ≠ .ok then
        .seq [stkRefused w .unmapped x.2, stkPut w t (dst + x.1 * len) (zeros len)]
      else match poisonIn s x.2 len with
        | some l => stkRefused w .poison l
        | none => .seq [chargeRead s t x.2 len, stkPut w t (dst + x.1 * len) (memBytes s x.2 len)]

/-- STACK_ADD (R334, R366): each element read, added and written as one step; no element of a poisoned line. -/
def cmdStackAdd (k : Fin 24) (w : Issuer) (addr : Nat) (fp : Bool) (vals : List (BitVec 32)) : Upd :=
  cohGate [(addr, 4 * vals.length, true)] <| .read fun s =>
    let t := issuerT s w
    let n := 4 * vals.length
    if !(inStack k.val addr n) ∨ n = 0 ∨ addr % 4 ≠ 0 ∨ cohDead s addr n then .skip
    else if access s w.partition t addr n true ≠ .ok then stkRefused w .unmapped addr
    else
      let bad := (linesOf 64 addr n).filter fun l => s.sys.poison.contains l
      .seq [.sys fun y => { y with free := y.free + 1 },
        .each bad fun l => memErr .poison (stkP k) (sourceCode .stackEngine) l,
        .each ((indexed vals).filter fun x => !(bad.contains ((addr + 4 * x.1) / 64 * 64))) fun x =>
          let r := addElem fp false (opKey s.sys.free + x.1 * 2 ^ 32) (memLE s (addr + 4 * x.1) 4) [x.2.toNat]
          .seq [memPut (addr + 4 * x.1) (natLE 4 r.1), raiseFlags w.partition r.2],
        chargeWrite s t addr n,
        stackLines k.val (units64 addr n - bad.length)]

/-- STACK_WRITE (R366): a part-line write; a poisoned line keeps its poison, recorded with SOURCE 3 (R352). -/
def cmdStackWrite (k : Fin 24) (w : Issuer) (addr : Nat) (data : Bytes) : Upd :=
  cohGate [(addr, data.length, true)] <| .read fun s =>
    let n := data.length
    let bad := (linesOf 64 addr n).filter fun l => s.sys.poison.contains l && !(decide (addr ≤ l) && decide (l + 64 ≤ addr + n))
    if !(inStack k.val addr n) ∨ n = 0 then .skip
    else .seq [.each bad fun l => memErr .poison (stkP k) (sourceCode .stackEngine) l, stkPut w (issuerT s w) addr data]

/-- Some of the 8-byte granules of a move that stopped at poison: which of those off the poisoned lines is free (R342). -/
def movePart (dst src n : Nat) : Upd :=
  .read fun s =>
    .seq [.sys fun y => { y with free := y.free + 1 },
      .each ((List.range (ceilDiv n 8)).filter fun i =>
          Config.pick (opKey s.sys.free + i) 2 % 2 == 0 && (poisonIn s (src + 8 * i) (min 8 (n - 8 * i))).isNone)
        fun i => memStore (dst + 8 * i) (memBytes s (src + 8 * i) (min 8 (n - 8 * i)))]

/-- STACK_MOVE (R375, R376): lines of the stack moved to the Loft of the same partition. -/
def cmdStackMove (k : Fin 24) (w : Issuer) (src dst n : Nat) : Upd :=
  cohGate [(src, n, false), (dst, n, true)] <| .read fun s =>
    let t := issuerT s w
    if !(inStack k.val src n) ∨ n = 0 ∨ cohDead s src n ∨ cohDead s dst n ∨ regionOf dst ≠ .loft ∨ stkP (stackOf dst) ≠ stkP k then .skip
    else if access s w.partition t src n false ≠ .ok then stkRefused w .unmapped src
    else if access s w.partition t dst n true ≠ .ok then stkRefused w .unmapped dst
    else match poisonIn s src n with
      | some l => .seq [stkRefused w .poison l, movePart dst src n]
      | none => .seq [memMove dst src n, chargeRead s t src n, chargeWrite s t dst n]

/-- STACK_ZERO: whole rows of zeros, clearing poison. -/
def cmdStackZero (k : Fin 24) (addr rows : Nat) : Upd :=
  if inStack k.val addr (1024 * rows) ∧ addr % 1024 = 0 ∧ rows ≠ 0 then loftZero addr (1024 * rows) else .skip

/-! ### Housekeeping -/

/-- A correctable error of a row counted (R365). -/
def stkCorrected (k row : Nat) : Upd :=
  .seq [regCount .stkEcc (stkP k) (stkJ k) 63 32 1,
    stkMod k fun x => { x with errs := aset x.errs row ((aget x.errs row).getD 0 + 1) }]

/-- A line of a stack poisoned by the base die and recorded (R352, R365); one of a coherent region fails its domain (Table 16.7,
cause 5). -/
def stkUncorrected (k line : Nat) : Upd :=
  .seq [poisonLine line, regCount .stkEcc (stkP k) (stkJ k) 31 16 1, memErr .poison (stkP k) (sourceCode .stackEngine) line,
    .read fun s => match regionAt s line with | some r => cohFail r.dom 5 0xFF false | none => .skip]

/-- STACK_SCRUB (R369): the next SCRUB_RATE rows read; the errors found in them. -/
def cmdStackScrub (k : Fin 24) (correctable uncorrectable : List Nat) : Upd :=
  .read fun s =>
    let rate := fld (lv s .stkCtl (stkP k) (stkJ k)) 31 16
    let pos := (stk s k).scrub
    let mine (a : Nat) : Bool := inStack k.val a 1 && decide ((a % 0x1000000000 / 1024 + stkRows - pos) % stkRows < rate)
    .when (stackState s k == 3 && rate != 0)
      (.seq [.each (correctable.filter mine) fun a => stkCorrected k (a % 0x1000000000 / 1024),
        .each (uncorrectable.filter mine) fun a => stkUncorrected k (a / 64 * 64),
        stkMod k fun x => { x with scrub := (pos + rate) % stkRows }])

/-- BANK_REFRESH (R368): the refresh interval follows the hottest core die. -/
def cmdBankRefresh (k : Fin 24) (temp : Nat) : Upd :=
  .read fun s =>
    .when (stackState s k != 4 && stackState s k != 5)
      (regMod .stkStatus (stkP k) (stkJ k) fun w => setBit (setFld w 15 8 (min temp 255)) 44 (decide (85 < temp)))

/-- ROW_SPARE (R370): a row whose corrected errors have reached SPARE_THRESH. -/
def cmdRowSpare (k : Fin 24) (row : Nat) : Upd :=
  .read fun s =>
    let th := fld (lv s .stkCtl (stkP k) (stkJ k)) 39 32
    let x := stk s k
    .when (stackState s k == 3 && th != 0 && decide (th ≤ (aget x.errs row).getD 0) && !(x.kept.contains row)) (spareRow k row)

/-- A stack that failed its start-up (R356): its range unpopulated, a record and a notice. -/
def stkFail (k : Nat) : Upd :=
  .seq [stkState k 5,
    fault (stkP k) { faultBase 0x0D 0 with engineKind := 2, engine := k, detail := natLE 1 k ++ natLE 1 5 }]

/-- STACK_STARTUP (R372, Table 11.5): training, the march test, the fill. -/
def cmdStackStartup (k : Fin 24) (r : StackResult) : Upd :=
  .read fun s =>
    if stackState s k ≠ 0 then .skip
    else match r.rate with
      | none => stkFail k
      | some rate =>
        .seq [stkMod k fun x => { x with errs := [], kept := [], scrub := 0, fill := none },
          .each (r.failingRows.filter (· < stkRows)) fun row => spareRow k row,
          regMod .stkStatus (stkP k) (stkJ k) fun w =>
            setBit (setFld (setFld w 51 48 rate.val) 15 8 (min r.temp 255)) 44 (decide (85 < r.temp)),
          .read fun s =>
            if r.unspared ∨ (stk s k).kept ≠ [] then .seq [regSetBit .stkStatus (stkP k) (stkJ k) 61, stkFail k]
            else .seq [stkMod k fun x => { x with eccMode := (bit (rd s .stkCtl (stkP k) (stkJ k)) 8).toNat },
              loftZero (stkBase k) 0x1000000000,
              regMod .stkStatus (stkP k) (stkJ k) fun w => setFld w 21 16 (sparesLeft (stk s k)),
              stkState k 3]]

/-- STACK_SELF_REFRESH_EXIT (R373): the interface retrained, contents as they were. -/
def cmdStackSelfRefreshExit (k : Fin 24) (rate : Fin 3) : Upd :=
  .read fun s => .when (stackState s k == 4)
    (.seq [regMod .stkStatus (stkP k) (stkJ k) fun w => setFld w 51 48 rate.val, stkState k 3])

/-! ### STK_CTL (R362, R364, R374, R377) -/

/-- Whether any grain of a stack is not unbound. -/
def stkInUse (s : State) (k : Nat) : Bool :=
  (List.range 127).any fun g => (unit s 3 (128 * k + g)).state == .bound || (unit s 3 (128 * k + g)).state == .draining

/-- A fill or test begun, or refused with CFG_ERR (R374). -/
def stkBegin (k : Nat) (test : Bool) : Upd :=
  .read fun s =>
    if stackState s k = 3 ∧ !(stkInUse s k) then
      .seq [stkMod k fun x => { x with fill := some test, eccMode := (bit (rd s .stkCtl (stkP k) (stkJ k)) 8).toNat },
        stkState k (if test then 1 else 2)]
    else regSetBit .stkStatus (stkP k) (stkJ k) 63

/-- A write of STK_CTL: a BUDGET outside 1 to 16 is discarded (R362), the other fields are written; TEST, which ends in a fill,
goes before FILL. -/
def stkCtlSet (k : Nat) (v : Word) : Upd :=
  let ok := decide (1 ≤ fld v 4 0) && decide (fld v 4 0 ≤ 16)
  .seq [.read fun s => plainWrite .stkCtl (stkP k) (stkJ k) (if ok then v else setFld v 4 0 (fld (rd s .stkCtl (stkP k) (stkJ k)) 4 0)),
    .when (!ok) (regSetBit .stkStatus (stkP k) (stkJ k) 63),
    if bit v 63 then stkBegin k true else if bit v 62 then stkBegin k false else .skip]

/-- STK_FILL: a write of STK_CTL with FILL. -/
def cmdStkFill (w : Issuer) (k : Fin 24) (v : Word) : Upd :=
  .when (bit v 62 && !(bit v 63)) (ctlReg w (stkP k) .stkCtl (stkJ k) (stkCtlSet k v))

/-- STK_TEST: a write of STK_CTL with TEST. -/
def cmdStkTest (w : Issuer) (k : Fin 24) (v : Word) : Upd :=
  .when (bit v 63) (ctlReg w (stkP k) .stkCtl (stkJ k) (stkCtlSet k v))

/-- STK_FILL_DONE (R374): the tenant-usable memory holds zeros. -/
def cmdStkFillDone (k : Fin 24) (failed : Bool) : Upd :=
  .read fun s =>
    match (stk s k).fill with
    | none => .skip
    | some test =>
      .seq [loftZero (stkBase k) 0xFE0000000, .when (test && failed) (regSetBit .stkStatus (stkP k) (stkJ k) 61),
        stkMod k fun x => { x with fill := none }, stkState k 3]

def execStackCompare (k : Fin 24) (p : Fin 4) (walk node : Nat) (s : State) : Host.Outcome State Fault Refusal :=
  (cmdStackCompare k p walk node).go s
def execStackGather (k : Fin 24) (w : Issuer) (rows : List Nat) (len dst : Nat) (s : State) : Host.Outcome State Fault Refusal :=
  (cmdStackGather k w rows len dst).go s
def execStackAdd (k : Fin 24) (w : Issuer) (addr : Nat) (fp : Bool) (vals : List (BitVec 32)) (s : State) :
    Host.Outcome State Fault Refusal := (cmdStackAdd k w addr fp vals).go s
def execStackWrite (k : Fin 24) (w : Issuer) (addr : Nat) (data : Bytes) (s : State) : Host.Outcome State Fault Refusal :=
  (cmdStackWrite k w addr data).go s
def execStackScrub (k : Fin 24) (correctable uncorrectable : List Nat) (s : State) : Host.Outcome State Fault Refusal :=
  (cmdStackScrub k correctable uncorrectable).go s
def execStackMove (k : Fin 24) (w : Issuer) (src dst n : Nat) (s : State) : Host.Outcome State Fault Refusal :=
  (cmdStackMove k w src dst n).go s
def execStackZero (k : Fin 24) (addr rows : Nat) (s : State) : Host.Outcome State Fault Refusal := (cmdStackZero k addr rows).go s
def execBankRefresh (k : Fin 24) (temp : Nat) (s : State) : Host.Outcome State Fault Refusal := (cmdBankRefresh k temp).go s
def execRowSpare (k : Fin 24) (row : Nat) (s : State) : Host.Outcome State Fault Refusal := (cmdRowSpare k row).go s
def execStackStartup (k : Fin 24) (r : StackResult) (s : State) : Host.Outcome State Fault Refusal := (cmdStackStartup k r).go s
def execStackSelfRefreshExit (k : Fin 24) (rate : Fin 3) (s : State) : Host.Outcome State Fault Refusal :=
  (cmdStackSelfRefreshExit k rate).go s
def execStkFill (w : Issuer) (k : Fin 24) (v : Word) (s : State) : Host.Outcome State Fault Refusal := (cmdStkFill w k v).go s
def execStkTest (w : Issuer) (k : Fin 24) (v : Word) (s : State) : Host.Outcome State Fault Refusal := (cmdStkTest w k v).go s
def execStkFillDone (k : Fin 24) (failed : Bool) (s : State) : Host.Outcome State Fault Refusal := (cmdStkFillDone k failed).go s

end Sys2Proof.Machine
end

