-- ==== Sys2Proof/Machine/Contexts.lean ====
section
/-!
DEFINITION. The end of a command before its time (R67, R80, R126, R164, R165, R301, R503 level 1): its contexts reset, what it had
not committed undone, its record written and its status posted.
-/

namespace Sys2Proof.Machine

/-! ### What a command holds -/

def walksOf (s : State) (p : Fin 4) (ref : Nat) : List Walk := (psys s p).walks.filter (·.ref == ref)
def runsOf (s : State) (p : Fin 4) (ref : Nat) : List VRun := (psys s p).mill.runs.filter (·.ref == ref)
def sharesOf (s : State) (p : Fin 4) (ref : Nat) : List UpdShare := (psys s p).shares.filter (·.ref == ref)
def dmaRunsOf (s : State) (p : Fin 4) (ref : Nat) : List DmaRun := (psys s p).dma.filter (·.ref == some ref)

/-- The streams a command uses: a text command's, and those a run's DETOK operations name. -/
def streamsOf (s : State) (p : Fin 4) (c : Cmd) : List Nat :=
  (if c.phase ≠ .waiting ∧ [0x0703, 0x0704, 0x0705].contains c.opcode then [par c 0 2] else []) ++
  (runsOf s p c.ref).flatMap fun r => match objOf s p r.handle with
    | some o => (o.ops.filter (·.vop == 0x0E)).map (·.aux)
    | none => []

/-- A command's contexts by CTX_KIND of Table 18.3, each with its CTX_ID. -/
def contextsOf (s : State) (p : Fin 4) (c : Cmd) : List (Nat × Nat) :=
  (walksOf s p c.ref).map (fun w => (1, w.slots.headD w.id)) ++ (streamsOf s p c).map (fun h => (2, h)) ++ (runsOf s p c.ref).map (fun r => (3, r.id)) ++
  ((c.pieces.filter fun x => x.sent && x.done.isNone).map fun x => (4, x.record)).eraseDups ++
  (sharesOf s p c.ref).map (fun x => (5, x.ref)) ++ (dmaRunsOf s p c.ref).map fun r => (6, 64 * p.val + r.j)

/-! ### Undoing -/

/-- A stream failed: its pending, held-back and queued bytes are lost (R301). -/
def streamFail (p : Fin 4) (h ref : Nat) : Upd :=
  .read fun s => match streamOf s p h with
    | some t => match t.state with
      | .failed _ _ => .skip
      | _ => streamPut p { t with state := .failed false ref, pending := [], held := [], queue := [] }
    | none => .skip

/-- A command's uncommitted shares dropped, with what they staged (R164). -/
def sharesDrop (p : Fin 4) (ref : Nat) : Upd :=
  .seq [.read fun s => .each (sharesOf s p ref) (slotsBack p),
    .part p fun y => { y with shares := y.shares.filter (·.ref != ref), stage := y.stage.filter fun z => !(z.ref == ref && z.commit.isNone),
                              migs := y.migs.map fun m => { m with parked := m.parked.filter (·.ref != ref) } }]

/-- The transfer of a MEM_COPY stopped without a status of its own. -/
def dmaQuiet (p : Fin 4) (r : DmaRun) (status : Nat) : Upd :=
  .seq [.part p (fun y => { y with dma := y.dma.map fun x => if x.j = r.j then { x with ref := none } else x }), dmaStop p r.j status 0]

/-- Everything a command holds, ended: CANCELs for the shares it waits on, its walks, runs, streams, shares, transfers and
uncommitted ingests. -/
def abandon (p : Fin 4) (c : Cmd) (status faultRef : Nat) : Upd :=
  .read fun s =>
    .seq [sendCancels p c, .each (streamsOf s p c) (fun h => streamFail p h faultRef), sharesDrop p c.ref, dropWalks p c.ref,
      .each (runsOf s p c.ref) (fun r => match objOf s p r.handle with
        | some o => runFail p o r fun _ => .skip
        | none => runDrop p r.id),
      .each (dmaRunsOf s p c.ref) (fun r => dmaQuiet p r status),
      .part p fun y => { y with
        ingests := y.ingests.filter fun i => !(i.ref == c.ref && i.commit.isNone), sels := y.sels.filter fun x => (y.walks.any (·.id == x.walk)) },
      .read fun s => match migAt s p c.ref with
        | some m => .when (!m.cutDone) (.seq [migMod p c.ref (fun m => { m with cutDone := true }),
            drainTo p p { m with cut := min m.cut (frameNow s + 1) }, .read fun s => match migKeep s p c.ref with
              | some k => .seq [.each k.audience fun q => mapSend q .abort k.seq 0 [], keepDrop k.seq]
              | none => .skip, migDrop p c.ref])
        | none => .skip]

/-- An update command that has ended keeps its journal entry up to date while its shares report, 64 frames (R165). -/
def ghost (p : Fin 4) (c : Cmd) : Upd :=
  .read fun s =>
    let rest := c.pieces.filter fun x => x.sent && x.done.isNone
    .when ([0x0401, 0x0402, 0x0403].contains c.opcode) (.seq [
      .sys fun y => { y with free := y.free + 1 }, journalPut p c (frameNow s) (updResults (opKey s.sys.free) c c.upd).flatten,
      .when (!rest.isEmpty) (.part p fun y => { y with cmds := y.cmds ++
        [{ c with ring := 36, aux := c.ring, aux2 := frameNow s, phase := .running, slots := [] }] })])

/-- A command ended early with a status: the record first (R511), then its contexts, then the reply (R77). -/
def endEarly (p : Fin 4) (c : Cmd) (status : Nat) (r : FaultRec) : Upd :=
  .read fun s =>
    let ref := nextFaultRef s p
    let ctx := contextsOf s p c
    let first := (ctx.head?).getD (0, 0)
    .seq [fault p (faultOf s p c { r with
        ctxKind := first.1, ctxId := first.2, count := if r.cause = 0x01 then ctx.length else r.count
        detail := if r.cause = 0x01 then natLE 6 c.admFrame else r.detail }),
      abandon p c status ref, postReply p c status 0 [] ref, ghost p c]

/-- COMMAND_TIMEOUT (R25): a command accepted in frame f with a timeout of t frames ends at Bell f + t + 1. The part's own
commands of rings 35 and 36 have none. -/
def timeoutDue (n : Nat) (c : Cmd) : Bool := c.ring != 35 && c.ring != 36 && decide (c.accFrame + c.timeout < n)

/-- The timeout of one command. -/
def timeOut (p : Fin 4) (c : Cmd) : Upd := endEarly p c stTimeout (faultBase 0x01 1)

def cmdCommandTimeout (p : Fin 4) (ref : Nat) : Upd :=
  .read fun s => match cmdOf s p ref with
    | some c => .when (timeoutDue (frameNow s) c) (timeOut p c)
    | none => .skip

/-! ### DEADLINE of a share -/

/-- DEADLINE of a share (R123, R131, R332): the frame of its first parameter bytes. -/
def deadlineOf (c : Cmd) : Nat := leAt c.params 0 6

/-- Whether a share's DEADLINE has come without its status. -/
def deadlineDue (s : State) (c : Cmd) : Bool := [0x0303, 0x0404, 0x0606].contains c.opcode && decide (deadlineOf c ≤ frameNow s)

/-- SHARE_DEADLINE (R123): the share ends with TIMEOUT; what it had not committed takes no effect (R164). -/
def cmdShareDeadline (p : Fin 4) (ref : Nat) : Upd :=
  .read fun s =>
    match cmdOf s p ref with
    | some c => .when (deadlineDue s c) (timeOut p c)
    | none => .skip

/-! ### CANCEL -/

/-- CANCEL (0x0103). -/
def specCancel : OpSpec := { len := fun _ _ _ => 8 }

/-- CANCEL (R67): the oldest command of the same ring with that CMD_SEQ. Table 18.4 has no cause of its own for it. -/
def cmdCancel (p : Fin 4) (ref : Nat) : Upd :=
  withCmd p ref 0x0103 fun c => .read fun s =>
    match (psys s p).cmds.find? fun d => d.ring == c.ring && d.seq == par c 0 8 && d.ref != c.ref with
    | some d => .seq [endEarly p d stContextReset { faultBase 0x05 1 with detail := natLE 3 (if c.steward then c.srcPart else partId s) },
        postPlain p c stOk 1]
    | none => postPlain p c stOk 0

def execCommandTimeout (p : Fin 4) (ref : Nat) (s : State) : Host.Outcome State Fault Refusal := (cmdCommandTimeout p ref).go s
def execShareDeadline (p : Fin 4) (ref : Nat) (s : State) : Host.Outcome State Fault Refusal := (cmdShareDeadline p ref).go s
def execCancel (p : Fin 4) (ref : Nat) (s : State) : Host.Outcome State Fault Refusal := (cmdCancel p ref).go s

end Sys2Proof.Machine
end

