-- ==== Sys2Proof/Machine/Bind.lean ====
section
/-!
DEFINITION. Binding (R483 to R494): BIND and its drain, scrub and bind epoch; BIND_READ; the Ledger's snapshot and LEDGER_READ
(R499).
-/

namespace Sys2Proof.Machine

/-! ### Unit entries (Table 17.3) -/

/-- KIND, PARTITION, FIRST and COUNT of a unit entry. -/
structure UnitEntry where
  kind : Nat
  partition : Nat
  first : Nat
  count : Nat
  reserved : Bool
  deriving DecidableEq, Repr

def unitEntry (w : Nat) : UnitEntry := ⟨nfld w 63 58, nfld w 57 56, nfld w 39 20, nfld w 19 0, nfld w 55 40 != 0⟩

def UnitEntry.indices (e : UnitEntry) : List Nat := (List.range e.count).map (e.first + ·)

/-- Whether an entry names units of a kind at all. -/
def UnitEntry.ok (e : UnitEntry) : Bool :=
  e.kind != 0 && decide (e.kind ≤ 11) && !e.reserved && (e.kind == 8 || e.partition == 0) && e.count != 0 &&
  decide (e.first + e.count ≤ unitCount e.kind) && e.indices.all (unitExists e.kind)

/-- The window range of a unit that is memory. -/
def unitRange (s : State) (kind idx : Nat) : Nat × Nat :=
  match kind with
  | 3 => (idx / 128 * 0x1000000000 + idx % 128 * 0x20000000, 0x20000000)
  | 8 => (0x20000000000 + idx * 0x800000, 0x800000)
  | 4 => (quarter (flP idx) + flJ idx * 0x80000000000, (chan s idx).w * 0x80000000000)
  | _ => (0, 0)

/-- Whether the part is a bridge: its host port is in use. -/
def isBridge (s : State) : Bool := bit (rd s .hostCfg 0) 63

/-- Whether an LD still holds an extent that is not FREE. -/
def ldHoldsExt (s : State) (l : Nat) : Bool :=
  s.sys.coh.hostExts.any (·.2.2 == l) || s.sys.coh.exts.any fun e => !e.gone && extLd s e == some l

/-! ### BIND -/

def bindTenant (c : Cmd) : Nat := par c 0 2 % 4096
def bindUnbind (c : Cmd) : Bool := nbit (par c 0 2) 15
def bindEntries (c : Cmd) : List UnitEntry := (List.range (par c 2 2)).map fun i => unitEntry (par c (8 + 8 * i) 8)

/-- Why an entry is refused (R490). -/
def badEntry (s : State) (before : List UnitEntry) (e : UnitEntry) : Bool :=
  !e.ok || e.indices.any (fun i => (unit s e.kind i).state == .disabled) ||
  before.any (fun b => b.kind == e.kind && overlap b.first b.count e.first e.count) ||
  (e.kind == 4 && (e.count != 1 || flashSetOf s (unitRange s 4 e.first).1 != e.first)) ||
  (e.kind == 11 && !(isBridge s)) ||
  (e.kind == 3 && e.indices.any fun i => let r := unitRange s 3 i; s.sys.coh.regions.any fun g => overlap g.base g.bytes r.1 r.2) ||
  (e.kind == 11 && e.indices.any (ldHoldsExt s))

/-- The frames of drain N_D of R492 at the Bell period in force. -/
def drainFrames (s : State) : Nat := 2000 / bellUs s - 2

/-- BIND (0x0A01), refused as R490 says. -/
def specBind : OpSpec :=
  { permit := fmOnly, len := fun _ _ c => 8 + 8 * par c 2 2, exact := fun _ _ _ => true
    range := fun s _ c =>
      let es := bindEntries c
      (firstBad [(decide (c.timeout * bellUs s < 4100), 6), (nfld (par c 0 2) 14 12 != 0 || decide (s.fuse.maxTenants ≤ bindTenant c), 64),
        (decide (64 < par c 2 2), 66), (par c 4 4 != 0, 68)]).or
        (((indexed es).find? fun e => badEntry s (es.take e.1) e.2).map fun e => 72 + 8 * e.1)
    pool := fun s _ c => if (bindEntries c).any fun e => e.indices.any fun i =>
        (match (unit s e.kind i).state with | .draining | .scrubbing => true | _ => false) then some 0x0A01 else none
    body := fun _ _ _ => 16
    zero := fun _ _ c => if par c 2 2 = 0 then some [] else none }

/-- The units of a BIND: KIND, index and, for a way, the partition. -/
def bindUnits (c : Cmd) : List (Nat × Nat × Nat) := (bindEntries c).flatMap fun e => e.indices.map fun i => (e.kind, i, e.partition)

def unitSet (kind idx : Nat) (u : BUnit) : Upd := bindMod fun b => { b with units := aset b.units (unitKey kind idx) u }
def unitMode (kind idx : Nat) (st : UnitState) : Upd := .read fun s => unitSet kind idx { unit s kind idx with state := st, since := frameNow s }

def rebindOf (s : State) (p : Fin 4) (ref : Nat) : Option Rebind := s.sys.bind.rebinds.find? fun r => r.p == p && r.ref == ref
def rebindMod (p : Fin 4) (ref : Nat) (f : Rebind → Rebind) : Upd :=
  bindMod fun b => { b with rebinds := b.rebinds.map fun r => if r.p = p ∧ r.ref = ref then f r else r }

/-- The unbind epoch of a BIND, at action 3 of Bell step n (Table 17.4): its units leave the old tenant and drain. -/
def bindStart (p : Fin 4) (c : Cmd) (n : Nat) : Upd :=
  .read fun s =>
    let us := bindUnits c
    let r : Rebind := Rebind.mk p c.ref (bindUnbind c) (bindTenant c) us n (n + drainFrames s) false 0
    .seq [bindMod (fun b => { b with rebinds := b.rebinds ++ [r] }), .each us (fun u => unitMode u.1 u.2.1 .draining),
      mapEpoch n, cmdMod p c.ref fun c => { c with phase := .running, admFrame := n }]

/-! ### Users of a unit -/

/-- The arrays of a shard record: address and length. -/
def recRanges (r : Bytes) (codeBytes deg refineBytes : Nat) : List (Nat × Nat) :=
  let rows := ceilDiv (ceilDiv (rCap r) (perRow codeBytes)) (stripes r)
  let node := (rNode r, rCap r * (if rPlacement r = 1 then blockBytes deg codeBytes else nodeRecBytes deg))
  let fine := (rRefine r, rCap r * refineBytes)
  let seeds := (rEntrySet r, 8 * rEntryN r)
  if rPlacement r = 1 then [seeds, node, fine, (rTag r 0, 2 * rCap r)]
  else [seeds, node, fine] ++ (List.range (stripes r)).flatMap fun j => [(rCode r j, 1024 * rows), (rTag r j, 2 * perRow codeBytes * rows)]

/-- Those of a shard record of a collection. -/
def shardRanges (d rcd : Bytes) : List (Nat × Nat) :=
  recRanges rcd (dCodeBytes d) (dDegree d) (if dRefineFmt d = 0 then 0 else refineRecBytes (dRefineFmt d) (dGroup d) (dDim d))

/-- Whether a range of memory is one that a walk, share, run, transfer or ingest works on; the commands concerned. -/
def memUsers (s : State) (a n : Nat) : List (Fin 4 × Nat) :=
  let hit (r : Nat × Nat) : Bool := r.2 != 0 && overlap a n r.1 r.2
  allP.flatMap fun p =>
    let y := psys s p
    let graphHit (coll : Nat) (rcd : Bytes) : Bool := match collOf s coll with
      | some x => (shardRanges x.desc rcd).any hit
      | none => false
    ((y.walks.filter fun w => graphHit w.coll w.rcd).map fun w => (p, w.ref)) ++
    ((y.shares.filter fun x => match shardOf s p x.coll x.shard with | some h => graphHit x.coll h.cur | none => false).map
      fun x => (p, x.ref % 2 ^ 40)) ++
    ((y.mill.runs.filter fun r => r.binds.any (fun b => hit (b.2, 1)) ||
        (match objOf s p r.handle with | some o => o.tensors.any fun t => hit (t.data, 1) | none => false)).map fun r => (p, r.ref)) ++
    (y.dma.filterMap fun t => if (!t.srcHost && t.srcPart == partId s && hit (t.src, t.count)) ||
        (!t.dstHost && t.dstPart == partId s && hit (t.dst, t.count)) then t.ref.map (p, ·) else none) ++
    (y.ingests.filter fun i => hit (i.dst, i.bytes)).map fun i => (p, i.ref)

/-- The commands that use a unit. -/
def unitUsers (s : State) (kind idx : Nat) : List (Fin 4 × Nat) :=
  match kind with
  | 1 => let p := toP (idx / 48)
    ((psys s p).mill.runs.filter fun r => match objOf s p r.handle with | some o => o.mills.contains idx | none => false).map fun r => (p, r.ref)
  | 2 => let p := toP (idx / 16)
    let mine (l : List Nat) : Bool := l.any fun i => i / 65536 == idx % 16
    (((psys s p).walks.filter fun w => mine w.slots).map fun w => (p, w.ref)) ++ ((psys s p).cmds.filter fun c => mine c.slots).map fun c => (p, c.ref)
  | 3 | 4 | 8 => let r := unitRange s kind idx; memUsers s r.1 r.2
  | 5 => let p := toP (idx / 4)
    ((psys s p).walks.filter fun w => (w.flight.any fun f => f.pend.any fun x => siteOf s w f.node x.1 == .hub) && w.tenant == (unit s 5 idx).tenant).map fun w => (p, w.ref)
  | 6 => let p := toP idx
    ((psys s p).cmds.filter fun c => c.phase != .waiting && (c.opcode / 256 == 7 || !(streamsOf s p c).isEmpty)).map fun c => (p, c.ref)
  | 9 => let p := toP (idx / 64)
    ((psys s p).dma.filter (·.j == idx % 64)).filterMap fun r => r.ref.map (p, ·)
  | 10 => let p := toP (idx / 32)
    ((psys s p).cmds.filter (·.ring == idx % 32)).map fun c => (p, c.ref)
  | _ => []

/-- The transfers that a unit serves and no command runs: partition and channel. -/
def unitDma (s : State) (kind idx : Nat) : List (Fin 4 × Nat) :=
  allP.flatMap fun p => ((psys s p).dma.filter fun t => t.ref.isNone &&
    (if kind = 9 then 64 * p.val + t.j == idx
     else if kind = 3 ∨ kind = 4 ∨ kind = 8 then
       let r := unitRange s kind idx
       (!t.srcHost && t.srcPart == partId s && overlap r.1 r.2 (unalias s t.src) t.count) ||
       (!t.dstHost && t.dstPart == partId s && overlap r.1 r.2 (unalias s t.dst) t.count)
     else false)).map fun t => (p, t.j)

/-- Whether a unit's last user has ended. -/
def unitIdle (s : State) (kind idx : Nat) : Bool := (unitUsers s kind idx).isEmpty && (unitDma s kind idx).isEmpty

/-! ### Scrub (Table 17.1) -/

/-- Registers of the part returned to reset values, in both files. -/
def regKeysReset (l : List R) (p : Fin 4) (i : Nat) : Upd :=
  .regReset fun k => l.contains k.r && k.i == i && (k.r.desc.part || k.p == p)

def dmaRegs : List R := [.dmaSrc, .dmaDst, .dmaParts, .dmaCount, .dmaCtl, .dmaStatus, .dmaDesc, .dmaMoved]
def ringRegs : List R := [.ringCreditAddr, .ringCreditDest, .ringConsumed, .ringStatus, .ringErrcount]

/-- First slot and number of slots of a ring's configuration. -/
def ringSlots (w : Word) : Nat × Nat := (fld w 24 16, 2 ^ fld w 3 0)

/-- Whether a configuration names slots that exist. -/
def ringSlotsOk (w : Word) : Bool := decide (3 ≤ fld w 3 0) && decide (fld w 3 0 ≤ 9) && decide (fld w 24 16 + 2 ^ fld w 3 0 ≤ 512)

/-- Whether a configuration includes a slot. -/
def ringHas (w : Word) (slot : Nat) : Bool :=
  ringSlotsOk w && decide (fld w 24 16 ≤ slot) && decide (slot < fld w 24 16 + 2 ^ fld w 3 0)

/-- The ring a slot belongs to (R599). -/
def slotOwner (s : State) (p : Fin 4) (slot : Nat) : Option Nat :=
  match (List.range 32).find? fun r => bit (rd s .ringCfg p r) 63 && ringHas (rd s .ringCfg p r) slot with
  | some r => some r
  | none => (List.range 32).find? fun r => ringHas (rd s .ringCfg p r) slot

/-- The slots of a ring zeroed: those of its configuration that belong to it. -/
def slotsZero (p : Fin 4) (r : Nat) : Upd :=
  .read fun s => .each ((List.range 512).filter fun i => slotOwner s p i == some r) fun i => .winZero (p.val * 0x400000 + i * 0x2000) 0x2000

/-- A unit scrubbed. -/
def scrubUnit (kind idx : Nat) : Upd :=
  .read fun s =>
    let r := unitRange s kind idx
    match kind with
    | 3 | 8 => loftZero r.1 r.2
    | 4 => .each ((List.range (chan s idx).w).map (idx + ·)) fun k => .read fun s =>
        let h := (chan s k).log
        .seq [formatOne k (chan s k).w, chanMod k fun x => { x with log := h }]
    | 6 => .seq [textMod (toP idx) fun _ => TextSt.reset, .reg .textVocab (toP idx) 0 0]
    | 7 => regKeysReset [portShape (idx % 4)] 0 (idx / 4)
    | 9 => regKeysReset dmaRegs (toP (idx / 64)) (idx % 64)
    | 10 =>
      let p := toP (idx / 32)
      let j := idx % 32
      .seq [slotsZero p j, regKeysReset ringRegs p j,
        regNow .ringCfg p j fun w => w &&& maskOf 43 32,
        .regReset (fun k => k.r == .tally && k.p == p && k.i / 128 == j),
        .part p fun y => { y with
          landed := y.landed.filter (·.ring != j), ringNext := adel y.ringNext j, ringReported := adel y.ringReported j,
          ringEffect := y.ringEffect.filter (·.1 != j) }]
    | 11 => cohMod fun c => { c with events := c.events.filter (·.1 != idx) }
    | _ => .skip

/-- A DRAINING unit with no user left enters SCRUBBING and is scrubbed; a text unit's streams end first (R494, R301). -/
def scrubIfIdle (kind idx : Nat) : Upd :=
  .read fun s => .when ((unit s kind idx).state == .draining && unitIdle s kind idx) (.seq [unitMode kind idx .scrubbing, scrubUnit kind idx])

/-- The drain of a re-binding moved on. -/
def drainStep (r : Rebind) : Upd := .each r.units fun u => scrubIfIdle u.1 u.2.1

/-- The end of a drain (R492): every command still using a unit ends with CONTEXT_RESET and a record of cause REBIND. -/
def drainEnd (r : Rebind) : Upd :=
  .read fun s =>
    let users := (r.units.flatMap fun u => unitUsers s u.1 u.2.1).eraseDups.filter fun x => (cmdOf s x.1 x.2).isSome && !(x.1 == r.p && x.2 == r.ref)
    let seq := ((cmdOf s r.p r.ref).map (·.seq)).getD 0
    .seq [.each users fun x => .read fun s => match cmdOf s x.1 x.2 with
        | some c => endEarly x.1 c stContextReset { faultBase 0x06 1 with detail := natLE 8 seq ++ natLE 6 r.unbindFrame }
        | none => .skip,
      .each r.units fun u => .read fun s => .each (unitDma s u.1 u.2.1) fun x =>
        dmaStop x.1 x.2 (if u.1 = 9 then stContextReset else stNotBound) 0,
      rebindMod r.p r.ref fun r => { r with drained := true, ended := r.ended + users.length },
      regCount .bindCount 0 0 31 16 users.length, drainStep r]

/-- BIND (R492): the units that have no user are scrubbed; the unbind epoch comes first if the Bell has not made it. -/
def cmdBind (p : Fin 4) (ref : Nat) : Upd :=
  .read fun s =>
    match cmdOf s p ref with
    | none => .skip
    | some c =>
      if c.opcode ≠ 0x0A01 ∨ c.phase = .waiting then .skip
      else .seq [.when (c.phase == .admitted) (bindStart p c (frameNow s)),
        .read fun s => match rebindOf s p ref with | some r => drainStep r | none => .skip]

/-- BIND_DRAIN_END (R492): Bell step u + N_D. -/
def cmdBindDrainEnd (p : Fin 4) (ref : Nat) : Upd :=
  .read fun s => match rebindOf s p ref with
    | some r => .when (!r.drained && decide (r.drainEnd ≤ frameNow s)) (drainEnd r)
    | none => .skip

/-- UNIT_SCRUB (R492): a unit leaves DRAINING. -/
def cmdUnitScrub (kind idx : Nat) : Upd := scrubIfIdle kind idx

/-- The bind epoch (Table 17.4): the units enter BOUND under the new tenant, or UNBOUND, and BIND posts. -/
def bindEpoch (r : Rebind) (n : Nat) : Upd :=
  .seq [.each r.units fun u => .seq [
        unitSet u.1 u.2.1 { state := if r.unbind then .unbound else .bound, tenant := if r.unbind then 0 else r.tenant, since := n, partition := u.2.2 },
        .when (u.1 == 10 && !r.unbind) (regNow .ringCfg (toP (u.2.1 / 32)) (u.2.1 % 32) fun w => setFld w 43 32 r.tenant)],
    bindMod fun b => { b with rebinds := b.rebinds.filter fun x => !(x.p == r.p && x.ref == r.ref) },
    mapEpoch n, regCount .bindCount 0 0 63 32 1,
    .read fun s => match cmdOf s r.p r.ref with
      | some c => postReply r.p c stOk 0 (natLE 6 r.unbindFrame ++ natLE 6 n ++ natLE 4 r.ended) 0 n
      | none => .skip]

/-- Whether every unit of a re-binding is scrubbed. -/
def allScrubbed (s : State) (r : Rebind) : Bool := r.units.all fun u => (unit s u.1 u.2.1).state == .scrubbing

/-- BIND_EPOCH (R492): the first Bell step after the last scrub. -/
def cmdBindEpoch (p : Fin 4) (ref : Nat) : Upd :=
  .read fun s => match rebindOf s p ref with
    | some r => .when (allScrubbed s r) (bindEpoch r (frameNow s))
    | none => .skip

/-- Action 3 of Bell step n for re-bindings under way: their bind epoch, or their drain moved on. -/
def bindBell (n : Nat) : Upd :=
  .read fun s => .each s.sys.bind.rebinds fun r => .read fun s =>
    if allScrubbed s r then bindEpoch r n else drainStep r

/-- Before action 6 of Bell step n: drains that end. -/
def drainBell : Upd := .read fun s => .each s.sys.bind.rebinds fun r => cmdBindDrainEnd r.p r.ref

/-! ### BIND_READ and LEDGER_READ -/

def readEntry (c : Cmd) : UnitEntry := unitEntry (par c 0 8)

/-- BIND_READ (0x0A02). -/
def specBindRead : OpSpec :=
  { permit := fun s _ c => c.tenant == 0 || !(readEntry c).ok || (readEntry c).indices.all fun i =>
      (unit s (readEntry c).kind i).state == .bound && (unit s (readEntry c).kind i).tenant == c.tenant
    len := fun _ _ _ => 8
    range := fun _ _ c => firstBad [(!(readEntry c).ok || decide (64 < (readEntry c).count), 64)]
    body := fun _ _ c => 16 * (readEntry c).count }

def unitStateCode : UnitState → Nat
  | .unbound => 0 | .bound => 1 | .draining => 2 | .scrubbing => 3 | .disabled => 4

def cmdBindRead (p : Fin 4) (ref : Nat) : Upd :=
  withCmd p ref 0x0A02 fun c => .read fun s =>
    postReply p c stOk 0 ((readEntry c).indices.flatMap fun i =>
      let u := unit s (readEntry c).kind i
      natLE 2 u.tenant ++ natLE 1 (unitStateCode u.state) ++ zeros 1 ++ natLE 6 u.since ++ zeros 6)

/-- A tenant's record in the snapshot (Table 17.7). -/
def ledgerBytes (s : State) (tenant : Nat) : Bytes :=
  (List.range 16).flatMap fun i => natLE 8 ((aget s.sys.bind.snapshot (16 * tenant + i)).getD 0)

/-- LEDGER_READ (0x0A03). -/
def specLedgerRead : OpSpec :=
  { permit := fun _ _ c => c.tenant == 0 || (par c 0 2 == c.tenant && par c 2 2 == 1)
    len := fun _ _ _ => 8
    range := fun s _ c => firstBad [(decide (s.fuse.maxTenants < par c 0 2 + par c 2 2), 64), (decide (64 < par c 2 2), 66), (par c 4 4 != 0, 68)]
    body := fun _ _ c => 8 + 128 * par c 2 2
    zero := fun _ _ c => if par c 2 2 = 0 then some [] else none }

def cmdLedgerRead (p : Fin 4) (ref : Nat) : Upd :=
  withCmd p ref 0x0A03 fun c => .read fun s =>
    postReply p c stOk 0 (natLE 6 (fld (rd s .ledgerSnap 0) 47 0) ++ zeros 2 ++
      (List.range (par c 2 2)).flatMap fun i => ledgerBytes s (par c 0 2 + i))

/-- LEDGER_WIN shows the record of LEDGER_CTL.TENANT in the snapshot (Table 17.11). -/
def ledgerWindow : Upd :=
  .each (List.range 16) fun i => .read fun s =>
    .reg .ledgerWin 0 i (BitVec.ofNat 64 ((aget s.sys.bind.snapshot (16 * fld (rd s .ledgerCtl 0) 11 0 + i)).getD 0))

/-- Action 2 of Bell step n (R499): held units counted for the frame just ended, every counter copied into the snapshot. -/
def ledgerBell (n : Nat) : Upd :=
  .seq [
    .read fun s => .each (s.sys.bind.units.filter fun c => c.2.state == .bound && !(s.fuse.disabled.contains (c.1 / 1048576, c.1 % 1048576))) fun c =>
      match c.1 / 1048576 with
      | 1 => ledger c.2.tenant 13 1 | 3 => ledger c.2.tenant 14 1 | 8 => ledger c.2.tenant 15 1 | _ => .skip,
    .read fun s => .each allP fun p => .seq [.each (psys s p).walks (fun w => ledger w.tenant 12 w.slots.length),
      .each (psys s p).cmds fun c => ledger c.tenant 12 c.slots.length],
    bindMod fun b => { b with snapshot := b.ledger },
    regMod .ledgerSnap 0 0 fun w => setFld w 47 0 n, ledgerWindow]

def execBind (p : Fin 4) (ref : Nat) (s : State) : Host.Outcome State Fault Refusal := (cmdBind p ref).go s
def execBindDrainEnd (p : Fin 4) (ref : Nat) (s : State) : Host.Outcome State Fault Refusal := (cmdBindDrainEnd p ref).go s
def execUnitScrub (kind index : Nat) (s : State) : Host.Outcome State Fault Refusal := (cmdUnitScrub kind index).go s
def execBindEpoch (p : Fin 4) (ref : Nat) (s : State) : Host.Outcome State Fault Refusal := (cmdBindEpoch p ref).go s
def execBindRead (p : Fin 4) (ref : Nat) (s : State) : Host.Outcome State Fault Refusal := (cmdBindRead p ref).go s
def execLedgerRead (p : Fin 4) (ref : Nat) (s : State) : Host.Outcome State Fault Refusal := (cmdLedgerRead p ref).go s

end Sys2Proof.Machine
end

