-- ==== Sys2Proof/Machine/Faults.lean ====
section
/-!
DEFINITION. Faults and resets below the part (R503 to R522): ending commands for a reset, engine and partition resets, the dump.
-/

namespace Sys2Proof.Machine

/-! ### Engines (Table 18.3) -/

/-- ENGINE_KIND. -/
def engineCode : EngineKind → Nat
  | .mill => 1 | .stackEngine => 2 | .flashChannel => 3 | .textUnit => 4 | .dmaChannel => 5 | .laneGroup => 6 | .droverInput => 7
  | .sorterInput => 8 | .stewardCore => 9

/-- The engines of a kind in a partition. -/
def enginesPer : EngineKind → Nat
  | .mill => 48 | .stackEngine => 6 | .flashChannel => 8 | .textUnit => 1 | .dmaChannel => 64 | .laneGroup => 4 | .droverInput => 1
  | .sorterInput => 1 | .stewardCore => 2

def engineKinds : List EngineKind :=
  [.mill, .stackEngine, .flashChannel, .textUnit, .dmaChannel, .laneGroup, .droverInput, .sorterInput, .stewardCore]

/-- The engine kind of a code. -/
def engineOf (code : Nat) : Option EngineKind := engineKinds.find? fun k => engineCode k == code

/-- The partition of an engine, and whether there is one of an index. -/
def engineP (k : EngineKind) (i : Nat) : Fin 4 := toP (i / enginesPer k)
def engineExists (k : EngineKind) (i : Nat) : Bool := decide (i < 4 * enginesPer k)

/-- The channel of a shard's page-block or code in the Cellar window. -/
def walkChan (s : State) (w : Walk) (node : Nat) : Option Nat :=
  if rPlacement w.rcdNow = 0 then none else some (channelOf s (nodeAddr w.rcdNow w.degree w.codeBytes node))

/-- The commands that have work in an engine. -/
def engineUsers (s : State) (k : EngineKind) (i : Nat) : List (Fin 4 × Nat) :=
  let p := engineP k i
  let y := psys s p
  let flies (t : Walk → Flight → Bool) : List (Fin 4 × Nat) := (y.walks.filter fun w => w.flight.any (t w)).map fun w => (p, w.ref)
  match k with
  | .mill => unitUsers s 1 i
  | .stackEngine => flies fun w f => f.pend.any fun x => siteOf s w f.node x.1 == .stack i
  | .flashChannel => flies (fun w f => walkChan s w f.node == some i) ++
      (y.ingests.filter fun g => g.commit.isNone && decide (g.dst < 2 ^ 49) && (unitsIn g.dst g.bytes).any fun a => channelOf s a == i).map
        fun g => (p, g.ref)
  | .textUnit => unitUsers s 6 i
  | .dmaChannel => unitUsers s 9 i
  | .laneGroup => unitUsers s 5 i
  | .droverInput => (y.walks.filter fun w => w.state == .active || w.state == .finishing).map fun w => (p, w.ref)
  | .sorterInput => y.sels.filterMap fun x => ((y.walks.find? (·.id == x.walk))).map fun w => (p, w.ref)
  | .stewardCore => []

/-! ### Ends of commands -/

/-- A command ended by a reset whose record is written (R77, R511). The part's own commands end without a status; Utertil commands
without a reply (R597). -/
def endByReset (p : Fin 4) (c : Cmd) (status ref : Nat) : Upd :=
  .seq [abandon p c status ref,
    if c.ring < 34 then postReply p c status 0 [] ref else .part p fun y => { y with cmds := y.cmds.filter (·.ref != c.ref) },
    .when (decide (c.ring < 34)) (ghost p c)]

def endUser (status ref : Nat) (x : Fin 4 × Nat) : Upd :=
  .read fun s => match cmdOf s x.1 x.2 with | some c => endByReset x.1 c status ref | none => .skip

/-! ### Engine reset (level 2) -/

/-- What an engine itself loses (Table 18.7): every stream of a text unit (R301); a DMA channel stops with ERR_CODE ENGINE_RESET. -/
def engineClear (k : EngineKind) (i ref : Nat) : Upd :=
  let p := engineP k i
  match k with
  | .textUnit => .read fun s => .each (psys s p).text.streams fun t => streamFail p t.handle ref
  | .dmaChannel => .seq [dmaStop p (i % 64) stEngineReset ref, dmaForget p (· == i % 64),
      dmaIdle p (i % 64) fun w => setFld (setBit w 62 true) 47 32 stEngineReset]
  | _ => .skip

/-- A reset of an engine (R503 level 2, R508): the record, the commands with work in it ended, its state cleared. -/
def engineReset (k : EngineKind) (i : Nat) (r : FaultRec) : Upd :=
  let p := engineP k i
  .read fun s =>
    let ref := nextFaultRef s p
    .seq [fault p { r with level := 2, engineKind := engineCode k, engine := i },
      regCount .faultCount p 0 31 16 1,
      .each ((engineUsers s k i).eraseDups) (endUser stEngineReset ref), engineClear k i ref]

/-! ### The dump (R517 to R520) -/

def faultMod (p : Fin 4) (f : FaultSt → FaultSt) : Upd := .part p fun y => { y with faults := f y.faults }

/-- DUMP_MODE. -/
def dumpMode (s : State) (p : Fin 4) : Nat := fld (lv s .faultCtl p) 3 2

/-- A partition's dump taken for a fault, or skipped while one is held (R518). -/
def dumpTake (p : Fin 4) (cause ref : Nat) : Upd :=
  .read fun s =>
    let f := (psys s p).faults
    if dumpMode s p = 0 then .skip
    else if f.dump.isSome then
      .seq [fault p { faultBase 0x12 0 with detail := natLE 4 ((f.dump.map (·.faultRef)).getD 0) },
        regSetBit .faultStatus p 0 60]
    else
      let d : Dump := {
        cause, frame := frameNow s, faultRef := ref, mode := dumpMode s p, sampleOff := fld (lv s .faultCtl p) 43 33,
        sampleKib := fld (lv s .faultCtl p) 32 22, partId := partId s, records := (f.records.take 4096).reverse,
        tallies := (s.regs.filter fun c => c.1.r == .tally && c.1.p == p).map fun c => (c.1.i, c.2),
        locked := s.fuse.debugLock, free := s.sys.free }
      .seq [.sys fun y => { y with free := y.free + 1 }, faultMod p fun f => { f with dump := some d, mirroring := true },
        markRecord ref (fun r => { r with dumped := true }), regSetBit .faultStatus p 0 63]

/-- A byte that the spec does not fix (the firmware's layout, the scratchpads). -/
def dumpFree (d : Dump) (off : Nat) : Byte := BitVec.ofNat 8 (Config.pick (opKey d.free + off) 256)

/-- The header of a dump but for its digest (Table 18.6). -/
def dumpHead (p : Fin 4) (d : Dump) (digest : Bytes) : Bytes :=
  padTo 65536 ([0x56, 0x58, 0x44, 0x50] ++ natLE 2 0x0100 ++ natLE 1 p.val ++ natLE 1 d.mode ++ natLE 3 d.partId ++ zeros 1 ++
    natLE 2 d.cause ++ zeros 2 ++ natLE 6 d.frame ++ zeros 2 ++ natLE 4 d.faultRef ++ natLE 2 d.sampleOff ++ natLE 2 d.sampleKib ++
    padTo 32 digest ++ [1])

/-- A byte of a dump after its header: records, tallies, then what the firmware lays out, and the scratchpad samples. -/
def dumpBody (d : Dump) (off : Nat) : Byte :=
  let state := d.mode != 2
  if off < 0x90000 then
    let i := (off - 0x10000) / 128
    if !state then dumpFree d off
    else match d.records[i]? with | some r => (faultBytes r)[(off - 0x10000) % 128]?.getD 0 | none => 0
  else if off < 0x98000 then
    if !state then dumpFree d off
    else
      let v := ((d.tallies.find? fun t => t.1 == (off - 0x90000) / 8).map (·.2.toNat)).getD 0
      (natLE 8 v)[(off - 0x90000) % 8]?.getD 0
  else if off < 0x1000000 then dumpFree d off
  else if off < 0x4000000 then
    if d.mode < 2 then dumpFree d off
    else if d.locked || decide (d.sampleKib * 1024 ≤ off % 0x100000) then 0
    else dumpFree d off
  else dumpFree d off

/-- A byte of a dump. -/
def dumpByte (p : Fin 4) (d : Dump) (off : Nat) : Byte :=
  if off < 65536 then
    let digest := Config.sm3 ((List.range (0x4000000 - 0x10000)).map fun i => dumpBody d (0x10000 + i))
    (dumpHead p d digest)[off]?.getD 0
  else dumpBody d off

/-- DUMP_MIRROR (R519): the first write of the mirror makes the old one invalid; its header, written last, completes it. -/
def cmdDumpMirror (p : Fin 4) (done : Bool) : Upd :=
  .read fun s =>
    let f := (psys s p).faults
    .when (f.mirroring && f.dump.isSome)
      (if done then .seq [faultMod p fun f => { f with mirror := f.dump, mirroring := false }, regSetBit .faultStatus p 0 61]
       else .seq [faultMod p fun f => { f with mirror := none }, regMod .faultStatus p 0 fun w => setBit w 61 false])

/-- DUMP_READ (0x0903). -/
def specDumpRead : OpSpec :=
  { permit := fmOnly, len := fun _ _ _ => 16
    range := fun _ _ c => firstBad [(decide (3 < par c 0 1), 64), (decide (1 < par c 1 1), 65), (par c 2 2 != 0, 66)]
    body := fun _ _ c => 32 + par c 4 4
    zero := fun _ _ c => if par c 4 4 = 0 then some [] else none }

def cmdDumpRead (p : Fin 4) (ref : Nat) : Upd :=
  withCmd p ref 0x0903 fun c => .read fun s =>
    let q := toP (par c 0 1)
    let f := (psys s q).faults
    match (if par c 1 1 = 0 then f.dump else f.mirror) with
    | some d => postReply p c stOk 0 ((List.range (par c 4 4)).map fun i => dumpByte q d (par c 8 8 + i))
    | none => postPlain p c stShort 0

/-- DUMP_CLEAR (0x0904). -/
def specDumpClear : OpSpec :=
  { permit := fmOnly, len := fun _ _ _ => 8, range := fun _ _ c => firstBad [(decide (3 < par c 0 1), 64), (par c 1 7 != 0, 65)] }

def cmdDumpClear (p : Fin 4) (ref : Nat) : Upd :=
  withCmd p ref 0x0904 fun c =>
    let q := toP (par c 0 1)
    .seq [faultMod q fun f => { f with dump := none, mirroring := false }, regMod .faultStatus q 0 fun w => setBit w 63 false,
      postPlain p c stOk 0]

/-! ### Partition reset (level 3) -/

/-- The pages that a partition reset returns to reset values (Table 18.7), and the tallies. -/
def partitionPages : List Nat := [0x03, 0x04, 0x05, 0x07, 0x08, 0x0B, 0x0E, 0x17, 0x18]

/-- A shard after a partition reset: a shelf build that has not retired its old shelf ends (R158). -/
def shardReset (h : Shard) : Shard :=
  match h.shelfState with
  | .building | .replaying => { h with shelfState := .aborted, delta := [] }
  | _ => h

/-- A partition's data after its reset (Table 18.7): what is kept of it. -/
def partKept (y : PSys) : PSys :=
  { y with
    cmds := [], landed := [], ringNext := [], ringReported := [], ringEffect := [], shareIn := [], shareWrites := [],
    shards := y.shards.map shardReset, walks := [], sels := [], starts := 0, stage := y.stage.filter (·.commit.isSome),
    shares := y.shares.filter (·.kind != .command), text := TextSt.reset, mill := { MillSt.reset with objs := y.mill.objs },
    dma := [], dmaTally := [], ingests := y.ingests.filter (·.commit.isSome),
    faults := { y.faults with day := y.faults.day.map fun r => if r.partnerDurable then r else { r with sent := false } },
    ut := { UtSt.reset with stage := y.ut.stage } }

/-- The ring registers after a partition reset: ENABLE 0, CONSUMED, RING_STATUS and RING_ERRCOUNT 0; the rest kept. -/
def ringsOff (p : Fin 4) : Upd :=
  .seq [.each (List.range 32) fun r => regNow .ringCfg p r fun w => setBit w 63 false,
    .regReset fun k => k.p == p && (k.r == .ringConsumed || k.r == .ringStatus || k.r == .ringErrcount)]

/-- The hot rows of a partition lost (Table 18.7). -/
def hotLost (p : Fin 4) : Upd :=
  .seq [.part p fun y => { y with tables := y.tables.map fun t => { t with
      hot := [], hotNext := none, half0 := [], half1 := [], active := none, copying := none, ready := none } }, hotTables p]

/-- Those of a partition's shares that a partner applies or a cut-over drained and that `which` names: their entries begun again, those
of a partner at the next Bell. -/
def sharesAgain (p : Fin 4) (which : UpdShare → Bool) : Upd :=
  .read fun s => .each ((psys s p).shares.filter which) fun x => .seq [unstage p x, .read fun s =>
    match shareOf s p x.ref x.coll x.shard, shardOf s p x.coll x.shard, collOf s x.coll with
    | some y, some h, some k => .when (y.kind == .drained) (shareRun p y h k.desc)
    | _, _, _ => .skip]

/-- A partition reset (R503 level 3): the record, the dump, its commands ended with PARTITION_RESET, its engines and contexts
cleared, the domains it homes failed (HOME_RESET), the drain of its units under re-binding ended (R493). `keep`: a RESET of the
partition that still has to post. -/
def partitionReset (p : Fin 4) (r : FaultRec) (dump : Bool) (keep : Option Nat) : Upd :=
  .read fun s =>
    let ref := nextFaultRef s p
    .seq [fault p { r with level := 3 }, .when dump (dumpTake p r.cause ref), regCount .faultCount p 0 15 0 1,
      .each ((psys s p).cmds.filter fun c => keep != some c.ref) (fun c => endUser stPartitionReset ref (p, c.ref)),
      .each (domainsHomed s p) (fun d => cohFail d 6 0xFF false),
      dmaForget p (fun _ => true), .part p (fun y => { partKept y with cmds := y.cmds.filter fun c => keep == some c.ref }),
      .regReset (fun k => k.p == p && partitionPages.contains k.r.desc.page && !k.r.desc.part), ringsOff p, hotLost p, sharesAgain p (fun _ => true),
      .read fun s => .each s.sys.bind.rebinds fun b =>
        .each (b.units.filter fun u => unitPartition s u.1 u.2.1 == p.val) fun u => scrubIfIdle u.1 u.2.1]
where
  /-- The domains with a region homed in a partition. -/
  domainsHomed (s : State) (p : Fin 4) : List Nat := ((s.sys.coh.regions.filter (·.p == p)).map (·.dom)).eraseDups

/-! ### FAULT_READ -/

/-- FAULT_READ (0x0901). -/
def specFaultRead : OpSpec :=
  { len := fun _ _ _ => 8, range := fun _ _ c => firstBad [(decide (64 < par c 4 2), 68), (par c 6 2 != 0, 70)]
    body := fun _ _ c => 128 * par c 4 2
    zero := fun _ _ c => if par c 4 2 = 0 then some [] else none }

/-- The sequence number i places after a first one, in the ring's order: 0 is skipped. -/
def seqAfter (first i : Nat) : Nat := if first + i < 2 ^ 30 then first + i else (first + i) % 2 ^ 30 + 1

/-- FAULT_READ (R512): a record no longer held, or of another tenant, is returned with INDEX alone. -/
def cmdFaultRead (p : Fin 4) (ref : Nat) : Upd :=
  withCmd p ref 0x0901 fun c => .read fun s =>
    let q := toP (par c 0 4 / 2 ^ 30)
    postReply p c stOk 0 ((List.range (par c 4 2)).flatMap fun i =>
      let index := q.val * 2 ^ 30 + seqAfter (par c 0 4 % 2 ^ 30) i
      match (psys s q).faults.records.find? (·.index == index) with
      | some r => if c.tenant = 0 ∨ r.tenant = c.tenant then faultBytes r else natLE 4 index ++ zeros 124
      | none => natLE 4 index ++ zeros 124)

/-! ### Hangs -/

/-- ENGINE_HANG (R504): the record of cause HANG and the engine's reset. -/
def cmdEngineHang (k : EngineKind) (i op cycles : Nat) : Upd :=
  .when (engineExists k i && k != .stewardCore) (engineReset k i { faultBase 0x02 2 with detail := natLE 4 op ++ natLE 4 cycles })

/-- SRAM_UNCORRECTABLE (Table 18.4): the engine it belongs to is reset, or the partition when it hits control state. -/
def cmdSramUncorrectable (p : Fin 4) (macroNo offset : Nat) (e : Option (EngineKind × Nat)) : Upd :=
  let r := { faultBase 0x0B 0 with detail := natLE 4 macroNo ++ natLE 4 offset }
  match e with
  | some (k, i) => .when (engineExists k i && k != .stewardCore) (engineReset k i r)
  | none => partitionReset p r true none

def execFaultRead (p : Fin 4) (ref : Nat) (s : State) : Host.Outcome State Fault Refusal := (cmdFaultRead p ref).go s
def execDumpRead (p : Fin 4) (ref : Nat) (s : State) : Host.Outcome State Fault Refusal := (cmdDumpRead p ref).go s
def execDumpClear (p : Fin 4) (ref : Nat) (s : State) : Host.Outcome State Fault Refusal := (cmdDumpClear p ref).go s
def execDumpMirror (p : Fin 4) (done : Bool) (s : State) : Host.Outcome State Fault Refusal := (cmdDumpMirror p done).go s
def execEngineHang (kind : EngineKind) (index op cycles : Nat) (s : State) : Host.Outcome State Fault Refusal :=
  (cmdEngineHang kind index op cycles).go s
def execSramUncorrectable (p : Fin 4) (macroNo offset : Nat) (engine : Option (EngineKind × Nat)) (s : State) :
    Host.Outcome State Fault Refusal := (cmdSramUncorrectable p macroNo offset engine).go s

end Sys2Proof.Machine
end

