-- ==== Sys2Proof/Machine/Utertil.lean ====
section
/-!
DEFINITION. Utertil compatibility mode (R583 to R598): the enable checks, the command ring, and the table.
-/

namespace Sys2Proof.Machine

def utMod (p : Fin 4) (f : UtSt → UtSt) : Upd := .part p fun y => { y with ut := f y.ut }
def utCfgErr (p : Fin 4) : Upd := regSetBit .utStatus p 0 63
def utOn (s : State) (p : Fin 4) : Bool := bit (lv s .utCtl p) 63
def utTenant (s : State) (p : Fin 4) : Nat := fld (lv s .utCtl p) 43 32

/-! ### Registers (R583) -/

/-- Whether UT_BASE, as written, names memory that may back a quarter for a tenant. -/
def utBaseOk (s : State) (p : Fin 4) (tenant : Nat) : Bool :=
  let b := fld (rd s .utBase p) 49 30 * 0x40000000
  regionOf b == .loft && stackOf b / 6 == p.val && !(isReserved (b + 0x3FFFFFFF)) && rangeBound s tenant b 0x40000000

/-- A write of UT_CTL (R583); a tenant that does not exist is refused as R484 says. -/
def utCtlWrite (p : Fin 4) (v : Word) : Upd :=
  .read fun s =>
    let old := rd s .utCtl p
    let held := bit old 63 && (fld v 43 32 != fld old 43 32 || fld v 15 0 != fld old 15 0 || bit v 56 != bit old 56)
    let ok := s.fuse.utertilAllow && utBaseOk s p (fld v 43 32) && (s.sys.colls.all (·.id != fld v 15 0))
    if held ∨ s.fuse.maxTenants ≤ fld v 43 32 ∨ (bit v 63 ∧ !(bit old 63) ∧ !ok) then utCfgErr p else plainWrite .utCtl p 0 v

/-- A write of UT_BASE: one that changes it while ENABLE is 1 is discarded. -/
def utBaseWrite (p : Fin 4) (v : Word) : Upd :=
  .read fun s => if bit (rd s .utCtl p) 63 ∧ fld v 49 30 ≠ fld (rd s .utBase p) 49 30 then utCfgErr p else plainWrite .utBase p 0 v

/-- UT_ENABLE: a write of UT_CTL. -/
def cmdUtEnable (w : Issuer) (p : Fin 4) (v : Word) : Upd := ctlReg w p .utCtl 0 (utCtlWrite p v)

/-- UT_TAIL_WRITE (R587): an engine or peer of the tenant writes TAIL. -/
def cmdUtTailWrite (w : Issuer) (p : Fin 4) (v : Word) : Upd :=
  .read fun s =>
    let a := utBaseOf s p
    match issuerTenant s w with
    | none => .skip
    | some t =>
      if !(utOn s p) then memErr .unmapped w.partition (sourceCode w.agent) (0x1F000000000 + p.val * 0x40000000)
      else if access s w.partition t a 8 true = .ok then .seq [memStore a (natBE 8 v.toNat), chargeWrite s t a 8]
      else memErr .unmapped w.partition (sourceCode w.agent) a

/-! ### The command ring (R586 to R591) -/

def utHead (s : State) (p : Fin 4) : Nat := utWord s p 8
def utTail (s : State) (p : Fin 4) : Nat := utWord s p 0

/-- The ring stopped at a bad packet (R589). The notice's kind is not among those of Table 18.4. -/
def utStop (p : Fin 4) : Upd :=
  .seq [utMod p fun u => { u with stopped := true, awake := false }, regSetBit .utStatus p 0 62, regCount .utCount p 0 31 16 1,
    .read fun s => .fresh fun v => crier (v.toNat % 65536) p.val 0 (utTenant s p) 0 []]

/-- Bytes of the packet at HEAD. -/
def utPacket (s : State) (p : Fin 4) (n : Nat) : Bytes := Mem.readBytes s.mem (utBaseOf s p + 0x1000 + 8 * utHead s p) n

/-- The largest reply of a packet, in 8-byte units. -/
def utNeed (op k : Nat) : Nat := if op = 1 ∧ 0 < k ∧ k ≤ 100 then 3 + k else if op = 1 ∧ k = 0 then 3 else 2

/-- Units of the reply ring taken from RTAIL on by replies of given lengths, PADs included: place and units. -/
def utRoom (rtail : Nat) (needs : List Nat) : Nat × Nat :=
  needs.foldl (fun x n => if 131072 < x.1 + n then (n % 131072, x.2 + (131072 - x.1) + n) else ((x.1 + n) % 131072, x.2 + n)) (rtail, 0)

/-- Lengths of the replies still to be written, oldest first: those held, and those of commands not yet answered. -/
def utOwed (s : State) (p : Fin 4) : List Nat :=
  let held := (psys s p).ut.held.map fun h => (h.1, h.2.length / 8)
  let open' := ((psys s p).cmds.filter (·.ring == 34)).map fun c => (c.ref, c.aux)
  (sortBy (fun a b => a.1 < b.1) (held ++ open')).map (·.2)

/-- Whether the reply ring has room for one more reply of a length. -/
def utFits (s : State) (p : Fin 4) (need : Nat) : Bool :=
  let rtail := utWord s p 16 % 131072
  decide ((utRoom rtail (utOwed s p ++ [need])).2 ≤ (utWord s p 24 + 131072 * 2 - rtail - 1) % 131072)

/-- Why no packet can be taken at HEAD, or the packet's header: none: the ring is empty, or its packet is not whole yet. -/
inductive UtNext where
  | idle
  | bad
  | packet (h : Bytes) (len : Nat)
  deriving DecidableEq, Repr

/-- The packet at HEAD (R586, R588, R589). -/
def utNext (s : State) (p : Fin 4) : UtNext :=
  let head := utHead s p
  let tail := utTail s p
  let h := utPacket s p 16
  let len := beNat (h.take 2)
  if (psys s p).ut.beyond ∨ 131072 ≤ head then .bad
  else if head = tail then .idle
  else if len < 2 ∨ 512 < len ∨ 131072 < head + len ∨ byteAt h 3 ≠ 0 ∨ leAt h 10 6 ≠ 0 then .bad
  else if (tail + 131072 - head) % 131072 < len then .idle
  else .packet h len

/-- HEAD advanced past a packet, which is accepted. -/
def utAdvance (p : Fin 4) (len : Nat) : Upd :=
  .seq [.read fun s => memStore (utBaseOf s p + 8) (natBE 8 ((utHead s p + len) % 131072)), regCount .utCount p 0 63 32 1]

/-- The timeout of a packet in frames (R591). -/
def utTimeout (s : State) (ms : Nat) : Nat := min 65535 (ceilDiv ((if ms = 0 then 1 else ms) * 1000) (bellUs s))

/-- A packet as a command of the partition: fenced, class by R598, its body as parameters. -/
def utCmd (s : State) (p : Fin 4) (h : Bytes) (body : Bytes) (need : Nat) : Cmd :=
  let op := byteAt h 2
  { cmdFrom [] (psys s p).nextRef 34 (utTenant s p) (frameNow s) false (partId s) p.val with
    opcode := 0x0F00 + op, flags := 2, cls := if op = 1 ∧ bit (lv s .utCtl p) 56 then 0 else 1, timeout := utTimeout s (beNat (sub' h 8 2))
    seq := beNat (sub' h 4 4), params := body, aux := need }
where
  sub' (b : Bytes) (off n : Nat) : Bytes := (b.drop off).take n

/-- The Steward's reading of the ring where it may read: on, not stopped, woken. -/
def utRead (p : Fin 4) (u : State → Bytes → Nat → Upd) : Upd :=
  .read fun s =>
    if !(utOn s p) || (psys s p).ut.stopped || !((psys s p).ut.awake || (psys s p).ut.beyond) then .skip
    else match utNext s p with
      | .bad => utStop p
      | .idle => utMod p fun x => { x with awake := false }
      | .packet h len => u s h len

/-- UT_PACKET_TAKE (R587): a packet other than PAD is accepted when the reply ring has room for its largest reply. -/
def cmdUtPacketTake (p : Fin 4) : Upd :=
  utRead p fun s h len =>
    let body := (utPacket s p (8 * len)).drop 16
    let need := utNeed (byteAt h 2) (beNat (body.take 2))
    .when (byteAt h 2 != 0 && utFits s p need)
      (.seq [utAdvance p len, .part p fun y => { y with nextRef := y.nextRef + 1, cmds := y.cmds ++ [utCmd s p h body need] }])

/-- UT_PAD (R586): HEAD passes a PAD packet, which has no reply. -/
def cmdUtPad (p : Fin 4) : Upd := utRead p fun _ h len => .when (byteAt h 2 == 0) (utAdvance p len)

/-! ### The table (Table 21.2) -/

def utHigh (s : State) (p : Fin 4) : Nat := fld (rd s .utStatus p) 23 0
def utStateAddr (s : State) (p : Fin 4) (i : Nat) : Nat := utBaseOf s p + 0x201000 + i / 4
def utBiasAddr (s : State) (p : Fin 4) (i : Nat) : Nat := utBaseOf s p + 0x601000 + 2 * i
def utCodeAddr (s : State) (p : Fin 4) (i : Nat) : Nat := utBaseOf s p + 0x2601000 + 32 * i

/-- The state of an ID: 0 free, 1 live, 2 tombstoned. -/
def utIdState (s : State) (p : Fin 4) (i : Nat) : Nat := (Mem.read s.mem (utStateAddr s p i)).toNat / 4 ^ (i % 4) % 4

/-- The distance of an ID to a query (R592). -/
def utDist (s : State) (p : Fin 4) (weight : Nat) (query : Bytes) (i : Nat) : Nat :=
  min 0xFFFF (weight * hamming query (Mem.readBytes s.mem (utCodeAddr s p i) 32) + beNat (Mem.readBytes s.mem (utBiasAddr s p i) 2))

/-- A field of a packet's body, by its offset in the packet, big-endian. -/
def utField (c : Cmd) (off n : Nat) : Nat := beNat ((c.params.drop (off - 16)).take n)

/-- Better first: the smaller distance; among equals the higher ID. -/
def utBefore (a b : Nat × Nat) : Bool := a.2 < b.2 || (a.2 == b.2 && b.1 < a.1)

/-- The reply body of a SEARCH (Table 21.4) for the live IDs, sorted, as (ID, distance). -/
def utSearchBody (k : Nat) (row : List (Nat × Nat)) : Bytes :=
  let best := row.take k
  let tied := if best.length < k then 0 else match best.getLast? with
    | some x => (row.drop k).countP (·.2 == x.2)
    | none => 0
  natBE 2 best.length ++ natBE 2 (min tied 65535) ++ zeros 4 ++
  (best.flatMap fun x => natBE 3 x.1 ++ zeros 1 ++ natBE 2 x.2 ++ zeros 2) ++
  ((List.replicate (k - best.length) (natBE 3 0xFFFFFF ++ zeros 1 ++ natBE 2 0xFFFF ++ zeros 2)).flatten)

/-- A Utertil command's operation: its packet's length as Table 21.4 gives it, else BAD_PARAM naming LEN8. -/
def utRun (p : Fin 4) (ref opcode : Nat) (bytes : Cmd → Nat) (u : State → Cmd → Upd) : Upd :=
  withCmd p ref opcode fun c => .read fun s =>
    if c.params.length + 16 ≠ roundUp (bytes c) 8 then postPlain p c stBadParam 0
    else if !(rangeHolds s c.tenant (utBaseOf s p) 0x40000000) then
      .seq [memErr .unmapped p 0 (utBaseOf s p), postPlain p c stNotBound 0]
    else u s c

/-- K of a SEARCH. -/
def utK (c : Cmd) : Nat := utField c 16 2

/-- Whether a SEARCH's distances have been returned. -/
def utScanned (s : State) (p : Fin 4) (ref : Nat) : Bool := (psys s p).ut.scan.any (·.1 == ref)

/-- SCAN for a SEARCH (R592): the distances of the live IDs below HIGH, unless the codes hold poison or it has been done. -/
def utScan (p : Fin 4) (c : Cmd) : Upd :=
  .read fun s =>
    let weight := if utField c 18 1 = 0 then 1 else utField c 18 1
    let query := (c.params.drop 8).take 32
    let ids := (List.range (utHigh s p)).filter fun i => utIdState s p i == 1
    .when (!(utScanned s p c.ref) && (poisonIn s (utCodeAddr s p 0) (32 * utHigh s p)).isNone)
      (.seq [ledger c.tenant 5 ids.length, ledger c.tenant 6 ids.length, stackPairs (stackOf (utBaseOf s p)) ids.length,
        utMod p fun u => { u with scan := some (c.ref, ids.map fun i => (i, utDist s p weight query i)) }])

/-- STACK_SCAN (Table 11.3): the engine of the stack that holds the table scans for a SEARCH that is admitted. -/
def cmdStackScan (k : Fin 24) (p : Fin 4) (ref : Nat) : Upd :=
  withCmd p ref 0x0F01 fun c => .read fun s =>
    .when (stackOf (utBaseOf s p) == k.val && c.params.length == 40 && decide (0 < utK c) && decide (utK c ≤ 100) &&
      rangeHolds s c.tenant (utBaseOf s p) 0x40000000) (utScan p c)

/-- UT_SEARCH (R592, R593): the selection of the K best of the scan; it waits while the Sorter has no register for it (R166). -/
def cmdUtSearch (p : Fin 4) (ref : Nat) : Upd :=
  utRun p ref 0x0F01 (fun _ => 56) fun s c =>
    if 100 < utK c then postPlain p c stBadParam 16
    else if utK c = 0 then postReply p c stOk 0 (utSearchBody 0 [])
    else if !(registerLeft (psys s p) c.cls) then .skip
    else if !(utScanned s p ref) ∧ (poisonIn s (utCodeAddr s p 0) (32 * utHigh s p)).isSome then
      let l := (poisonIn s (utCodeAddr s p 0) (32 * utHigh s p)).getD 0
      .seq [memErr .poison p 3 l, fault p (faultOf s p c { faultBase 0x0C 0 with addr := l }), postPlain p c stPoisoned 0]
    else .seq [utScan p c, .read fun s =>
      let row := sortBy utBefore (((psys s p).ut.scan.map (·.2)).getD [])
      postReply p c (if row.length < utK c then stShort else stOk) 0 (utSearchBody (utK c) row)]

/-- An update's entries committed in this frame, visible at the next Bell (R594), within R135. -/
def utCommit (p : Fin 4) (c : Cmd) (ws : List UtWrite) : Upd :=
  .read fun s =>
    let n := frameNow s
    .when (decide ((psys s p).committedN + ws.length ≤ 4096)) (.seq [
      .part p fun y => { y with committedN := y.committedN + ws.length, ut := { y.ut with stage := y.ut.stage ++ [(n, ws)] } },
      postReply p c stOk 0 [] 0 (n + 1)])

def utInsertId (c : Cmd) (i : Nat) : Nat := utField c (24 + 40 * i) 3
def utDeleteId (c : Cmd) (i : Nat) : Nat := utField c (25 + 4 * i) 3

/-- UT_INSERT (R594): checked whole before anything is staged. -/
def cmdUtInsert (p : Fin 4) (ref : Nat) : Upd :=
  utRun p ref 0x0F02 (fun c => 24 + 40 * utField c 16 2) fun s c =>
    let n := utField c 16 2
    let bad := (List.range n).find? fun i => utInsertId c i == 0xFFFFFF || utIdState s p (utInsertId c i) == 2
    if 100 < n then postPlain p c stBadParam 16
    else match bad with
      | some i => postPlain p c stBadParam (24 + 40 * i)
      | none => utCommit p c ((List.range n).map fun i =>
          ⟨utInsertId c i, 1, some (utField c (28 + 40 * i) 2, (c.params.drop (16 + 40 * i)).take 32)⟩)

/-- UT_DELETE (R594). -/
def cmdUtDelete (p : Fin 4) (ref : Nat) : Upd :=
  utRun p ref 0x0F03 (fun c => 24 + 4 * utField c 16 2) fun _ c =>
    let n := utField c 16 2
    if 1018 < n then postPlain p c stBadParam 16
    else match (List.range n).find? fun i => utDeleteId c i == 0xFFFFFF with
      | some i => postPlain p c stBadParam (24 + 4 * i)
      | none => utCommit p c ((List.range n).map fun i => ⟨utDeleteId c i, 2, none⟩)

/-- UT_NOP: replies in ring order. -/
def cmdUtNop (p : Fin 4) (ref : Nat) : Upd := withCmd p ref 0x0F04 fun c => postPlain p c stOk 0

/-- One committed entry made visible: its state, and an insert's BIAS, code and HIGH. -/
def utApply (p : Fin 4) (w : UtWrite) : Upd :=
  .read fun s =>
    let a := utStateAddr s p w.id
    let b := (Mem.read s.mem a).toNat
    let m := 4 ^ (w.id % 4)
    .seq [memPut a (natLE 1 (b / (4 * m) * (4 * m) + w.state * m + b % m)),
      match w.body with
      | none => .skip
      | some (bias, code) => .seq [memStore (utBiasAddr s p w.id) (natBE 2 bias), memStore (utCodeAddr s p w.id) code,
          chargeWrite s (utTenant s p) (utCodeAddr s p w.id) 32,
          regMod .utStatus p 0 fun v => setFld v 23 0 (max (fld v 23 0) (w.id + 1))]]

/-- Committed entries of a partition's table made visible: those whose commit frame meets a test (R134, R136). -/
def utVisible (p : Fin 4) (due : Nat → Bool) : Upd :=
  .read fun s => .seq [.each ((psys s p).ut.stage.filter fun x => due x.1) fun x => .each x.2 (utApply p),
    utMod p fun u => { u with stage := u.stage.filter fun x => !(due x.1) }]

/-- UT_CLEAR (0x0F80), which exists while ENABLE is 1 (R596). -/
def specUtClear : OpSpec := { permit := fun s p c => c.tenant == utTenant s p, exact := fun _ _ _ => true }

/-- Whether a UT_CLEAR may be admitted: the ring is empty and every accepted Utertil command has posted. -/
def utQuiet (s : State) (p : Fin 4) : Bool := utHead s p == utTail s p && (psys s p).cmds.all (·.ring != 34)

/-- UT_CLEAR (R596): it takes effect, and posts, at the next Bell. -/
def cmdUtClear (p : Fin 4) (ref : Nat) : Upd :=
  withCmd p ref 0x0F80 fun c => .seq [cmdMod p ref fun c => { c with phase := .running }, utMod p fun u => { u with clearing := some c.ref }]

/-- Action 3 of Bell step n for a partition's Utertil table: committed entries, then a clear that has ended; and an ENABLE that
takes effect starts the ring afresh (R589, R597). -/
def utBell (p : Fin 4) (n : Nat) : Upd :=
  .read fun s =>
    let u := (psys s p).ut
    .seq [utVisible p fun f => decide (f < n),
      (match u.clearing with
       | none => .skip
       | some ref => .seq [.memZero (utBaseOf s p + 0x201000) 0x2400000, regMod .utStatus p 0 fun w => setFld w 23 0 0,
           utMod p fun u => { u with clearing := none },
           match cmdOf s p ref with | some c => postPlain p c stOk 0 | none => .skip]),
      .when (bit (rd s .utCtl p) 63 && !(bit (lv s .utCtl p) 63)) (utMod p fun u => { u with stopped := false, awake := true, beyond := false })]

/-- An ENABLE that has been cleared takes effect: command streams run only while it is 1 (R4), so the commands accepted and not yet
replied to end without a reply, as R597 ends them at a reset (DESIGN CHOICE, log entry 116). -/
def utOffBell (p : Fin 4) : Upd :=
  .read fun s => .when (bit (lv s .utCtl p) 63 && !(bit (rd s .utCtl p) 63))
    (.part p fun y => { y with cmds := y.cmds.filter (·.ring != 34), ut := { y.ut with held := [], scan := none } })

def execUtEnable (w : Issuer) (p : Fin 4) (v : Word) (s : State) : Host.Outcome State Fault Refusal := (cmdUtEnable w p v).go s
def execUtTailWrite (w : Issuer) (p : Fin 4) (v : Word) (s : State) : Host.Outcome State Fault Refusal := (cmdUtTailWrite w p v).go s
def execUtPacketTake (p : Fin 4) (s : State) : Host.Outcome State Fault Refusal := (cmdUtPacketTake p).go s
def execStackScan (k : Fin 24) (p : Fin 4) (ref : Nat) (s : State) : Host.Outcome State Fault Refusal := (cmdStackScan k p ref).go s
def execUtSearch (p : Fin 4) (ref : Nat) (s : State) : Host.Outcome State Fault Refusal := (cmdUtSearch p ref).go s
def execUtInsert (p : Fin 4) (ref : Nat) (s : State) : Host.Outcome State Fault Refusal := (cmdUtInsert p ref).go s
def execUtDelete (p : Fin 4) (ref : Nat) (s : State) : Host.Outcome State Fault Refusal := (cmdUtDelete p ref).go s
def execUtNop (p : Fin 4) (ref : Nat) (s : State) : Host.Outcome State Fault Refusal := (cmdUtNop p ref).go s
def execUtPad (p : Fin 4) (s : State) : Host.Outcome State Fault Refusal := (cmdUtPad p).go s
def execUtClear (p : Fin 4) (ref : Nat) (s : State) : Host.Outcome State Fault Refusal := (cmdUtClear p ref).go s

end Sys2Proof.Machine
end

