-- ==== Sys2Proof/Machine/PartReset.lean ====
section
/-!
DEFINITION. Part resets and part-level faults (R503 levels 4 to 6, R505 to R507, R510, R521, R529, R530).
-/

namespace Sys2Proof.Machine

def pinMod (f : PinSt → PinSt) : Upd := .sys fun y => { y with pin := f y.pin }
def pwrMod (f : PwrSt → PwrSt) : Upd := .sys fun y => { y with pwr := f y.pwr }
def secMod (f : SecSt → SecSt) : Upd := .sys fun y => { y with sec := f y.sec }

/-! ### What part resets keep (Table 18.7) -/

/-- Daybook records to be sent again to a partner that has not acknowledged them. -/
def dayAgain (l : List DayRec) : List DayRec := l.map fun r => if r.partnerDurable then r else { r with sent := false }

/-- A partition's data after a warm part reset: records, dump, Daybook. -/
def partWarm (y : PSys) : PSys :=
  { PSys.reset with nextRef := y.nextRef, faults := { y.faults with day := dayAgain y.faults.day } }

/-- A partition's data after a cold part reset: the mirror and the programmed Daybook records. -/
def partCold (y : PSys) : PSys :=
  { PSys.reset with
    nextRef := y.nextRef
    faults := { PSys.reset.faults with mirror := y.faults.mirror, day := dayAgain (y.faults.day.filter (·.durable)), nextLsn := y.faults.nextLsn } }

/-- A flash channel after a cold part reset: what is in flash. -/
def chanCold (x : Channel) : Channel := { x with log := x.saved, scrub := 0, zq := 0 }

/-- The offset of a slot of the boot store (Table 19.1), and a part of a byte string. -/
def slotBase (b : Bool) : Nat := if b then 0x1800000 else 0
def sub (b : Bytes) (off n : Nat) : Bytes := (b.drop off).take n

/-- The control record, and whether it is authentic (Table 19.1, R539). -/
def ctlBytes (x : SecSt) : Bytes := Mem.readBytes x.store 0x3000000 64
def ctlValid (x : SecSt) : Bool := Config.hmac ((ctlBytes x).take 32) == sub (ctlBytes x) 32 32

/-- The ACTIVE slot: A where the record is not authentic. -/
def activeSlot (x : SecSt) : Bool := ctlValid x && nbit (byteAt (ctlBytes x) 0) 0

/-- The boot store when a part reset starts: one that comes during staging leaves the slot that is not ACTIVE failing R536 (R541),
here erased. -/
def storeStart (x : SecSt) : Mem := if x.staging.isSome then Mem.zero x.store (slotBase (!(activeSlot x))) 0x1800000 else x.store

/-- The security block when a part reset starts: the boot store, and across a warm reset the arming record (R550, R555). -/
def secStart (cold : Bool) (x : SecSt) : SecSt :=
  { SecSt.reset with store := storeStart x, notes := x.notes, armed := if cold then none else x.armed, cold }

/-- Whether an address lies in the Pantry's row of Table 10.1. -/
def inPantry (a : Nat) : Bool := regionOf a == .pantry

/-- Units that SELF_TEST has disabled stay so until the next cold part reset (R530); every other is as R489 gives. -/
def unitsWarm (l : Assoc BUnit) : Assoc BUnit := l.filter fun c => match c.2.state with | .disabled => true | _ => false

/-- The subsystems' data after a warm part reset. -/
def sysWarm (y : Sys) : Sys :=
  { Sys.reset with
    part := Vector.ofFn fun p => partWarm (y.part.get p)
    fab := { FabricSt.reset with nextTag := y.fab.nextTag }
    coh := { y.coh with regions := y.coh.regions.map (fun r => { r with allLost := true }), dir := [], txns := [], waits := [], asked := [] }
    bind := { units := unitsWarm y.bind.units, rebinds := [], keeping := [], heldMaps := [], nextSeq := y.bind.nextSeq,
              ledger := y.bind.ledger, snapshot := y.bind.snapshot }
    crierSeq := y.crierSeq, poison := y.poison.filter (fun l => !(inPantry l))
    stks := y.stks.map fun x => { x with fill := none }
    chans := y.chans.map fun x => { x with saved := x.log }
    pairsRem := y.pairsRem, linesRem := y.linesRem, sec := secStart false y.sec, pin := y.pin
    pwr := { PwrSt.reset with tested := y.pwr.tested }, late := y.late, out := y.out, free := y.free }

/-- The subsystems' data after a cold part reset or a power cycle. -/
def sysCold (y : Sys) : Sys :=
  { Sys.reset with
    part := Vector.ofFn fun p => partCold (y.part.get p)
    poison := y.poison.filter fun l => decide (0x1000000000000 ≤ l)
    stks := y.stks.map fun x => { StackSt.reset with spared := x.spared }
    chans := y.chans.map chanCold, sec := secStart true y.sec, pin := y.pin, out := y.out, free := y.free }

/-- Registers that a warm part reset keeps: pages 0x09 and 0x11 (Table 18.7). -/
def warmKeeps (k : RegKey) : Bool := k.r.desc.page == 0x09 || k.r.desc.page == 0x11

/-- The bytes of a memory that differ from another's, with their new values. -/
def memDiff (old new : Mem) : List (Nat × Byte) :=
  (new.filter fun c => Mem.read old c.1 != c.2) ++ (old.filter fun c => !(ahas new c.1)).map fun c => (c.1, 0)

/-- The committed updates not yet applied, as the bytes they change (R136, Table 18.7). -/
def lateBytes (s : State) : List (Nat × Byte) :=
  memDiff s.mem ((Upd.seq (allP.map fun p => .seq [applyStage p (frameNow s), utVisible p fun _ => true])).run s).mem

/-- Committed ingests and releases are in the map (R392). -/
def ingestsLand : Upd :=
  .each allP fun p => .read fun s => .each ((psys s p).ingests.filter (·.commit.isSome)) (ingestApply p)

/-- A new DBG_NONCE (R550). -/
def newNonce : Upd := .each (List.range 4) fun i => .fresh fun v => .reg .dbgNonce 0 i v

/-- The start of any part reset: FATAL_N released (R562), the clocks run, the nonce replaced. -/
def resetStart : Upd := .seq [pinMod fun x => { x with fatalLow := false, stopped := false }, newNonce]

/-- A warm part reset (R503 level 4): every domain homed here fails with HOME_RESET and DIR_CLEARED, and every other one with an agent on
the host link that is lost with HOST_DOWN; the stacks enter self-refresh, and Table 18.7's "Warm part" column. -/
def warmReset : Upd :=
  .seq [.read fun s => .each (s.sys.coh.doms.filter fun d => s.sys.coh.regions.any (·.dom == d.id)) fun d =>
      .seq [cohFail d.id 6 0xFF false, domMod d.id fun d => { d with dirCleared := true }],
    .read fun s => .when (fld (rd s .hostStatus 0) 63 60 == 2) (hostDomsFail 1 true fun _ => true),
    ingestsLand,
    .read fun s => .sys fun y => { y with late := lateBytes s },
    .sys sysWarm, .memDrop inPantry, .winZero 0 0x1000000, .regReset (fun k => !(warmKeeps k)),
    .each (List.range 24) (fun k => .read fun s => .when (stackState s k != 5 && stackState s k != 0) (stkState k 4)),
    .read (fun s => .each allP fun p => .seq [.when (psys s p).faults.dump.isSome (regSetBit .faultStatus p 0 63),
      .when (psys s p).faults.mirror.isSome (regSetBit .faultStatus p 0 61)]),
    resetStart]

/-- What a cold part reset or a loss of the main rails leaves (Table 18.7's "Cold part" and "Power cycle" columns). -/
def coldClear : Upd :=
  .seq [ingestsLand, .sys sysCold, .memDrop (fun _ => true), .winZero 0 0x1000000, .regReset (fun _ => true),
    .read fun s => .each allP fun p => .when (psys s p).faults.mirror.isSome (regSetBit .faultStatus p 0 61)]

/-- A cold part reset (R503 level 5). -/
def coldReset : Upd := .seq [coldClear, resetStart]

/-! ### Part-level faults -/

/-- A power-cycle request over the sideband (R579). -/
def cycleAsk (reason : Nat) (cmd : Option (Fin 4 × Nat)) : Upd :=
  .seq [pwrMod fun x => { x with cycle := some ⟨reason, 1, cmd⟩ }, emit (.sideband 0x30 none (natLE 1 reason))]

/-- Every partition dumped (R517). -/
def dumpAll (cause ref : Nat) : Upd := .each allP fun p => dumpTake p cause ref

/-- A part-level fault (R507) of a record: FATAL_N, the PART_FATAL record and its notice, the dumps, the warm reset or the halt. -/
def partFatal (cause : Nat) : Upd :=
  .read fun s =>
    let auto := bit (lv s .crierCfg 0) 63
    let ref := nextFaultRef s 0
    .seq [pinMod fun x => { x with fatalLow := true },
      fault 0 { faultBase 0x13 (if auto then 4 else 0) with partLevel := true, detail := natLE 4 cause },
      dumpAll 0x13 ref, if auto then warmReset else pwrMod fun x => { x with halted := true }]

/-- STEWARD_WATCHDOG (R505): a core that has missed two check-ins resets its partition; a hang in the part-level duties of core 0 is
a part-level fault. -/
def cmdStewardWatchdog (core : Fin 8) (partLevel : Bool) (missed : Nat) : Upd :=
  let r := { faultBase 0x03 3 with engineKind := 9, engine := core.val, detail := natLE 1 core.val ++ natLE 1 missed }
  if missed < 2 then .skip
  else if partLevel && core == 0 then
    .read fun s => .seq [fault 0 { r with level := 4, partLevel := true }, partFatal (nextFaultRef s 0)]
  else partitionReset (toP (core.val / 2)) r true none

/-- RESET_ESCALATION (R506): the next level up, with a record of cause ESCALATED. -/
def cmdResetEscalation (level : Nat) (p : Fin 4) (k : EngineKind) (i began : Nat) : Upd :=
  let r := { faultBase 0x04 0 with detail := natLE 1 level ++ zeros 3 ++ natLE 4 began }
  if level = 1 ∧ engineExists k i ∧ k ≠ .stewardCore then engineReset k i r
  else if level = 2 then partitionReset p r true none
  else if level = 3 then .read fun s => .seq [fault 0 { r with level := 4, partLevel := true }, partFatal (nextFaultRef s 0)]
  else .skip

/-- FIRMWARE_READY_TIMEOUT (R507): 100 ms after a warm part reset. -/
def cmdFirmwareReadyTimeout : Upd := .read fun s => .when (!s.sys.sec.cold && !s.sys.sec.ready) coldReset

/-- BOOT_TIMEOUT (R507): 500 ms after a cold part reset; a power cycle is asked for and FATAL_N held. -/
def cmdBootTimeout : Upd :=
  .read fun s => .when (s.sys.sec.cold && !s.sys.sec.ready) (.seq [pinMod fun x => { x with fatalLow := true }, cycleAsk 1 none])

/-! ### RESET (R510) -/

/-- LEVEL, KIND, PARTITION, ID of a RESET, and its DUMP. -/
def rLevel (c : Cmd) : Nat := par c 0 1
def rKind (c : Cmd) : Nat := par c 2 1
def rId (c : Cmd) : Nat := par c 4 8
def rDump (c : Cmd) : Bool := nbit (par c 1 1) 0

/-- RESET (0x0902). -/
def specReset : OpSpec :=
  { permit := fmOnly, len := fun _ _ _ => 16
    range := fun _ p c =>
      let l := rLevel c
      let named := match engineOf (rKind c) with | some k => engineExists k (rId c) && engineP k (rId c) == p | none => false
      firstBad [(l == 0 || decide (6 < l), 64), (decide (1 < par c 1 1), 65),
        ((l == 1 && (rKind c == 0 || decide (6 < rKind c))) || (l == 2 && (rKind c == 0 || decide (8 < rKind c))), 66),
        (l == 3 && decide (3 < par c 3 1), 67), (l == 2 && !named, 68), (par c 12 4 != 0, 76)] }

/-- DETAIL of a RESET_CMD record: the issuing part. -/
def resetDetail (s : State) (c : Cmd) : Bytes := natLE 3 (if c.steward then c.srcPart else partId s)

/-- Whether a command holds a context of a CTX_KIND and CTX_ID; any slot of a walk names it. -/
def holdsContext (s : State) (p : Fin 4) (kind id : Nat) (d : Cmd) : Bool :=
  if kind = 1 then (walksOf s p d.ref).any (·.slots.contains id)
  else if kind = 4 then d.pieces.any fun x => x.sent && x.done.isNone && decide (x.record ≤ id) && decide (id < x.record + ceilDiv (x.slot + x.nslots) 16)
  else (contextsOf s p d).contains (kind, id)

/-- RESET level 1: the command that holds the context ends with CONTEXT_RESET; a transfer, a stream or a walk that no command holds is
stopped by itself. -/
def contextReset (p : Fin 4) (c : Cmd) : Upd :=
  .read fun s =>
    let kind := rKind c
    let id := rId c
    let r := { faultBase 0x05 1 with detail := resetDetail s c }
    let r' := { r with ctxKind := kind, ctxId := id }
    let ref := nextFaultRef s p
    match (psys s p).cmds.find? fun d => d.ref != c.ref && d.phase != .waiting && holdsContext s p kind id d with
    | some d => .seq [endEarly p d stContextReset r, postPlain p c stOk 1]
    | none =>
      if kind = 6 ∧ id / 64 = p.val ∧ (dmaOf s p (id % 64)).isSome then
        .seq [fault p r', dmaStop p (id % 64) stContextReset ref, postPlain p c stOk 1]
      else if kind = 1 ∧ ((psys s p).walks.find? (·.slots.contains id)).isSome then
        .seq [fault p r', .each ((psys s p).walks.filter (·.slots.contains id)) (fun w => walkDrop p w.id), postPlain p c stOk 1]
      else if kind = 2 ∧ (streamOf s p id).isSome then .seq [fault p r', streamFail p id ref, postPlain p c stOk 1]
      else postPlain p c stOk 0

/-- The DUMP option of a RESET of a part. -/
def partDump (c : Cmd) (ref : Nat) : Upd := .when (rDump c) (dumpAll 0x05 ref)

/-- RESET. Levels 4 and 5 write no reply; level 6 answers when the tray controller does. -/
def cmdReset (p : Fin 4) (ref : Nat) : Upd :=
  withCmd p ref 0x0902 fun c => .read fun s =>
    let r := { faultBase 0x05 (rLevel c) with detail := resetDetail s c }
    let whole (u : Upd) : Upd := .seq [fault 0 { r with partLevel := true }, partDump c (nextFaultRef s 0), u]
    match rLevel c with
    | 1 => contextReset p c
    | 2 => match engineOf (rKind c) with
      | some k => .seq [engineReset k (rId c) r, postPlain p c stOk 0]
      | none => postPlain p c stOk 0
    | 3 =>
      let q := toP (par c 3 1)
      .seq [partitionReset q r (rDump c) (if q = p then some c.ref else none), postPlain p c stOk 0]
    | 4 => whole warmReset
    | 5 => whole coldReset
    | _ => .seq [cmdMod p ref fun c => { c with phase := .running }, cycleAsk 2 (some (p, ref))]

/-! ### SELF_TEST (R529, R530) -/

def testMs (c : Cmd) : Nat := if par c 0 1 = 0 then 5 else 40

/-- SELF_TEST (0x0905). -/
def specSelfTest : OpSpec :=
  { permit := fmOnly, len := fun _ _ _ => 8
    range := fun s _ c => firstBad [(decide (c.timeout * bellUs s < 1000 * testMs c), 6),
      (decide (1 < par c 0 1) || s.sys.bind.units.any (fun u => u.2.state == .bound && u.2.tenant != 0), 64), (par c 1 7 != 0, 65)]
    body := fun _ _ _ => 32 }

/-- RESULT of a test: pass, pass with units disabled, fail. -/
def testResult (r : SelfTestResult) : Nat := if r.fatal then 2 else if r.failed.isEmpty && r.portsOff == 0 then 0 else 1

/-- The READY notice (R529, R581): over the sideband whatever CRIER_DEST says, and to CRIER_DEST as any notice. -/
def readyNotice (result : Nat) : Upd :=
  .read fun s =>
    .seq [.when (bit (lv s .crierDest 0) 63 && partId s != 0xFFFFF)
        (emit (.sideband 0x20 none (noticeBytes s 0x46 0xFF 0 0 0 (natLE 1 result)))),
      crier 0x46 0xFF 0 0 0 (natLE 1 result)]

/-- SELF_TEST: the units that fail are DISABLED until the next cold part reset; FULL leaves the stacks filled with zeros (R374). -/
def cmdSelfTest (p : Fin 4) (ref : Nat) (r : SelfTestResult) : Upd :=
  withCmd p ref 0x0905 fun c => .read fun s =>
    let off (kind : Nat) : Nat := r.failed.countP (·.1 == kind)
    let stks := ((r.failed.filter (·.1 == 3)).map (·.2 / 128)).eraseDups
    .seq [.each r.failed fun u => .when (unitExists u.1 u.2) (unitSet u.1 u.2 { state := .disabled, tenant := 0, since := frameNow s, partition := 0 }),
      .when (par c 0 1 == 1) (.each (List.range 24) fun k => .read fun s => .when (stackState s k == 3) (loftZero (stkBase k) 0xFE0000000)),
      pwrMod fun x => { x with tested := x.tested || decide (testResult r < 2) },
      postReply p c stOk 0 (natLE 1 (testResult r) ++ zeros 1 ++ natLE 2 (off 1) ++ natLE 1 stks.length ++ natLE 1 (off 4) ++
        natLE 1 r.portsOff ++ zeros 1 ++ natLE 4 r.sramErrs ++ natLE 6 (frameNow s) ++ zeros 14),
      readyNotice (testResult r)]

def execStewardWatchdog (core : Fin 8) (partLevel : Bool) (missed : Nat) (s : State) : Host.Outcome State Fault Refusal :=
  (cmdStewardWatchdog core partLevel missed).go s
def execResetEscalation (level : Nat) (p : Fin 4) (kind : EngineKind) (index began : Nat) (s : State) : Host.Outcome State Fault Refusal :=
  (cmdResetEscalation level p kind index began).go s
def execFirmwareReadyTimeout (s : State) : Host.Outcome State Fault Refusal := cmdFirmwareReadyTimeout.go s
def execBootTimeout (s : State) : Host.Outcome State Fault Refusal := cmdBootTimeout.go s
def execReset (p : Fin 4) (ref : Nat) (s : State) : Host.Outcome State Fault Refusal := (cmdReset p ref).go s
def execSelfTest (p : Fin 4) (ref : Nat) (r : SelfTestResult) (s : State) : Host.Outcome State Fault Refusal := (cmdSelfTest p ref r).go s

end Sys2Proof.Machine
end

