-- ==== Sys2Proof/Machine/Boot.lean ====
section
/-!
DEFINITION. Boot, firmware update, the debug token and IDE (R534 to R545, R550 to R555).
-/

namespace Sys2Proof.Machine

/-! ### Security block -/

/-- A notice of kind SECURITY: event and slot or stream. -/
def secNotice (event which : Nat) : Upd := crier 0x47 0xFF 0 0 0 (natLE 1 event ++ natLE 1 which)

/-- FUSE_CFG and FUSE_DIGEST[i], as fused (Tables 17.12 and 17.13). -/
def fuseCfgWord (f : Fuses) : Word :=
  BitVec.ofNat 64 (f.maxTenants % 8192 + 65536 * f.hostAllow.toNat + 131072 * f.debugLock.toNat + 262144 * f.utertilAllow.toNat + 2 ^ 32 * (f.isolation % 4))
def fuseDigestWord (f : Fuses) (i : Nat) : Word := f.digest.getD i 0
def fuseDigestBytes (f : Fuses) : Bytes := (List.range 4).flatMap fun i => natLE 8 (fuseDigestWord f i).toNat

/-- SEC_STATUS.STAGE. -/
def bootStage (s : State) : Nat := fld (rd s .secStatus 0) 57 56
def setStage (n : Nat) : Upd := regMod .secStatus 0 0 fun w => setFld w 57 56 n

/-- Whether the Steward cores run verified firmware. -/
def stewardsUp (s : State) : Bool := bootStage s == 2

/-! ### Images (Tables 19.1 and 19.2) -/

/-- Offset and length of a type's position in a slot: 1 loader, 2 firmware, 3 profile bundle. -/
def imagePlace : Nat → Nat × Nat
  | 1 => (0, 0x100000)
  | 2 => (0x100000, 0x1300000)
  | _ => (0x1400000, 0x400000)

/-- The header of an image of the boot store, and its payload's length. -/
def imageHead (x : SecSt) (slot : Bool) (type : Nat) : Bytes := Mem.readBytes x.store (slotBase slot + (imagePlace type).1) 512
def imageLen (h : Bytes) : Nat := leAt h 16 8
def imagePayload (x : SecSt) (slot : Bool) (type : Nat) : Bytes :=
  Mem.readBytes x.store (slotBase slot + (imagePlace type).1 + 512) (imageLen (imageHead x slot type))

def allZero (b : Bytes) : Bool := b.all (· == 0)

/-- The checks of R536 but for the floor. -/
def imageSound (f : Fuses) (x : SecSt) (slot : Bool) (type : Nat) : Bool :=
  let h := imageHead x slot type
  sub h 0 4 == [0x56, 0x58, 0x46, 0x57] && leAt h 4 2 == 0x0100 && byteAt h 6 == type && decide (byteAt h 7 < 2) &&
  allZero (sub h 24 8) && allZero (sub h 164 4) && allZero (sub h 264 184) &&
  decide (512 + imageLen h ≤ (imagePlace type).2) &&
  Config.sm3 (sub h 32 64) == fuseDigestBytes f &&
  Config.sm2Verify (sub h 32 64) (sub h 96 72) (sub h 168 64) && Config.sm2Verify (sub h 96 64) (sub h 0 448) (sub h 448 64) &&
  Config.sm3 (imagePayload x slot type) == sub h 232 32

/-- What a header says. -/
def imageFacts (h : Bytes) : ImageFacts := ⟨leAt h 8 4, nbit (byteAt h 7) 0, leAt h 12 4⟩

/-! ### The control record (Table 19.1, R539) -/

/-- The SVN floor of a type: of an unauthentic record, the highest SVN among the sound images of both slots. -/
def floorOf (f : Fuses) (x : SecSt) (type : Nat) : Nat :=
  if ctlValid x then leAt (ctlBytes x) (4 * type) 4
  else ([false, true].map fun b => if imageSound f x b type then (imageFacts (imageHead x b type)).svn else 0).foldl max 0

/-- The control record written. -/
def ctlPut (active : Bool) (floors : List Nat) (x : SecSt) : SecSt :=
  let body := padTo 32 (natLE 1 active.toNat ++ zeros 3 ++ floors.flatMap (natLE 4))
  { x with store := Mem.writeBytes x.store 0x3000000 (body ++ padTo 32 (Config.hmac body)) }

/-- An image accepted (R536). -/
def imageOk (f : Fuses) (x : SecSt) (slot : Bool) (type : Nat) : Bool :=
  imageSound f x slot type && decide (floorOf f x type ≤ (imageFacts (imageHead x slot type)).svn)

def floorsOf (s : State) : List Nat := [1, 2, 3].map (floorOf s.fuse s.sys.sec)

/-! ### The boot chain (R537 to R539) -/

/-- The slot of the boot under way. -/
def bootSlot (x : SecSt) : Bool := if x.second then !(activeSlot x) else activeSlot x

/-- A stage that failed (R538): the other slot is tried, then RECOVERY. -/
def bootFailed : Upd :=
  .read fun s =>
    if s.sys.sec.second then .seq [setStage 3, pinMod fun x => { x with fatalLow := true }]
    else .seq [secMod fun x => { x with second := true, notes := x.notes ++ [(2, (activeSlot x).toNat)] }, setStage 0]

/-- BOOT_ROM (Table 19.3 stage 1): the loader of the slot verified. -/
def cmdBootRom : Upd :=
  .read fun s =>
    let x := s.sys.sec
    if bootStage s ≠ 0 then .skip
    else if imageOk s.fuse x (bootSlot x) 1 then .seq [secMod fun x => { x with slot := bootSlot x }, setStage 1]
    else bootFailed

/-- The DeviceID private key (R544). -/
def deviceKey : Bytes := Config.kdf Config.deviceSecret [0x44, 0x45, 0x56, 0x49, 0x43, 0x45, 0x49, 0x44]

/-- Whether a debug token opens debug (R550). -/
def tokenOk (rootPub token : Bytes) (a : ArmRecord) : Bool :=
  sub token 8 32 == Config.sm3 (Config.sm2Public deviceKey) && sub token 40 32 == a.nonce.flatMap (fun w => natLE 8 w.toNat) &&
  Config.sm2Verify rootPub (sub token 72 64) (sub token 136 64) && Config.sm2Verify (sub token 72 64) (sub token 0 200) (sub token 200 64)

/-- The measurement blocks 1 to 7 (Table 19.6). -/
def measure (s : State) (slot : Bool) (dbg : Bool) (token : Bytes) : List Bytes :=
  let x := s.sys.sec
  let image (t : Nat) : Bytes := Config.sm3 (imageHead x slot t ++ imagePayload x slot t)
  [Config.sm3 Config.maskRom, image 1, image 2, image 3,
   natLE 8 (fuseCfgWord s.fuse).toNat ++ natLE 8 (rd s .fuseSku 0).toNat ++ fuseDigestBytes s.fuse,
   natLE 1 slot.toNat ++ zeros 3 ++ ([1, 2, 3].flatMap fun t => natLE 4 (imageFacts (imageHead x slot t)).svn) ++ (floorsOf s).flatMap (natLE 4),
   natLE 1 s.fuse.debugLock.toNat ++ natLE 1 dbg.toNat ++ zeros 6 ++ padTo 32 token]

/-- The alias private key (R544). -/
def aliasKey (meas : List Bytes) : Bytes :=
  let m (i : Nat) : Bytes := meas.getD (i - 1) []
  Config.kdf (Config.sm3 (Config.deviceSecret ++ m 2 ++ m 3 ++ m 4 ++ m 7)) [0x41, 0x4C, 0x49, 0x41, 0x53]

/-- BOOT_LOADER (Table 19.3 stage 2): firmware and profiles verified, an armed token applied after a warm reset, the measurements
taken, the alias certificate issued (R545). -/
def cmdBootLoader : Upd :=
  .read fun s =>
    let x := s.sys.sec
    if bootStage s ≠ 1 ∨ x.booted ≠ [] then .skip
    else if !(imageOk s.fuse x x.slot 2) || !(imageOk s.fuse x x.slot 3) then bootFailed
    else
      let root := sub (imageHead x x.slot 1) 32 64
      let armed := if x.cold then none else x.armed
      let bytes := match armed with | some a => memBytes s a.addr 264 | none => []
      let opens := match armed with | some a => tokenOk root bytes a | none => false
      let dbg := !s.fuse.debugLock || opens
      let token := if opens then Config.sm3 bytes else zeros 32
      let meas := measure s x.slot dbg token
      let facts := [1, 2, 3].map fun t => imageFacts (imageHead x x.slot t)
      .seq [secMod fun x => { x with
          booted := facts, meas, token, armed := none
          aliasCert := Config.aliasCertificate deviceKey (Config.sm2Public (aliasKey meas)) meas
          notes := x.notes ++ (if armed.isSome then [(if opens then 5 else 1, 0)] else []) },
        regMod .secStatus 0 0 fun w =>
          setFld (setBit (setBit (setBit w 59 dbg) 58 x.second) 55 x.slot) 31 0 ((facts.getD 1 ⟨0, false, 0⟩).svn)]

/-- FIRMWARE_START (Table 19.3 stage 3): the Steward cores run; stacks and channels start up by their own events. -/
def cmdFirmwareStart : Upd := .read fun s => .when (bootStage s == 1 && s.sys.sec.booted != []) (setStage 2)

/-- Whether every stack and channel has started or failed. -/
def startedUp (s : State) : Bool :=
  (List.range 24).all (fun k => stackState s k == 3 || stackState s k == 5) &&
  (List.range 32).all fun c => chanState s c == 2 || chanState s c == 3 || chanState s c == 4

/-- The floors once the booted images run (R543). -/
def raisedFloors (s : State) : List Nat :=
  (indexed (floorsOf s)).map fun c => match s.sys.sec.booted[c.1]? with
    | some i => if i.raise then max c.2 i.svn else c.2
    | none => c.2

/-- FIRMWARE_READY (R529, R538, R543): floors raised, the READY notice and the security notices that waited. -/
def cmdFirmwareReady : Upd :=
  .read fun s =>
    let x := s.sys.sec
    .when (bootStage s == 2 && !x.ready && startedUp s) (.seq [
      .when (raisedFloors s != floorsOf s) (secMod (ctlPut (activeSlot x) (raisedFloors s))),
      secMod fun x => { x with ready := true, notes := [] },
      .fresh fun v => readyNotice (v.toNat % 256),
      .each x.notes fun n => secNotice n.1 n.2])

/-! ### Firmware update (R541, R542) and the debug token -/

def secCfgErr : Upd := regSetBit .secStatus 0 0 63

/-- A write of FW_CTL: BYTES, STAGE and ACTIVATE. -/
def fwCtlWrite (v : Word) : Upd :=
  .read fun s =>
    let stage := bit v 63
    let act := bit v 62
    let staging := bit (rd s .secStatus 0) 60
    let staged := bit (rd s .secStatus 0) 61
    if (staging && (stage || act)) || (act && !staged) then secCfgErr
    else .seq [nowWrite .fwCtl 0 0 v,
      .when act (.seq [secMod (fun x => ctlPut (!(activeSlot x)) (floorsOf s) x), regMod .secStatus 0 0 fun w => setBit w 61 false]),
      .when stage (.seq [regMod .secStatus 0 0 fun w => setBit (setBit w 60 true) 61 false,
        .read fun s => secMod fun x => { x with staging := some (fld (rd s .fwStage 0) 49 0, fld (rd s .fwCtl 0) 24 0) }])]

/-- FW_STAGE: a write of FW_CTL with STAGE. -/
def cmdFwStage (w : Issuer) (v : Word) : Upd := .when (bit v 63) (ctlReg w 0 .fwCtl 0 (fwCtlWrite v))

/-- ACTIVATE (R542): a write of FW_CTL with ACTIVATE. -/
def cmdActivate (w : Issuer) (v : Word) : Upd := .when (bit v 62) (ctlReg w 0 .fwCtl 0 (fwCtlWrite v))

/-- STAGING_DONE (R541): the bundle is in the slot that is not ACTIVE, and its images verified from the store. -/
def cmdStagingDone : Upd :=
  .read fun s =>
    let slot := !(activeSlot s.sys.sec)
    match s.sys.sec.staging with
    | none => .skip
    | some (a, n) =>
      let readable := decide (n ≤ 25165824) && regionOf a == .loft && rangeBound s 0 a n && (poisonIn s a n).isNone
      .seq [secMod fun x => { x with staging := none, store := if readable then Mem.copyFrom x.store (slotBase slot) s.mem a n else x.store },
        regMod .secStatus 0 0 fun w => setBit w 60 false,
        .read fun s =>
          if readable && [1, 2, 3].all (imageOk s.fuse s.sys.sec slot) then regSetBit .secStatus 0 0 61
          else .seq [regSetBit .secStatus 0 0 62, secNotice 3 slot.toNat]]

/-- A write of DBG_TOKEN; one that sets ARM records the nonce in force and the token address (R550). -/
def tokenWrite (v : Word) : Upd :=
  .seq [nowWrite .dbgToken 0 0 v,
    .when (bit v 63) (.read fun s => secMod fun x => { x with
      armed := some ⟨(List.range 4).map (fun i => rd s .dbgNonce 0 i), fld v 49 0⟩ })]

/-- DBG_TOKEN_ARM. -/
def cmdDbgTokenArm (w : Issuer) (v : Word) : Upd := .when (bit v 63) (ctlReg w 0 .dbgToken 0 (tokenWrite v))

/-! ### IDE (R552 to R554) -/

def ideOf (s : State) (i : Nat) : IdeStream := s.sys.sec.ide.get (Fin.ofNat 5 i)
def ideMod (i : Nat) (f : IdeStream → IdeStream) : Upd := secMod fun x => { x with ide := updAt x.ide (Fin.ofNat 5 i) f }

/-- IDE_INTEGRITY_FAIL (R554). -/
def cmdIdeIntegrityFail (stream : Fin 5) : Upd :=
  .read fun s => .when ((ideOf s stream.val).state == .secure)
    (.seq [ideMod stream.val fun x => { x with state := .insecure }, hostDomsFail 4 false fun _ => true, secNotice 4 stream.val])

def execBootRom (s : State) : Host.Outcome State Fault Refusal := cmdBootRom.go s
def execBootLoader (s : State) : Host.Outcome State Fault Refusal := cmdBootLoader.go s
def execFirmwareStart (s : State) : Host.Outcome State Fault Refusal := cmdFirmwareStart.go s
def execFirmwareReady (s : State) : Host.Outcome State Fault Refusal := cmdFirmwareReady.go s
def execFwStage (w : Issuer) (v : Word) (s : State) : Host.Outcome State Fault Refusal := (cmdFwStage w v).go s
def execStagingDone (s : State) : Host.Outcome State Fault Refusal := cmdStagingDone.go s
def execActivate (w : Issuer) (v : Word) (s : State) : Host.Outcome State Fault Refusal := (cmdActivate w v).go s
def execDbgTokenArm (w : Issuer) (v : Word) (s : State) : Host.Outcome State Fault Refusal := (cmdDbgTokenArm w v).go s
def execIdeIntegrityFail (stream : Fin 5) (s : State) : Host.Outcome State Fault Refusal := (cmdIdeIntegrityFail stream).go s

end Sys2Proof.Machine
end

