-- ==== Sys2Proof/Machine/Package.lean ====
section
/-!
DEFINITION. Pins, power states, thermal limits and the sideband (R556 to R582).
-/

namespace Sys2Proof.Machine

/-! ### Reset and power pins (R560 to R562) -/

/-- PWR_GOOD_RISE (R560): a cold part reset. -/
def cmdPwrGoodRise (coldRstHigh : Bool) : Upd :=
  .read fun s => .when (!s.sys.pin.pwrGood)
    (.seq [pinMod fun x => { x with pwrGood := true, coldRst := if coldRstHigh then .high else .low }, coldReset])

/-- PWR_GOOD_FALL (R560): the clocks of the main rails stop; nothing is kept beyond what a power cycle keeps. -/
def cmdPwrGoodFall : Upd :=
  .read fun s => .when s.sys.pin.pwrGood (.seq [coldClear, pinMod fun x => { x with pwrGood := false, stopped := true }])

/-- An assertion of a reset pin (R561): taken from 10 µs on, ignored below 1 µs, and between them as the hardware has it. -/
def pinTaken (lowNs : Nat) (u : Upd) : Upd :=
  .read fun s =>
    if !s.sys.pin.pwrGood ∨ lowNs < 1000 then .skip
    else if 10000 ≤ lowNs then u
    else .fresh fun v => .when (bit v 0) u

/-- COLD_RST_N: a cold reset at the pin's release. -/
def cmdColdRstN (lowNs : Nat) (_both : Bool) : Upd := pinTaken lowNs (.seq [pinMod fun x => { x with coldRst := .high }, coldReset])

/-- WARM_RST_N: a warm reset at the pin's release, a cold one while both pins are low. -/
def cmdWarmRstN (lowNs : Nat) (both : Bool) : Upd := pinTaken lowNs (if both then coldReset else warmReset)

/-! ### Thermal (R565 to R567) -/

/-- A notice of kind THERMAL: hottest junction, die or stack, throttle level. -/
def thermalNotice (junction die level : Nat) : Upd := crier 0x48 0xFF 0 0 0 (natLE 1 (min junction 255) ++ natLE 1 die ++ natLE 1 level)

def pkgField (hi lo v : Nat) : Upd := regMod .pkgStatus 0 0 fun w => setFld w hi lo v

/-- The throttle level L. -/
def throttle (s : State) : Nat := fld (rd s .pkgStatus 0) 42 40

/-- L for the next frame (R565). -/
def nextThrottle (s : State) (junction power : Nat) : Nat :=
  let at' := fld (lv s .thermCfg 0) 15 8
  let cap := fld (lv s .pwrCap 0) 11 0
  if at' ≤ junction ∨ cap < power then min 4 (throttle s + 1)
  else if junction + 3 < at' ∧ power * 100 < cap * 95 then throttle s - 1
  else throttle s

/-- What a Bell step does for the package (R565, R568, Table 20.10): the sensors of the frame just ended, L, the partitions that dozed.
The die of the hottest junction is not among the readings. -/
def packageBell (junction power : Nat) (busy : List (Fin 4)) : Upd :=
  .read fun s =>
    let l := nextThrottle s junction power
    let doze := ((allP.filter fun p => bit (lv s .pwrCtl 0) 8 && !(busy.contains p) && (psys s p).cmds.isEmpty).map fun p => 2 ^ p.val).sum
    .seq [pkgField 42 40 l, pkgField 31 24 (min junction 255), pkgField 23 12 (min power 4095),
      pkgField 60 60 (decide (fld (lv s .pwrCap 0) 11 0 < power)).toNat, pkgField 51 48 doze,
      .when (throttle s == 0 && l != 0) (.fresh fun v => thermalNotice junction (v.toNat % 3) l)]

/-- THERMAL_TRIP (R566): the clocks stop, FATAL_N and THERM_N are pulled low, a record of cause PART_FATAL, a request for a power
cycle; no dump and no warm reset. -/
def cmdThermalTrip (junction : Nat) : Upd :=
  .read fun s => .when (decide (fld (rd s .thermCfg 0) 23 16 ≤ junction)) (.seq [
    pinMod fun x => { x with fatalLow := true, thermLow := true }, pkgField 62 61 3,
    fault 0 { faultBase 0x13 0 with partLevel := true, detail := natLE 4 0 },
    cycleAsk 4 none, pinMod fun x => { x with stopped := true }])

/-- STACK_HOT_LIMIT (R567): from 95 °C at most 8 pseudo-channels are granted, until the temperature falls below 90 °C. -/
def cmdStackHotLimit (k : Fin 24) (temp : Nat) : Upd :=
  .read fun s =>
    let on := s.sys.pwr.hot.contains k.val
    .seq [regMod .stkStatus (stkP k.val) (stkJ k.val) fun w => setFld w 15 8 (min temp 255),
      if 95 ≤ temp ∧ !on then
        .seq [pwrMod fun x => { x with hot := k.val :: x.hot }, thermalNotice (fld (rd s .pkgStatus 0) 31 24) (0x10 + k.val) (throttle s)]
      else if temp < 90 ∧ on then pwrMod fun x => { x with hot := x.hot.filter (· != k.val) }
      else .skip]

/-- JUNCTION_WARN (R562): THERM_N is low while the hottest junction is at or above WARN, until it has stayed below WARN − 3 °C for a
whole frame. -/
def cmdJunctionWarn (junction : Nat) (belowForFrame : Bool) : Upd :=
  .read fun s =>
    let warn := fld (lv s .thermCfg 0) 7 0
    let put (low : Bool) : Upd := .seq [pinMod fun x => { x with thermLow := low }, pkgField 61 61 low.toNat]
    if warn ≤ junction then put true
    else if belowForFrame ∧ junction + 3 < warn then put false
    else .skip

/-! ### Power states (R568 to R572) -/

/-- PKG_STATUS.STATE. -/
def pkgState (n : Nat) : Upd := pkgField 59 57 n

/-- A request for a power state (R568, R571): the latest one not acted on. -/
def powerWant (target : Nat) : Upd := pwrMod fun x => { x with want := some target }

/-- Whether a change of power state may begin. -/
def powerIdle (s : State) : Bool := s.sys.pwr.going.isNone

/-- Whether the part admits work: no part-level fault holds it (R507) and it is not in, entering or leaving Deep (R569). -/
def admitting (s : State) : Bool := !s.sys.pwr.halted && s.sys.pwr.state != 2 && powerIdle s

/-- ENTER_REST: a request for the state in force changes nothing (R571). -/
def cmdEnterRest : Upd :=
  .read fun s => .when (powerIdle s && s.sys.pwr.want == some 1 && s.sys.pwr.state != 2)
    (.seq [pwrMod fun x => { x with state := 1, want := none }, pkgState 1])

/-- Whether a walk holds an active context. -/
def Walk.holds (w : Walk) : Bool := w.state == .active || w.state == .finishing

/-- Commands that hold an active walk. -/
def activeHolders (s : State) (p : Fin 4) : List Cmd :=
  (psys s p).cmds.filter fun c => (walksOf s p c.ref).any Walk.holds

/-- The active walks that no command of the partition holds are lost (Table 18.7): those of a partner's or a drained share begin again,
a repair's relink ends. -/
def walksLost (p : Fin 4) : Upd :=
  .seq [.read fun s => sharesAgain p fun x => (x.kind == .daybook || x.kind == .drained) && (walksOf s p x.ref).any Walk.holds,
    .read fun s => .each ((psys s p).walks.filter fun w => w.holds && (cmdOf s p w.ref).isNone && (sharesOf s p w.ref).isEmpty) fun w =>
      walkDrop p w.id]

/-- ENTER_DEEP (R523): every command with an active walk ends with CONTEXT_RESET and a record of cause POWER_STATE, the other active
walks are lost; the drain begins. -/
def cmdEnterDeep : Upd :=
  .read fun s =>
    let w := s.sys.pwr.want
    if !(powerIdle s) ∨ (w ≠ some 2 ∧ w ≠ some 3) then .skip
    else if s.sys.pwr.state = 2 then .when (w == some 2) (pwrMod fun x => { x with want := none })
    else .seq [pwrMod fun x => { x with going := some 2, want := none, dark := w == some 3 }, pkgState 3,
      .each allP fun p => .seq [.read fun s => .each (activeHolders s p) fun c =>
        endEarly p c stContextReset { faultBase 0x11 1 with detail := natLE 1 2 }, walksLost p]]

/-- Whether no PROG_RUN, DMA transfer, ingest or text command is in flight (R523). -/
def drained (s : State) : Bool :=
  allP.all fun p => let y := psys s p
    y.mill.runs.isEmpty && y.dma.isEmpty && y.ingests.all (·.commit.isSome) && y.cmds.all fun c => c.phase == .waiting || c.opcode / 256 != 7

/-- TOKENS of every shaper and meter 0 (Table 18.7, R459). -/
def tokensLost : Upd :=
  .read fun s => .each (s.regs.filter fun c => isBucket c.1.r) fun c => regMod c.1.r c.1.p c.1.i fun w => setFld w 59 40 0

/-- DEEP_DRAIN_END (R523, R570, Table 18.7): the state in Deep. What Deep keeps is saved and stays; Pantry, scratchpads, hot rows and
token counts are lost; the stacks are in self-refresh. -/
def cmdDeepDrainEnd : Upd :=
  .read fun s => .when (s.sys.pwr.going == some 2 && drained s) (.seq [
    pwrMod fun x => { x with state := 2, going := none }, pkgState 2,
    .memDrop inPantry, .sys (fun y => { y with poison := y.poison.filter fun l => !(inPantry l) }),
    .each allP hotLost, tokensLost,
    .each (List.range 24) fun k => .read fun s => .when (stackState s k == 3) (stkState k 4)])

/-- ENTER_DARK (R572): once in Deep, the tray controller is asked to remove the main rails. -/
def cmdEnterDark : Upd :=
  .read fun s => .when (powerIdle s && s.sys.pwr.state == 2 && (s.sys.pwr.dark || s.sys.pwr.want == some 3) && s.sys.pwr.cycle.isNone)
    (.seq [pwrMod fun x => { x with dark := true, want := none }, cycleAsk 3 none])

/-- Whether a class-0 seal has landed that the Steward has not accepted. -/
def class0Landed (s : State) : Bool :=
  allP.any fun p => (psys s p).landed.any fun l => byteAt (Mem.readBytes s.win (p.val * 0x400000 + l.slot * 0x2000) 5) 4 == 0

/-- EXIT_TO_RUN: Rest ends at once; the exit from Deep begins (a wake by a class-0 seal while WAKE_ON_CMD is 1 included). -/
def cmdExitToRun : Upd :=
  .read fun s =>
    let x := s.sys.pwr
    let wake := bit (lv s .pwrCtl 0) 10 && class0Landed s
    if !(powerIdle s) then .skip
    else if x.state = 1 then .when (x.want == some 0) (.seq [pwrMod fun x => { x with state := 0, want := none }, pkgState 0])
    else if x.state = 2 then .when (x.want == some 0 || x.want == some 1 || wake)
      (.seq [pwrMod fun x => { x with going := some 0, dark := false, want := if x.want = some 0 then none else x.want }, pkgState 4])
    else .when (x.want == some 0) (pwrMod fun x => { x with want := none })

/-- DEEP_EXIT_COMPLETE (R569, R570): what was saved is restored; admission resumes at the next Bell step. -/
def cmdDeepExitComplete : Upd :=
  .read fun s => .when (s.sys.pwr.going == some 0 && (List.range 24).all fun k => stackState s k != 4)
    (.seq [pwrMod fun x => { x with state := 0, going := none }, pkgState 0])

/-! ### Bell pins (R573, R574) -/

/-- The word of a BELL_OUT mark (Table 20.8): frame count, period, even parity. -/
def bellWord (n period : Nat) : Word :=
  let w := n % 2 ^ 48 + period % 512 * 2 ^ 48
  BitVec.ofNat 64 (w + onesIn w 63 % 2 * 2 ^ 63)

/-- The period of frame n: a change armed for it, or the one in force (R32). -/
def periodAt (s : State) (n : Nat) : Nat :=
  if s.sys.bell.armed ∧ fld (rd s .frameApply 0) 47 0 = n then fld (rd s .frameCtl 0) 8 0 else bellUs s

/-- BELL_OUT_MARK. -/
def cmdBellOutMark : Upd :=
  .read fun s => .when (bit (lv s .bellpinCfg 0) 63) (emit (.bellPin (bellWord ((frameNow s + 1) % 2 ^ 48) (periodAt s ((frameNow s + 1) % 2 ^ 48)))))

/-- Whether a word's parity over all 64 bits is even. -/
def parityOk (w : Word) : Bool := onesIn w.toNat 64 % 2 == 0

/-- BELL_IN_EDGE (R574): the word taken for the next Bell; a missing edge or a word with bad parity is counted. -/
def cmdBellInEdge (word : Option Word) : Upd :=
  .read fun s => .when (bit (lv s .bellpinCfg 0) 62 && !(bit (lv s .frameCtl 0) 24))
    (match word with
     | none => regCount .bellpinStatus 0 0 31 16 1
     | some w => if parityOk w then .sys (fun y => { y with bell := { y.bell with pin := some w } }) else regCount .bellpinStatus 0 0 15 0 1)

/-! ### Sideband (R576 to R581) -/

/-- A response of the part (R577): CODE with bit 7 set, the TAG, a status code first. -/
def sbAnswer (code tag status : Nat) (payload : Bytes) : Upd :=
  .read fun s => .when s.sys.pin.auxUp (emit (.sideband (code + 128) (some tag) (natLE 2 status ++ payload)))

/-- MCTP_CONTROL: Set Endpoint ID, Get Endpoint ID and Get Vendor Defined Message Support; the value of any other response is the
standard's. -/
def cmdMctpControl (cmd arg : Nat) : Upd :=
  .read fun s => .when s.sys.pin.auxUp
    (if cmd = 1 then .seq [pinMod fun x => { x with eid := arg % 256 }, emit (.mctp cmd (arg % 256))]
     else if cmd = 2 then emit (.mctp cmd s.sys.pin.eid)
     else if cmd = 6 then emit (.mctp cmd Config.enterprise)
     else .fresh fun v => emit (.mctp cmd v.toNat))

/-- SB_INFO (Table 20.9). -/
def cmdSbInfo (tag : Nat) : Upd :=
  .read fun s =>
    let pkg := rd s .pkgStatus 0
    sbAnswer 0x01 tag stOk (natLE 1 (bootStage s) ++ natLE 1 (fld pkg 59 57) ++ natLE 1 (fld pkg 42 40) ++ natLE 1 (fld pkg 31 24) ++
      natLE 3 (partId s) ++ natLE 1 s.sys.pin.fatalLow.toNat ++ natLE 4 (fld (rd s .faultStatus 0) 31 0) ++ natLE 2 (fld pkg 23 12))

/-- SB_VID (R558). -/
def cmdSbVid (tag : Nat) : Upd :=
  .read fun s => sbAnswer 0x02 tag stOk ((List.range 4).flatMap fun i => natLE 2 (s.fuse.vid.getD i 0))

/-- The end of a power-cycle request. -/
def cycleOver : Upd := pwrMod fun x => { x with cycle := none }

/-- SB_CYCLE_ACK (R572, R579): a RESET of level 6 posts OK or RETRY; a refused Dark leaves the part in Deep. -/
def cmdSbCycleAck (tag : Nat) (accept : Bool) : Upd :=
  .read fun s => match s.sys.pwr.cycle with
    | none => .skip
    | some x => .seq [cycleOver,
        .when (x.reason == 3 && !accept) (pwrMod fun x => { x with dark := false }),
        (match x.cmd with
         | some (p, ref) => (match cmdOf s p ref with | some c => postPlain p c (if accept then stOk else stRetry) 0 | none => .skip)
         | none => .skip),
        sbAnswer 0x31 tag stOk []]

/-- SB_CYCLE_RETRY (R579): the request again, up to 8 times; then FATAL_N is held low. -/
def cmdSbCycleRetry : Upd :=
  .read fun s => match s.sys.pwr.cycle with
    | none => .skip
    | some x => if x.sent < 9 then
          .seq [pwrMod fun y => { y with cycle := some { x with sent := x.sent + 1 } }, emit (.sideband 0x30 none (natLE 1 x.reason))]
        else .seq [cycleOver, pinMod fun x => { x with fatalLow := true }]

/-- Whether the security block is in RECOVERY. -/
def inRecovery (s : State) : Bool := bootStage s == 3

/-- SB_IMAGE_WRITE (R580). -/
def cmdSbImageWrite (tag slot offset : Nat) (data : Bytes) : Upd :=
  .read fun s =>
    if !(inRecovery s) then sbAnswer 0x40 tag stNotBound []
    else if 1 < slot ∨ 4096 < data.length ∨ 0x1800000 < offset + data.length then sbAnswer 0x40 tag stBadParam []
    else .seq [secMod fun x => { x with store := Mem.writeBytes x.store (slotBase (slot == 1) + offset) data }, sbAnswer 0x40 tag stOk []]

/-- SB_IMAGE_DONE (R580): the part waits for a power cycle. -/
def cmdSbImageDone (tag slot : Nat) : Upd :=
  .read fun s =>
    if !(inRecovery s) then sbAnswer 0x41 tag stNotBound []
    else if 1 < slot then sbAnswer 0x41 tag stBadParam []
    else .seq [secMod fun x => { x with imageDone := true }, sbAnswer 0x41 tag stOk []]

/-- SB_PSTATE (R568). -/
def cmdSbPstate (tag target : Nat) : Upd :=
  if target < 4 then .seq [powerWant target, sbAnswer 0x50 tag stOk []] else sbAnswer 0x50 tag stBadParam []

/-! ### Remaining pins -/

/-- VDD_AUX_RISE (R558, R559, R576): the sideband answers at its static address; no dynamic address or endpoint ID is assigned. -/
def cmdVddAuxRise : Upd :=
  .read fun s => .when (!s.sys.pin.auxUp) (pinMod fun x => { x with auxUp := true, i3c := none, eid := 0 })

/-- Whether the debug port is open (Table 19.7's chapter): the fuse is 0, or a token has opened it. -/
def debugOpen (s : State) : Bool := !s.fuse.debugLock || bit (rd s .secStatus 0) 59

/-- DEBUG_PORT_ACCESS: the operand `ir` is 0 for IDCODE, 1 for BYPASS; every other instruction is served only while debug is open. -/
def cmdDebugPortAccess (ir : Nat) (data : Bytes) : Upd :=
  .read fun s => .seq [pinMod fun x => { x with debugIr := ir },
    if ir = 0 then emit (.debug ir Config.idcode)
    else if ir = 1 then emit (.debug ir data)
    else .when (debugOpen s) (emit (.debug ir (Config.debugAnswer ir data)))]

/-- I3C_ADDRESS_ASSIGNMENT (R576): SETDASA or ENTDAA. -/
def cmdI3cAddressAssignment (addr : Nat) : Upd :=
  .read fun s => .when s.sys.pin.auxUp (pinMod fun x => { x with i3c := some (addr % 128) })

/-- The sideband's address: the dynamic one once assigned, else the static one. -/
def sidebandAddr (s : State) : Nat := s.sys.pin.i3c.getD (0x30 + s.sys.pin.sbAddr)

/-- HOST_PERST_N (Table 20.2): the input's level, used while HOST_EN is 1. -/
def cmdHostPerstN (level : Level) : Upd :=
  .read fun s => .when (bit (rd s .hostCfg 0) 63) (pinMod fun x => { x with hostPerst := level })

def execPwrGoodRise (coldRstHigh : Bool) (s : State) : Host.Outcome State Fault Refusal := (cmdPwrGoodRise coldRstHigh).goAux s
def execPwrGoodFall (s : State) : Host.Outcome State Fault Refusal := cmdPwrGoodFall.goAux s
def execColdRstN (lowNs : Nat) (both : Bool) (s : State) : Host.Outcome State Fault Refusal := (cmdColdRstN lowNs both).goAux s
def execWarmRstN (lowNs : Nat) (both : Bool) (s : State) : Host.Outcome State Fault Refusal := (cmdWarmRstN lowNs both).goAux s
def execThermalTrip (junction : Nat) (s : State) : Host.Outcome State Fault Refusal := (cmdThermalTrip junction).go s
def execStackHotLimit (k : Fin 24) (temp : Nat) (s : State) : Host.Outcome State Fault Refusal := (cmdStackHotLimit k temp).go s
def execEnterRest (s : State) : Host.Outcome State Fault Refusal := cmdEnterRest.go s
def execEnterDeep (s : State) : Host.Outcome State Fault Refusal := cmdEnterDeep.go s
def execDeepDrainEnd (s : State) : Host.Outcome State Fault Refusal := cmdDeepDrainEnd.go s
def execEnterDark (s : State) : Host.Outcome State Fault Refusal := cmdEnterDark.go s
def execExitToRun (s : State) : Host.Outcome State Fault Refusal := cmdExitToRun.go s
def execDeepExitComplete (s : State) : Host.Outcome State Fault Refusal := cmdDeepExitComplete.go s
def execBellOutMark (s : State) : Host.Outcome State Fault Refusal := cmdBellOutMark.go s
def execBellInEdge (word : Option Word) (s : State) : Host.Outcome State Fault Refusal := (cmdBellInEdge word).go s
def execMctpControl (cmd arg : Nat) (s : State) : Host.Outcome State Fault Refusal := (cmdMctpControl cmd arg).goAux s
def execSbInfo (tag : Nat) (s : State) : Host.Outcome State Fault Refusal := (cmdSbInfo tag).goAux s
def execSbVid (tag : Nat) (s : State) : Host.Outcome State Fault Refusal := (cmdSbVid tag).goAux s
def execSbCycleAck (tag : Nat) (accept : Bool) (s : State) : Host.Outcome State Fault Refusal := (cmdSbCycleAck tag accept).goAux s
def execSbCycleRetry (s : State) : Host.Outcome State Fault Refusal := cmdSbCycleRetry.goAux s
def execSbImageWrite (tag slot offset : Nat) (data : Bytes) (s : State) : Host.Outcome State Fault Refusal :=
  (cmdSbImageWrite tag slot offset data).goAux s
def execSbImageDone (tag slot : Nat) (s : State) : Host.Outcome State Fault Refusal := (cmdSbImageDone tag slot).goAux s
def execSbPstate (tag target : Nat) (s : State) : Host.Outcome State Fault Refusal := (cmdSbPstate tag target).goAux s
def execJunctionWarn (junction : Nat) (belowForFrame : Bool) (s : State) : Host.Outcome State Fault Refusal :=
  (cmdJunctionWarn junction belowForFrame).goAux s
def execVddAuxRise (s : State) : Host.Outcome State Fault Refusal := cmdVddAuxRise.goAux s
def execDebugPortAccess (ir : Nat) (data : Bytes) (s : State) : Host.Outcome State Fault Refusal := (cmdDebugPortAccess ir data).goAux s
def execI3cAddressAssignment (addr : Nat) (s : State) : Host.Outcome State Fault Refusal := (cmdI3cAddressAssignment addr).goAux s
def execHostPerstN (level : Level) (s : State) : Host.Outcome State Fault Refusal := (cmdHostPerstN level).goAux s

end Sys2Proof.Machine
end

