-- ==== Sys2Proof/Machine/Durable.lean ====
section
/-!
DEFINITION. The Daybook's commands (R524 to R528): DAYBOOK_APPEND at a partner, programming, DAYBOOK_INFO.
-/

namespace Sys2Proof.Machine

/-! ### DAYBOOK_APPEND -/

/-- DAYBOOK_APPEND (0x0906): its parameter block is one record (Table 18.8). -/
def specDaybookAppend : OpSpec :=
  { permit := stewardOnly, len := fun _ _ c => max 64 (par c 28 4), exact := fun _ _ _ => true
    range := fun _ _ c => firstBad [(!([0x0401, 0x0402, 0x0403, 0x0410].contains (par c 14 2)), 78), (par c 28 4 % 64 != 0 || par c 28 4 == 0, 92)]
    pool := fun s p c => if dayFits s p (dayLen (dayIn c.params)) then none else some 0x0901 }

/-- The reference of the share that applies the record of a DAYBOOK_APPEND: the command's, above bit 45. -/
def dayRef (ref : Nat) : Nat := ref + 2 ^ 45

/-- The forms (REFINE_IN and FIELDS) that a record's entries may have by their length: a record does not say them. -/
def recordForms (d : Bytes) (r : DayRec) : List (Nat × Nat) :=
  let fits (x : Nat × Nat) : Bool :=
    let e := r.n * updEntryBytes d r.opcode x.1 x.2
    decide (e ≤ r.entries.length) && decide (r.entries.length < e + 64)
  ((if dRefineFmt d = 0 then [0] else [2, 1, 0]).flatMap fun ri =>
    (if r.opcode = 0x0403 then [1, 2, 3, 4, 5, 6, 7] else [0]).map fun f => (ri, f)).filter fits

/-- A record's entries, as in the parameter block of its update. -/
def recordArgs (d : Bytes) (r : DayRec) (seed : Nat) : UpdArgs :=
  let l := recordForms d r
  let x := if l.length < 2 then l.headD (0, 0) else l.getD (Config.pick seed l.length % l.length) (0, 0)
  let head := if r.opcode = 0x0401 then natLE 2 r.id ++ natLE 2 r.shard ++ natLE 2 r.n ++ natLE 1 x.1 ++ zeros 1 ++ natLE 8 r.usn
    else natLE 2 r.id ++ natLE 2 r.n ++ natLE 1 x.1 ++ natLE 1 x.2 ++ zeros 2 ++ natLE 8 r.usn
  updArgs d r.opcode (head ++ r.entries)

/-- Entry i's result in a record: status, node, generation (Table 4.6). -/
def recordResult (r : DayRec) (i : Nat) : Nat × Nat × Nat :=
  (leAt r.results (16 * i) 2, leAt r.results (16 * i + 4) 5, byteAt r.results (16 * i + 9))

/-- The share that applies a record's OK entries to the partner's copy (R526). A USN that the home assigned is not in the record. -/
def dayShare (d : Bytes) (r : DayRec) (ref seed : Nat) (p : Fin 4) : UpdShare :=
  let a := recordArgs d r seed
  let es := (indexed a.entries).filter fun e => (recordResult r e.1).1 == stOk
  { ref := dayRef ref, kind := .daybook, coll := r.id, shard := r.shard, opcode := r.opcode, tenant := r.tenant
    usn := if r.usn = 0 then r.commit * 65536 + Config.pick (seed + 1) 65536 % 65536 else r.usn
    insBeam := dBeam d, prune := false, reverseMax := dDegree d
    entries := es.map fun e => { (entryStart d a e.2).1 with node := (recordResult r e.1).2.1, gen := (recordResult r e.1).2.2 }
    src := r.src, srcPartition := r.srcPartition, cmdSeq := r.cmdSeq, raw := r.entries, owner := p.val, judged := false, dayCommit := r.commit }

/-- The records of each shard applied in LSN order: the oldest one's entries begun, if they are not yet. -/
def dayKick (p : Fin 4) : Upd :=
  .read fun s => .each (psys s p).shards fun h =>
    match (psys s p).shares.find? fun x => x.kind == .daybook && x.coll == h.coll && x.shard == h.idx, collOf s h.coll with
    | some x, some k => .when (x.entries.any (!·.ready) && !((psys s p).walks.any (·.ref == x.ref))) (shareRun p x h k.desc)
    | _, _ => .skip

/-- Whether a shard here has records of a failed primary still to apply: its walks and updates wait (R528). -/
def dayBehind (s : State) (p : Fin 4) (coll shard : Nat) : Bool :=
  (psys s p).shares.any fun x => x.kind == .daybook && x.coll == coll && x.shard == shard

/-- DAYBOOK_APPEND (R526): the partner logs the record and begins to apply it. It answers when the record is durable. -/
def cmdDaybookAppend (p : Fin 4) (ref : Nat) : Upd :=
  withCmd p ref 0x0906 fun c => .read fun s =>
    let r := dayIn c.params
    .seq [cmdMod p ref fun c => { c with phase := .running, aux := (psys s p).faults.nextLsn },
      dayAppend p r,
      match collOf s r.id, shardOf s p r.id r.shard with
      | some k, some _ => .when (r.opcode != 0x0410) (.seq [.sys fun y => { y with free := y.free + 1 },
          .part p fun y => { y with shares := y.shares ++ [dayShare k.desc r ref (opKey s.sys.free) p] }, dayKick p])
      | _, _ => .skip]

/-! ### Programming -/

/-- DAYBOOK_PROGRAM (R525): every record of an ended frame is in flash; a partner's records are acknowledged. -/
def cmdDaybookProgram (p : Fin 4) : Upd :=
  .read fun s =>
    let n := frameNow s
    let late (c : Cmd) : Bool := (psys s p).faults.day.any fun r => r.lsn == c.aux && decide (n ≤ r.commit)
    let done := (psys s p).cmds.filter fun c => c.opcode == 0x0906 && c.ring != 35 && c.phase == .running && !(late c)
    .seq [.part p fun y => { y with faults := { y.faults with
        day := y.faults.day.map fun r => if r.commit < n then { r with durable := true } else r } },
      regMod .daybookStatus p 0 fun w => setFld w 47 0 (n - 1),
      .each done fun c => postPlain p c stOk 0]

/-! ### DAYBOOK_INFO -/

/-- DAYBOOK_INFO (0x0907). -/
def specDaybookInfo : OpSpec :=
  { permit := fun s _ c => c.tenant == 0 || (match collOf s (par c 0 2) with | some x => x.tenant == c.tenant | none => true)
    len := fun _ _ _ => 8
    range := fun s p c => firstBad [((collOf s (par c 0 2)).isNone, 64), ((shardOf s p (par c 0 2) (par c 2 2)).isNone, 66), (par c 4 4 != 0, 68)]
    body := fun _ _ _ => 32 }

/-- ROLE: home, partner, or a partner that acts as home while the primary is down. -/
def dayRole (s : State) (p : Fin 4) (coll shard : Nat) : Nat :=
  match (collOf s coll).bind fun x => aget x.map shard with
  | some w =>
    if mPartnerValid w && mPartnerPart w == partId s && mPartnerPartition w == p.val && !(mPart w == partId s && mPartition w == p.val) then
      (if mDown w then 2 else 1)
    else 0
  | none => 0

def maxOf (l : List Nat) : Option Nat := l.foldl (fun a x => some (max x (a.getD 0))) none
def minOf (l : List Nat) : Option Nat := l.foldl (fun a x => some (min x (a.getD x))) none

/-- DAYBOOK_INFO (R528): a frame that there is no record of is a free value. -/
def cmdDaybookInfo (p : Fin 4) (ref : Nat) : Upd :=
  withCmd p ref 0x0907 fun c => .fresh fun v => .fresh fun u => .read fun s =>
    let coll := par c 0 2
    let shard := par c 2 2
    let mine := (psys s p).faults.day.filter fun r => r.id == coll && r.shard == shard && r.opcode != 0x0410
    let acked := mine.filter fun r => if dayRole s p coll shard = 0 then r.partnerDurable else r.durable
    let applied := ((shardOf s p coll shard).map (·.appliedFrame)).getD 0
    postReply p c stOk 0 (natLE 1 (dayRole s p coll shard) ++ zeros 7 ++ natLE 6 (fld (rd s .daybookStatus p) 47 0) ++
      natLE 6 ((maxOf (acked.map (·.commit))).getD (v.toNat % 2 ^ 48)) ++ natLE 6 applied ++
      natLE 6 ((minOf (mine.map (·.commit))).getD (u.toNat % 2 ^ 48)))

def execDaybookAppend (p : Fin 4) (ref : Nat) (s : State) : Host.Outcome State Fault Refusal := (cmdDaybookAppend p ref).go s
def execDaybookProgram (p : Fin 4) (s : State) : Host.Outcome State Fault Refusal := (cmdDaybookProgram p).go s
def execDaybookInfo (p : Fin 4) (ref : Nat) (s : State) : Host.Outcome State Fault Refusal := (cmdDaybookInfo p ref).go s

end Sys2Proof.Machine
end

