-- ==== Sys2Proof/Machine/Rings.lean ====
section
/-!
DEFINITION. The command windows and their rings (R44 to R60, R599): writes of slots, ring configuration, consumed counts.
-/

namespace Sys2Proof.Machine

/-! ### Who writes -/

/-- A writer or reader of the control space as the part sees it: agent, tenant, and where the access comes from. -/
structure Accessor where
  agent : Agent
  tenant : Option Nat
  srcPart : Nat
  srcPartition : Nat
  /-- TEN of the Alnos packet, for a command that a port writes (R428) -/
  ten : Nat
  deriving DecidableEq, Repr

/-- An agent of the part, or a host through the part's own port. -/
def accessorOf (s : State) (w : Issuer) : Accessor := ⟨w.agent, issuerTenant s w, partId s, w.partition.val, w.tenant⟩

/-! ### Slots (R45, R48, R54, R55, R599) -/

/-- Whether a ring of a KIND takes writes of an agent (R55). -/
def ringTakes (cfg : Word) : Agent → Bool
  | .host ld => fld cfg 59 58 == 1 && fld cfg 57 54 == ld.val
  | .port _ => fld cfg 59 58 == 2
  | _ => fld cfg 59 58 == 0

/-- A write to a ring's slots dropped and counted. -/
def slotDropped (p : Fin 4) (ring : Nat) : Upd := regCount .ringErrcount p ring 15 0 1

/-- Address of a partition's command window in its copy of the control space, and its bytes. -/
def windowAddr (p : Fin 4) (offset : Nat) : Nat := 0x30000000000 + p.val * 0x1000000 + 0x400000 + offset

/-- A slot's place in its ring's order of acceptance, counted from the slot accepted next (R47). -/
def ringTurn (cfg : Word) (y : PSys) (r slot : Nat) : Nat :=
  let (base, n) := ringSlots cfg
  (slot - base + n - (aget y.ringNext r).getD 0 % n) % n

/-- A slot whose seal has landed, with the packets that waited for it: they are accepted in its frame (R46, R47). -/
def PSys.landSeal (y : PSys) (l : Landed) : PSys :=
  { y with landed := (y.landed.map fun x => if x.ring = l.ring ∧ l.turn < x.turn then { x with frame := l.frame } else x) ++ [l] }

/-- The turn of a slot sealed now: its place in the order of acceptance since the ring was enabled. -/
def slotTurn (s : State) (p : Fin 4) (r slot : Nat) : Nat :=
  (aget (psys s p).ringNext r).getD 0 + ringTurn (rd s .ringCfg p r) (psys s p) r slot

/-- One slot written: the checks, the bytes, and the landing of the seal with a write that covers header bytes 56 to 63. A write to a
slot that still holds a sealed packet is an overrun, whoever makes it (R48). -/
def slotPiece (a : Accessor) (p : Fin 4) (slot within : Nat) (data : Bytes) : Upd :=
  .read fun s =>
    match slotOwner s p slot with
    | none =>
      let port : Bool := match a.agent with | .port _ => true | _ => false
      if a.tenant = some 0 ∨ port then memErr .unmapped p (sourceCode a.agent) (windowAddr p (slot * 0x2000 + within)) else ctlDenied
    | some r =>
      let cfg := rd s .ringCfg p r
      let port : Bool := match a.agent with | .port _ => true | _ => false
      let may : Bool := match a.tenant with | some t => t == 0 || unitServes s 10 (32 * p.val + r) t | none => false
      if !port ∧ !may then ctlDenied
      else if (psys s p).landed.any (·.slot == slot) then
        .seq [regSetBit .ringStatus p r 63, regNow .ringCfg p r (fun w => setBit w 63 false), slotDropped p r]
      else if !(bit cfg 63) ∨ !(ringTakes cfg a.agent) then slotDropped p r
      else .seq [.winWrite (p.val * 0x400000 + slot * 0x2000 + within) data,
        .when (decide (within ≤ 56) && decide (64 ≤ within + data.length))
          (.part p (·.landSeal ⟨slot, r, frameNow s, slotTurn s p r slot, cfg, a.agent == .steward, a.srcPart, a.srcPartition, a.ten⟩))]

/-- A write cut at slot boundaries (R318): slot, offset in it, bytes. -/
def slotCuts : Nat → Nat → Bytes → List (Nat × Nat × Bytes)
  | 0, _, _ => []
  | n + 1, off, data =>
    if data.isEmpty then []
    else
      let k := 0x2000 - off % 0x2000
      (off / 0x2000, off % 0x2000, data.take k) :: slotCuts n (off + k) (data.drop k)

/-- A write into a partition's command window. -/
def windowWrite (a : Accessor) (p : Fin 4) (offset : Nat) (data : Bytes) : Upd :=
  .each ((slotCuts 513 offset data).filter fun c => decide (c.1 < 512)) fun c => slotPiece a p c.1 c.2.1 c.2.2

/-- SLOT_WRITE. -/
def cmdSlotWrite (w : Issuer) (p : Fin 4) (offset : Nat) (data : Bytes) : Upd :=
  .read fun s => windowWrite (accessorOf s w) p offset data

/-! ### RING_CFG (R52, R53) -/

/-- Whether a local address may take a ring's consumed counts for a tenant (R53, R60). -/
def creditAddrOk (s : State) (tenant a : Nat) : Bool :=
  let b := unalias s a
  (regionOf b == .loft || regionOf b == .pantry) && rangeBound s tenant b 8

/-- Whether the part refuses to set ENABLE with a configuration. -/
def ringRefused (s : State) (p : Fin 4) (r : Nat) (v : Word) : Bool :=
  let dest := rd s .ringCreditDest p r
  let addr := (rd s .ringCreditAddr p r).toNat
  let kind := fld v 59 58
  let (base, n) := ringSlots v
  let others := (List.range 32).filter fun q => q != r && bit (rd s .ringCfg p q) 63
  !(ringSlotsOk v) || kind == 3 || (psys s p).landed.any (·.ring == r) ||
  others.any (fun q => let (b, m) := ringSlots (rd s .ringCfg p q); decide (b < base + n) && decide (base < b + m)) ||
  (kind == 2 && others.any fun q => fld (rd s .ringCfg p q) 59 58 == 2) ||
  addr % 8 != 0 ||
  (kind != 2 && !(bit dest 23) && fld dest 19 0 == partId s && !(creditAddrOk s (fld v 43 32) addr))

/-- CFG_ERR of a ring. -/
def ringCfgErr (p : Fin 4) (r : Nat) : Upd := regSetBit .ringStatus p r 62

/-- The value a write of RING_CFG carries once the fields that its writer may not set are put back: TENANT, which only a binding
sets (R487), and for a tenant's own write KIND and HOST_LD (R488). -/
def ringCfgValue (old : Word) (manager : Bool) (v : Word) : Word :=
  setFld (if manager then v else setFld v 59 54 (fld old 59 54)) 43 32 (fld old 43 32)

/-- A write of RING_CFG; a tenant that does not exist discards it (R484). -/
def ringCfgSet (p : Fin 4) (r : Nat) (manager : Bool) (value : Word) : Upd :=
  .read fun s =>
    let old := rd s .ringCfg p r
    let v := ringCfgValue old manager value &&& R.ringCfg.desc.rw
    let carried := if manager then value &&& R.ringCfg.desc.rw else v
    if manager ∧ s.fuse.maxTenants ≤ fld value 43 32 then ringCfgErr p r
    else if bit old 63 then
      if bit v 63 then ringCfgErr p r
      else .seq [regNow .ringCfg p r (fun w => setBit w 63 false), .when (setBit carried 63 true != old) (ringCfgErr p r)]
    else if !(bit v 63) then nowWrite .ringCfg p r v
    else if ringRefused s p r v then .seq [nowWrite .ringCfg p r (setBit v 63 false), ringCfgErr p r]
    else .seq [nowWrite .ringCfg p r v, .reg .ringConsumed p r 0, .reg .ringErrcount p r 0,
      .part p fun y => { y with ringNext := adel y.ringNext r, ringReported := adel y.ringReported r }]

/-- RING_CFG_WRITE. -/
def cmdRingCfgWrite (w : Issuer) (p : Fin 4) (ring : Fin 32) (v : Word) : Upd :=
  .read fun s => ctlReg w p .ringCfg ring.val (ringCfgSet p ring.val (issuerTenant s w == some 0) v)

/-! ### Consumed counts (R49, R60) -/

/-- Acceptances of a ring not yet reported. -/
def unreported (s : State) (p : Fin 4) (r : Nat) : Nat :=
  (rd s .ringConsumed p r).toNat - (aget (psys s p).ringReported r).getD 0

/-- CONSUMED_COUNT_WRITE: the count written to the credit address, or counted as not delivered. -/
def cmdConsumedCountWrite (p : Fin 4) (ring : Fin 32) : Upd :=
  .read fun s =>
    let r := ring.val
    let n := (rd s .ringConsumed p r).toNat
    let dest := rd s .ringCreditDest p r
    let host := bit dest 23
    let part := fld dest 19 0
    let addr := (rd s .ringCreditAddr p r).toNat
    let tenant := if fld (rd s .ringCfg p r) 59 58 = 2 then 0 else fld (rd s .ringCfg p r) 43 32
    let bytes := natLE 8 n
    if unreported s p r = 0 then .skip
    else .seq [.part p fun y => { y with ringReported := aset y.ringReported r n },
      if part = partId s ∧ !host then (if creditAddrOk s tenant addr then memStore addr bytes else creditLost p r)
      else if part = partId s then (if hostStatusOf s tenant = stOk then hostWriteUp tenant addr bytes else creditLost p r)
      else
        let pkt := mkPacket s Config.creditClass part tenant 0 (.memWr host addr bytes)
        if canRequest s pkt then request pkt (.credit p r) else creditLost p r]

/-- REPLY_COMPL_TIMEOUT (R59): no completion 64 frames after the write was sent. -/
def cmdReplyComplTimeout (tag : Nat) : Upd :=
  .read fun s => match s.sys.fab.outst.find? (·.tag == tag) with
    | some o => .when (decide (o.frame + 64 ≤ frameNow s) && !o.again && !(s.sys.fab.held.contains o.pkt) && !(s.sys.fab.waiting.contains o.pkt)) (writeLost o)
    | none => .skip

def execSlotWrite (w : Issuer) (p : Fin 4) (offset : Nat) (data : Bytes) (s : State) : Host.Outcome State Fault Refusal :=
  (cmdSlotWrite w p offset data).go s
def execRingCfgWrite (w : Issuer) (p : Fin 4) (ring : Fin 32) (v : Word) (s : State) : Host.Outcome State Fault Refusal :=
  (cmdRingCfgWrite w p ring v).go s
def execConsumedCountWrite (p : Fin 4) (ring : Fin 32) (s : State) : Host.Outcome State Fault Refusal := (cmdConsumedCountWrite p ring).go s
def execReplyComplTimeout (tag : Nat) (s : State) : Host.Outcome State Fault Refusal := (cmdReplyComplTimeout tag).go s

end Sys2Proof.Machine
end

