-- ==== Sys2Proof/Machine/RegWrite.lean ====
section
/-!
DEFINITION. The control space as software writes and reads it (R6, R7, R9, R317, R318, R488): the checks, and what each block makes
of a write.
-/

namespace Sys2Proof.Machine

/-! ### Writes that a block checks -/

/-- A checked write: the error flag set and the old value kept, or the write performed. -/
def checkedWrite (bad : Bool) (err perform : Upd) : Upd := if bad then err else perform

/-- FRAME_CTL (R30): a PERIOD_NEXT outside 4 to 256 is discarded, the other fields are written. -/
def frameCtlSet (v : Word) : Upd :=
  .read fun s =>
    if 4 ≤ fld v 8 0 ∧ fld v 8 0 ≤ 256 then nowWrite .frameCtl 0 0 v
    else .seq [nowWrite .frameCtl 0 0 (setFld v 8 0 (fld (rd s .frameCtl 0) 8 0)), regSetBit .frameStatus 0 0 16]

/-- FRAME_APPLY (R32): on the Bell source a change fewer than 8 frames ahead is refused: the register keeps its value, and a change armed
before stands. -/
def frameApplySet (v : Word) : Upd :=
  .read fun s =>
    let late := bit (rd s .frameCtl 0) 24 && decide (fld v 47 0 < frameNow s + 8)
    if late then regSetBit .frameStatus 0 0 16
    else .seq [nowWrite .frameApply 0 0 v, .sys fun y => { y with bell := { y.bell with armed := true } }]

/-- NUM_FLAGS: the flags, and CLR_COUNTS (Table 6.11). -/
def numFlagsSet (p : Fin 4) (v : Word) : Upd :=
  .seq [nowWrite .numFlags p 0 v, .when (bit v 63) (.seq [.reg .numCount0 p 0 0, .reg .numCount1 p 0 0])]

/-- DRIFT_CTL and DRIFT_TAU (R246). -/
def driftSet (p : Fin 4) (tau : Bool) (v : Word) : Upd :=
  let bad : Bool := if tau then bit v 31 || fld v 31 0 == 0 || !(f32Finite (fld v 31 0))
    else decide (fld v 11 8 < 6) || decide (14 < fld v 11 8) || fld v 2 1 == 3
  checkedWrite bad (regSetBit .driftStatus p 0 62) (plainWrite (if tau then .driftTau else .driftCtl) p 0 v)

/-- CFG_ERR of the fabric block. -/
def fabCfgErr : Upd := regSetBit .fabStatus 0 0 63

/-- The host port's ports retrained (R442): every packet held for A0 and A1 is discarded and counted. -/
def hostRetrain (on : Bool) : Upd :=
  .seq [.each [0, 1] fun k => .read fun s =>
      .seq [portDrops k (portOf s k).tx.length, portMod k fun _ => Port.reset, discarded (((portOf s k).tx.filter (!·.1)).map (·.2)),
        regMod .portStatus 0 k fun w => setFld w 59 56 0],
    sendWaiting, .read fun s => .when (fld (rd s .hostStatus 0) 63 60 == 2) (hostDomsFail 1 true fun _ => true),
    regMod .hostStatus 0 0 fun w => setFld w 63 60 on.toNat]

/-- HOST_CFG (R442, R447, Table 17.8): HOST_EN is not set where the fuse forbids it. -/
def hostCfgSet (v : Word) : Upd :=
  .read fun s =>
    let n := fld v 36 32
    let change := bit v 63 != bit (rd s .hostCfg 0) 63
    checkedWrite ((bit v 63 && !s.fuse.hostAllow) || n == 0 || decide (16 < n)) fabCfgErr
      (.seq [nowWrite .hostCfg 0 0 v, .when change (hostRetrain (bit v 63))])

/-- PORT_CFG (R447). -/
def portCfgSet (k : Nat) (v : Word) : Upd :=
  checkedWrite (fld v 62 60 == 7 || (fld v 62 60 == 6 && k != 0)) fabCfgErr (plainWrite .portCfg 0 k v)

/-- ROUTE_IDX and PEER_IDX: the data registers show the entry they reach. -/
def routeIdxSet (v : Word) : Upd :=
  .seq [nowWrite .routeIdx 0 0 v, .read fun s => .reg .routeData 0 0 ((aget s.sys.fab.routes (fld v 15 0)).getD 0)]
def peerIdxSet (v : Word) : Upd :=
  .seq [nowWrite .peerIdx 0 0 v, .read fun s => .seq [.reg .peerData0 0 0 ((aget s.sys.fab.peers0 (fld v 11 0)).getD 0),
    .reg .peerData1 0 0 ((aget s.sys.fab.peers1 (fld v 11 0)).getD 0)]]

/-- ROUTE_DATA, PEER_DATA0 and PEER_DATA1: the entry at the index, in force at the next Bell (R433, R447); an entry that names a
tenant that does not exist is discarded (R484). -/
def routeDataSet (v : Word) : Upd :=
  .seq [nowWrite .routeData 0 0 v, .read fun s => .sys fun y => { y with fab := { y.fab with
    routes := aset y.fab.routes (fld (rd s .routeIdx 0) 15 0) (rd s .routeData 0) } }]
def peerData0Set (v : Word) : Upd :=
  .seq [nowWrite .peerData0 0 0 v, .read fun s => .sys fun y => { y with fab := { y.fab with
    peers0 := aset y.fab.peers0 (fld (rd s .peerIdx 0) 11 0) (rd s .peerData0 0) } }]
def peerData1Set (v : Word) : Upd :=
  .read fun s => checkedWrite ((List.range 4).any fun i => bit v (60 + i) && decide (s.fuse.maxTenants ≤ fld v (12 * i + 11) (12 * i))) fabCfgErr
    (.seq [nowWrite .peerData1 0 0 v, .read fun s => .sys fun y => { y with fab := { y.fab with
      peers1 := aset y.fab.peers1 (fld (rd s .peerIdx 0) 11 0) (rd s .peerData1 0) } }])

/-- A write of a shaper or meter noted for the next Bell step (R452). -/
def touch (r : R) (p : Fin 4) (i : Nat) : Upd := .sys fun y => { y with touched := regKey r p i :: y.touched }

/-- CFG_ERR of the traffic block of a register (Table 15.4). -/
def trafficErr (r : R) (p : Fin 4) : Upd := if r.desc.part then regSetBit .tcStatus 0 0 63 else regSetBit .polStatus p 0 63

/-- A traffic register (R458). -/
def trafficSet (r : R) (p : Fin 4) (i : Nat) (v : Word) : Upd :=
  .read fun s =>
    let on := bit (rd s .meterCfg p i) 63
    let bad : Bool := match r with
      | .portWrr => fld v 23 16 == 0 || fld v 15 8 == 0 || fld v 7 0 == 0
      | .meterCfg => (bit v 63 && (fld (rd s .meterC p i) 39 20 == 0 || fld (rd s .meterE p i) 39 20 == 0)) ||
          (List.range 8).any (fun j => fld v (33 + 2 * j) (32 + 2 * j) == 3) || decide (s.fuse.maxTenants ≤ fld v 11 0)
      | .meterC | .meterE => on && fld v 39 20 == 0
      | _ => bit v 63 && fld v 39 20 == 0
    checkedWrite bad (trafficErr r p) (.seq [plainWrite r p i v, touch r p i])

/-- COH_CTL (R482). -/
def cohCtlSet (p : Fin 4) (v : Word) : Upd :=
  checkedWrite (fld v 7 0 == 0 || decide (64 < fld v 7 0)) (regSetBit .cohStatus p 0 61) (plainWrite .cohCtl p 0 v)

/-- LEDGER_CTL (R502), in force at once; a tenant that does not exist is discarded (R484), the block having no CFG_ERR. -/
def ledgerCtlSet (v : Word) : Upd :=
  .read fun s => .when (decide (fld v 11 0 < s.fuse.maxTenants)) (.seq [nowWrite .ledgerCtl 0 0 v, ledgerWindow])

/-- FAULT_CTL and CRIER_CFG (R533). -/
def faultCtlSet (p : Fin 4) (v : Word) : Upd :=
  checkedWrite (decide (1024 < fld v 32 22) || decide (2048 < fld v 43 33 + fld v 32 22)) (regSetBit .faultStatus p 0 62) (plainWrite .faultCtl p 0 v)
def crierCfgSet (v : Word) : Upd :=
  checkedWrite (fld v 23 16 == 0 || decide (fld v 4 0 < 8) || decide (20 < fld v 4 0)) (regSetBit .faultStatus 0 0 62) (plainWrite .crierCfg 0 0 v)

/-- Package registers (R582); a write of PWR_CTL asks for its TARGET at the next Bell step. -/
def pkgSet (r : R) (v : Word) : Upd :=
  let bad : Bool := match r with
    | .pwrCtl => decide (3 < fld v 2 0)
    | .pwrCap => decide (fld v 11 0 < 800) || decide (2200 < fld v 11 0)
    | .thermCfg => decide (fld v 15 8 < fld v 7 0) || decide (103 < fld v 15 8)
    | _ => false
  checkedWrite bad (regSetBit .pkgStatus 0 0 63) (.seq [plainWrite r 0 0 v, .when (r == .pwrCtl) (touch .pwrCtl 0 0)])

/-- What a performed write does to a register: the block's own rule, else its RW and W1C bits, at the next Bell where the block
says so. -/
def regSet (steward manager : Bool) (r : R) (p : Fin 4) (i : Nat) (v : Word) : Upd :=
  match r with
  | .frameCtl => frameCtlSet v
  | .frameApply => frameApplySet v
  | .ringCfg => ringCfgSet p i manager v
  | .numFlags => numFlagsSet p v
  | .driftCtl => driftSet p false v
  | .driftTau => driftSet p true v
  | .stkCtl => stkCtlSet (6 * p.val + i) v
  | .dmaCtl => dmaCtlWrite p i steward v
  | .dmaSrc | .dmaDst | .dmaParts | .dmaCount | .dmaDesc | .dmaStatus => dmaRegWrite r p i v
  | .fabId => checkedWrite (!([1, 4, 8, 12, 16].contains (fld v 28 24))) fabCfgErr (nowWrite .fabId 0 0 v)
  | .portCfg => portCfgSet i v
  | .routeIdx => routeIdxSet v
  | .routeData => routeDataSet v
  | .peerIdx => peerIdxSet v
  | .peerData0 => peerData0Set v
  | .peerData1 => peerData1Set v
  | .hostCfg => hostCfgSet v
  | .portShape1 | .portShape2 | .portShape3 | .portWrr | .partShape1 | .partShape2 | .partShape3 | .meterCfg | .meterC | .meterE =>
    trafficSet r p i v
  | .cohCtl => cohCtlSet p v
  | .ledgerCtl => ledgerCtlSet v
  | .faultCtl => faultCtlSet p v
  | .crierCfg => crierCfgSet v
  | .fwCtl => fwCtlWrite v
  | .dbgToken => tokenWrite v
  | .pwrCtl | .pwrCap | .thermCfg | .bellpinCfg => pkgSet r v
  | .utCtl => utCtlWrite p v
  | .utBase => utBaseWrite p v
  | .millCtl | .batchThresh | .flCtl | .crierDest | .crierRing => plainWrite r p i v
  | _ => .when (r.desc.rw ||| r.desc.w1c != 0) (nowWrite r p i v)

/-! ### Accesses -/

/-- The block of a register page that R488 speaks of: a DMA channel, a ring, a tenant. -/
def pageBlock (page off : Nat) : Nat := if page = 0x0B ∨ page = 0x02 then off / 0x40 else if page = 0x06 then off / 8 else 0

/-- The partition in whose memory block an access of the control space is recorded. -/
def ctlErrBlock (a : Accessor) : Fin 4 :=
  match a.agent with
  | .host _ | .port _ => 0
  | _ => toP a.srcPartition

/-- A write at an offset of the control space (R317, R318, R488). -/
def ctlWrite (a : Accessor) (off : Nat) (data : Bytes) : Upd :=
  let p := toP (off / 0x1000000)
  let o := off % 0x1000000
  let page := o / 0x10000
  if 0x40 ≤ page ∧ page < 0x80 then windowWrite a p (o - 0x400000) data
  else .read fun s =>
    if !(tenantMayWrite s a.tenant p page (pageBlock page (o % 0x10000))) then ctlDenied
    else if page = 0 ∨ 0x18 < page then .skip
    else if data.length ≠ 8 ∨ o % 8 ≠ 0 then memErr .ctlSize (ctlErrBlock a) (sourceCode a.agent) (0x30000000000 + off)
    else match regAt o with
      | some (r, i) => regSet (a.agent == .steward) (a.tenant == some 0) r p i (BitVec.ofNat 64 (leNat data))
      | none => .skip

/-- A register as an access reads it: the fuse registers show the fuses. -/
def regRead (s : State) (r : R) (p : Fin 4) (i : Nat) : Word :=
  match r with
  | .fuseCfg => fuseCfgWord s.fuse
  | .fuseDigest => fuseDigestWord s.fuse i
  | _ => rd s r p i

/-- Whether a reader may read every slot of a range of a window (R488). -/
def windowMayRead (s : State) (a : Accessor) (p : Fin 4) (offset n : Nat) : Bool :=
  match a.tenant with
  | none => false
  | some t => t == 0 || (List.range (ceilDiv (offset % 0x2000 + n) 0x2000)).all fun i =>
      match slotOwner s p (offset / 0x2000 + i) with
      | some r => unitServes s 10 (32 * p.val + r) t
      | none => false

/-- A read of n bytes at an offset of the control space: 0 where it is refused or of a wrong size. -/
def ctlRead (a : Accessor) (off n : Nat) (k : Bytes → Upd) : Upd :=
  let p := toP (off / 0x1000000)
  let o := off % 0x1000000
  let page := o / 0x10000
  .read fun s =>
    if 0x40 ≤ page ∧ page < 0x80 then
      if windowMayRead s a p (o - 0x400000) n then k (Mem.readBytes s.win (p.val * 0x400000 + (o - 0x400000)) n)
      else .seq [ctlDenied, k (zeros n)]
    else if !(tenantMayRead s a.tenant p page (o % 0x10000)) then .seq [ctlDenied, k (zeros n)]
    else if page = 0 ∨ 0x18 < page then k (zeros n)
    else if n ≠ 8 ∨ o % 8 ≠ 0 then .seq [memErr .ctlSize (ctlErrBlock a) (sourceCode a.agent) (0x30000000000 + off), k (zeros n)]
    else match regAt o with
      | some (r, i) => k (natLE 8 (regRead s r p i).toNat)
      | none => k (zeros n)

/-- REGISTER_WRITE. -/
def cmdRegisterWrite (w : Issuer) (addr : Nat) (data : Bytes) : Upd :=
  .when (regionOf addr == .control) (.read fun s => ctlWrite (accessorOf s w) (addr - 0x30000000000) data)

/-- FRAME_CTL_WRITE, FRAME_APPLY_WRITE, NUM_CLR_COUNTS, DRIFT_CTL_WRITE, HOST_EN_WRITE: writes of one register. -/
def cmdFrameCtlWrite (w : Issuer) (v : Word) : Upd := ctlReg w 0 .frameCtl 0 (frameCtlSet v)
def cmdFrameApplyWrite (w : Issuer) (v : Word) : Upd := ctlReg w 0 .frameApply 0 (frameApplySet v)
def cmdNumClrCounts (w : Issuer) (p : Fin 4) (v : Word) : Upd := ctlReg w p .numFlags 0 (numFlagsSet p v)
def cmdDriftCtlWrite (w : Issuer) (p : Fin 4) (tau : Bool) (v : Word) : Upd := ctlReg w p .driftCtl 0 (driftSet p tau v)
def cmdHostEnWrite (w : Issuer) (v : Word) : Upd := ctlReg w 0 .hostCfg 0 (hostCfgSet v)

def execRegisterWrite (w : Issuer) (addr : Nat) (data : Bytes) (s : State) : Host.Outcome State Fault Refusal := (cmdRegisterWrite w addr data).go s
def execFrameCtlWrite (w : Issuer) (v : Word) (s : State) : Host.Outcome State Fault Refusal := (cmdFrameCtlWrite w v).go s
def execFrameApplyWrite (w : Issuer) (v : Word) (s : State) : Host.Outcome State Fault Refusal := (cmdFrameApplyWrite w v).go s
def execNumClrCounts (w : Issuer) (p : Fin 4) (v : Word) (s : State) : Host.Outcome State Fault Refusal := (cmdNumClrCounts w p v).go s
def execDriftCtlWrite (w : Issuer) (p : Fin 4) (tau : Bool) (v : Word) (s : State) : Host.Outcome State Fault Refusal :=
  (cmdDriftCtlWrite w p tau v).go s
def execHostEnWrite (w : Issuer) (v : Word) (s : State) : Host.Outcome State Fault Refusal := (cmdHostEnWrite w v).go s

end Sys2Proof.Machine
end

