-- ==== Sys2Proof/Machine/Packets.lean ====
section
/-!
DEFINITION. Packets that arrive for the part (R428, R429, R437, R446, R456) and the host port (R442 to R446, R553): memory requests,
completions, commands of peers, host windows, host memory requests.
-/

namespace Sys2Proof.Machine

/-! ### Memory requests of other parts -/

/-- What follows when a share's reply completes a piece, the row commands included. -/
def shareLanded (p : Fin 4) (ref : Nat) : Upd :=
  .seq [pieceLanded p ref, .read fun s => match cmdOf s p ref with
    | some c => .when ([0x0604, 0x0605, 0x0606, 0x0410].contains c.opcode) (rowCheck p ref)
    | none => .skip]

/-- A write of another part into a fan-out record's area (R601): the partition it comes from is the one the slot awaits. -/
def fanArrive (pkt : Packet) (q : Fin 4) (record off : Nat) (data : Bytes) : Upd :=
  .read fun s =>
    let frm := (allP.find? fun r => (pieceAt (psys s q) pkt.src r.val record off data.length).isSome).getD 0
    .seq [fanWrite pkt.src frm q record off data (shareLanded q), complete pkt stOk data.length false []]

/-- Free bytes: what a host's memory answers. -/
def hostBytes (s : State) (n : Nat) : Bytes := (List.range n).map fun i => BitVec.ofNat 8 (Config.pick (opKey s.sys.free + i) 256)

/-- A request for a host address (R445, R446): a write is performed when it has been issued upstream; what the host's memory
answers to a read, poison included, is free. -/
def hostForPeer (pkt : Packet) : Upd :=
  .read fun s =>
    let st := hostStatusOf s pkt.ten
    match pkt.body with
    | .memWr _ a d => if st = stOk then .seq [hostWriteUp pkt.ten a d, complete pkt stOk d.length false []] else complete pkt st 0 false []
    | .memRd _ a n =>
      if st = stOk then
        .seq [(match hostLd s pkt.ten with | some l => emit (.hostRead l pkt.tag a n) | none => .skip),
          .sys fun y => { y with free := y.free + 1 },
          if Config.pick (opKey s.sys.free + n) 2 % 2 = 1 then complete pkt stPoisoned 0 true [] else complete pkt stOk n false (hostBytes s n)]
      else complete pkt st 0 false []
    | _ => .skip

/-- The accessor of a request that a host of another part originated. -/
def hostAccessor (pkt : Packet) : Accessor := ⟨.host (Fin.ofNat 16 pkt.ld), some pkt.ten, pkt.src, 0, pkt.ten⟩

/-- A request for the control space: of a host, as R488 permits; of a part, refused (R322). -/
def controlForPeer (pkt : Packet) (a : Nat) : Upd :=
  if !pkt.hostSrc then .seq [memErr .unmapped 0 7 a, complete pkt stNotBound 0 false []]
  else match pkt.body with
    | .memWr _ _ d => .seq [ctlWrite (hostAccessor pkt) (a - 0x30000000000) d, complete pkt stOk d.length false []]
    | .memRd _ _ n => ctlRead (hostAccessor pkt) (a - 0x30000000000) n fun d => complete pkt stOk n false d
    | _ => .skip

/-- A request whose class a meter lowers: its slot counts for the new class (R455). -/
def demoted (pkt : Packet) (cls : Nat) (u : Packet → Upd) : Upd :=
  .read fun s =>
    if cls = pkt.cls.val then u pkt
    else match peerOf s pkt.src with
      | none => u { pkt with cls := Fin.ofNat 4 cls }
      | some i =>
        let moved (l : List Credit) : List Credit := creditMod (creditMod l i true pkt.cls.val 0 (frameNow s) (· - 1)) i true cls 0 (frameNow s) (· + 1)
        .seq [.sys fun y => { y with fab := { y.fab with lent := moved y.fab.lent } },
          u { pkt with cls := Fin.ofNat 4 cls }]

/-- A memory request taken up: peer and tenant, then where its address lies, then the meter. -/
def memRequest (k : Nat) (pkt : Packet) (host : Bool) (a : Nat) : Upd :=
  .read fun s =>
    let listed : Bool := match peerOf s pkt.src with | some i => peerLists s i pkt.ten | none => false
    if !listed then complete pkt stNotBound 0 false []
    else if host then hostForPeer pkt
    else match pkt.body, fanAt a with
      | .memWr _ _ d, some (q, record, off) =>
        if pkt.hostSrc then .seq [discardResult q, complete pkt stOk d.length false []] else fanArrive pkt q record off d
      | _, _ =>
        if regionOf a = .control then controlForPeer pkt a
        else if pkt.hostSrc then peerMem k pkt
        else
          let p := (ownerOf s (unalias s a)).getD 0
          metered p pkt.ten pkt.cls.val fun v => match v with
            | .refuse _ => complete pkt stRetry 0 false []
            | .pass c => demoted pkt c (peerMem k)

/-- MEM_RD and MEM_WR. -/
def cmdMemRd (k : Fin 12) (pkt : Packet) : Upd :=
  takeRx k.val pkt (match pkt.body with | .memRd h a _ => memRequest k.val pkt h a | _ => .skip)
def cmdMemWr (k : Fin 12) (pkt : Packet) : Upd :=
  takeRx k.val pkt (match pkt.body with | .memWr h a _ => memRequest k.val pkt h a | _ => .skip)

/-! ### Completions -/

/-- A request no longer awaited. -/
def outDone (o : Outst) : Upd := .sys fun y => { y with fab := { y.fab with outst := y.fab.outst.erase o } }

/-- A request marked as waiting to be issued again, or issued again, from this frame. -/
def outMod (o : Outst) (again : Bool) : Upd :=
  .read fun s =>
    let f (x : Outst) : Outst := if x = o then { x with again, frame := frameNow s } else x
    .sys fun y => { y with fab := { y.fab with outst := y.fab.outst.map f } }

/-- COMPL: what the request was for goes on; a request that a meter refused waits to be issued again (R456). -/
def cmdCompl (k : Fin 12) (pkt : Packet) : Upd :=
  takeRx k.val pkt <| .read fun s =>
    match pkt.body, s.sys.fab.outst.find? fun o => o.tag == pkt.tag && o.dst == pkt.src with
    | .compl status _ data, some o =>
      if status = stRetry then
        outMod o true
      else match o.why with
        | .reply _ _ _ | .credit _ _ => if status = stOk then .seq [outDone o, replyRest o.why] else writeLost o
        | .dmaWrite p j no => .seq [outDone o, dmaWriteBack p j no status]
        | .dmaRead p j => .seq [outDone o, dmaReadBack p j o.pkt status data]
        | .hostWindow ld => .seq [outDone o, match o.pkt.body with
            | .memRd _ _ n => if status = stOk then emit (.hostData ld o.tag false data) else emit (.hostData ld o.tag true (zeros n))
            | _ => .skip]
    | _, _ => .skip

/-- REQUEST_REISSUE (R456): at or after the next Bell. -/
def cmdRequestReissue (tag : Nat) : Upd :=
  .read fun s => match s.sys.fab.outst.find? fun o => o.tag == tag && o.again && decide (o.frame < frameNow s) with
    | some o => .seq [outMod o false, sendCredited o.pkt]
    | none => .skip

/-! ### Commands of peers (R428) -/

/-- CMD: written into the next slot of the FABRIC ring, the seal last; dropped where the sender is no peer, the ring is off or its
next slot is not free. -/
def cmdCmd (k : Fin 12) (pkt : Packet) : Upd :=
  takeRx k.val pkt <| .read fun s =>
    let p := pkt.dstPartition
    match pkt.body with
    | .cmd bytes =>
      if (peerOf s pkt.src).isNone then portDrops k.val 1
      else match fabricRing s p with
        | none => .seq [portDrops k.val 1,
            match (List.range 32).find? fun r => fld (rd s .ringCfg p r) 59 58 == 2 && ringSlotsOk (rd s .ringCfg p r) with
            | some r => slotDropped p r
            | none => .skip]
        | some r =>
          let (base, n) := ringSlots (rd s .ringCfg p r)
          let waiting := (psys s p).landed.countP (·.ring == r)
          let turn := (aget (psys s p).ringNext r).getD 0 + waiting
          let slot := base + turn % n
          if n ≤ waiting then .seq [portDrops k.val 1, slotDropped p r]
          else .seq [.winWrite (p.val * 0x400000 + slot * 0x2000) (bytes.take 4160),
            .part p fun y => { y with landed := y.landed ++ [⟨slot, r, frameNow s, turn, rd s .ringCfg p r, true, pkt.src, 0, pkt.ten⟩] }]
    | _ => .skip

/-! ### The host port -/

/-- Whether a request of a host comes in: the host port is on, its device enabled, and IDE in place where it is required (R553). -/
def hostIn (ld : Nat) (secure : Bool) (u : Upd) : Upd :=
  .read fun s =>
    if !(bit (rd s .hostCfg 0) 63) ∨ fld (rd s .hostStatus 0) 63 60 ≠ 2 ∨ !(bit (rd s .hostStatus 0) ld) then .skip
    else if bit (lv s .secCtl 0) 0 && !(secure && (List.range 5).any fun i => (ideOf s i).state == .secure) then regCount .secStatus 0 0 47 32 1
    else u

/-- A host's window access carried to another part of the group (R444). -/
def windowSend (ld pos : Nat) (body : Payload) : Upd :=
  .read fun s =>
    let u := unit s 11 ld
    let cls := if (match body with | .memWr _ _ _ => true | _ => false) && bit (rd s .hostCfg 0) (16 + ld) then 0 else 1
    let pkt := { mkPacket s cls (partId s / 16 * 16 + pos) u.tenant 0 body with hostSrc := true, ld }
    if u.state ≠ .bound then .seq [ctlDenied, match body with
      | .memRd _ _ n => emit (.hostData ld 0 false (zeros n))
      | _ => .skip]
    else if canRequest s pkt then request pkt (.hostWindow ld)
    else match body with
      | .memRd _ _ n => .seq [regSetBit .fabStatus 0 0 62, emit (.hostData ld 0 true (zeros n))]
      | _ => regSetBit .fabStatus 0 0 62

/-- HOST_WINDOW_WRITE (R444): a write with data, else a read; BAR0 holds the command windows, BAR2 the control spaces. A read of
BAR0, which the bridge does not carry, has free data. -/
def cmdHostWindowWrite (ld : Fin 16) (secure bar2 : Bool) (offset len : Nat) (data : Bytes) : Upd :=
  hostIn ld.val secure <| .read fun s =>
    let u := unit s 11 ld.val
    let me : Accessor := ⟨.host ld, if u.state = .bound then some u.tenant else none, partId s, 0, u.tenant⟩
    let pos := if bar2 then offset / 0x4000000 else offset / 0x1000000
    let off := if bar2 then offset % 0x4000000 else offset / 0x400000 % 4 * 0x1000000 + 0x400000 + offset % 0x400000
    let here := pos = partId s % 16
    let addr := 0x30000000000 + off
    if 16 ≤ pos then .skip
    else if data ≠ [] then
      (if here then ctlWrite me off data else .each (indexed (chunks 1024 data)) fun c => windowSend ld.val pos (.memWr false (addr + 1024 * c.1) c.2))
    else if !bar2 then .seq [.sys fun y => { y with free := y.free + 1 }, emit (.hostData ld.val 0 false (hostBytes s len))]
    else if here then ctlRead me off len fun d => emit (.hostData ld.val 0 false d)
    else windowSend ld.val pos (.memRd false addr len)

/-- HOST_LINK_CHANGE (R476): the hosts behind the port are dead when it leaves L0. -/
def cmdHostLinkChange (link : HostLink) (speed : Fin 3) (width8 : Bool) : Upd :=
  .read fun s =>
    let n := match link with | .down => 0 | .training => 1 | .l0 => 2
    .when (bit (rd s .hostCfg 0) 63) (.seq [
      .when (fld (rd s .hostStatus 0) 63 60 == 2 && n != 2) (hostDomsFail 1 true fun _ => true),
      regMod .hostStatus 0 0 fun w => setBit (setFld (setFld w 63 60 n) 59 58 speed.val) 57 width8])

/-- LD_ACTIVE_CHANGE: a host enables or disables its logical device. -/
def cmdLdActiveChange (ld : Fin 16) (enabled : Bool) : Upd :=
  .read fun s => .when (bit (rd s .hostCfg 0) 63 && decide (ld.val < fld (rd s .hostCfg 0) 36 32)) (.seq [
    .when (bit (rd s .hostStatus 0) ld.val && !enabled) (hostDomsFail 1 true (· == ld.val)),
    regMod .hostStatus 0 0 fun w => setBit w ld.val enabled])

/-! ### Host memory requests (R467, R474, Table 16.4) -/

/-- Where a device physical address of a logical device lies: the part that homes it, the domain, the agent and the line. -/
structure HostLine where
  home : Nat
  dom : Domain
  agent : Nat
  line : Nat
  deriving DecidableEq, Repr

/-- The line in an extent that this part homes, or else in one that was revoked. -/
def ownLine (s : State) (ld dpa : Nat) : Option HostLine :=
  (s.sys.coh.exts.filter (fun e => !e.gone) ++ s.sys.coh.exts.filter Ext.gone).findSome? fun e =>
    if extLd s e = some ld ∧ e.dpa ≤ dpa ∧ dpa < e.dpa + e.bytes then
      (extAgent s e).map fun x => ⟨partId s, x.1, e.holder, (e.base + (dpa - e.dpa)) / 64 * 64⟩
    else none

/-- The line in an extent that another part homes: the messages say neither its place nor its DPA. -/
def farLine (s : State) (ld dpa : Nat) : Option HostLine :=
  let l := s.sys.coh.hostExts.filter (·.2.2 == ld)
  let x := if l.length ≤ 1 then l.head? else l[Config.extAt ld dpa % l.length]?
  x.bind fun x =>
    let word := partId s + ld * 2 ^ 20 + 2 ^ 24
    (s.sys.coh.doms.find? fun d => (agentIdx d x.1).isSome && (agentIdx d word).isSome).bind fun d =>
      (agentIdx d word).map fun i => ⟨x.1, d, i, Config.extLine x.1 x.2.1 dpa / 64 * 64⟩

/-- A host's request to another home. -/
def hostAsk (x : HostLine) (msg : CohMsg) (mt : Meta) (data : Bytes) : Upd :=
  .read fun s => .seq [.sys fun y => { y with fab := { y.fab with nextTag := (y.fab.nextTag + 1) % 65536 } },
    sendCredited { mkPacket s 0 x.home x.dom.tenant 0 (.coh msg mt x.agent x.line data) with tag := s.sys.fab.nextTag }]

/-- An answer to a snoop taken off the list of those unanswered. -/
def snoopAnswered (x : HostLine) (ld : Nat) (u : Upd) : Upd :=
  .read fun s => .when (s.sys.coh.asked.contains (x.home, x.agent, x.line, ld))
    (.seq [cohMod fun c => { c with asked := c.asked.erase (x.home, x.agent, x.line, ld) }, u])

/-- HOST_CXL_MEM_REQUEST: a request under an extent; one outside every extent (R353): a read gets poisoned data, a write is
discarded. -/
def cmdHostCxlMemRequest (ld : Fin 16) (secure : Bool) (req : HostReq) (dpa : Nat) : Upd :=
  hostIn ld.val secure <| .read fun s =>
    match (ownLine s ld.val dpa).orElse (fun _ => farLine s ld.val dpa) with
    | none => .seq [memErr .unmapped 0 6 dpa, match req with
        | .memRd _ => emit (.hostData ld.val 0 true (zeros 64))
        | _ => emit (.hostData ld.val 0 false [])]
    | some x =>
      if x.home = partId s then match req with
        | .memRd mt => .seq [cohRd x.dom x.agent 0 x.line mt, peerRetry]
        | .memWr mt data => .seq [cohWr x.dom x.agent 0 x.line mt data, peerRetry]
        | .clnEvct => .seq [cohCln x.dom x.agent 0 x.line, peerRetry]
        | .snoopAnswer mt => snoopAnswered x ld.val (.seq [cohRsp x.dom x.agent x.line mt, peerRetry])
      else match req with
        | .memRd mt => hostAsk x .hRd mt []
        | .memWr mt data => hostAsk x .hWr mt (padTo 64 data)
        | .clnEvct => hostAsk x .hCln .invalid []
        | .snoopAnswer mt => snoopAnswered x ld.val (cohSend x.home x.dom.tenant 0 false .biRsp mt x.agent x.line [])

def execFanoutReply (fromPart : Nat) (fromPartition p : Fin 4) (record offset : Nat) (data : Bytes) (s : State) :
    Host.Outcome State Fault Refusal := (cmdFanoutReply fromPart fromPartition p record offset data shareLanded).go s
def execMemRd (k : Fin 12) (pkt : Packet) (s : State) : Host.Outcome State Fault Refusal := (cmdMemRd k pkt).go s
def execMemWr (k : Fin 12) (pkt : Packet) (s : State) : Host.Outcome State Fault Refusal := (cmdMemWr k pkt).go s
def execCompl (k : Fin 12) (pkt : Packet) (s : State) : Host.Outcome State Fault Refusal := (cmdCompl k pkt).go s
def execCmd (k : Fin 12) (pkt : Packet) (s : State) : Host.Outcome State Fault Refusal := (cmdCmd k pkt).go s
def execRequestReissue (tag : Nat) (s : State) : Host.Outcome State Fault Refusal := (cmdRequestReissue tag).go s
def execHostWindowWrite (ld : Fin 16) (secure bar2 : Bool) (offset len : Nat) (data : Bytes) (s : State) : Host.Outcome State Fault Refusal :=
  (cmdHostWindowWrite ld secure bar2 offset len data).go s
def execHostLinkChange (link : HostLink) (speed : Fin 3) (width8 : Bool) (s : State) : Host.Outcome State Fault Refusal :=
  (cmdHostLinkChange link speed width8).go s
def execLdActiveChange (ld : Fin 16) (enabled : Bool) (s : State) : Host.Outcome State Fault Refusal := (cmdLdActiveChange ld enabled).go s
def execHostCxlMemRequest (ld : Fin 16) (secure : Bool) (req : HostReq) (dpa : Nat) (s : State) : Host.Outcome State Fault Refusal :=
  (cmdHostCxlMemRequest ld secure req dpa).go s

end Sys2Proof.Machine
end

