-- ==== Sys2Proof/Machine/Accept.lean ====
section
/-!
DEFINITION. Acceptance (R46 to R49, R57, R58, R578) and validation (Table 2.11) of command packets.
-/

namespace Sys2Proof.Machine

/-! ### Opcodes (R62, R63) -/

/-- What is said of an opcode that is allocated and exists now. -/
def opSpec (s : State) (p : Fin 4) (op : Nat) : Option OpSpec :=
  match op with
  | 0x0101 => some specNop | 0x0102 => some specIdentify | 0x0103 => some specCancel
  | 0x0201 => some specCollDefine | 0x0202 => some specCollMap | 0x0203 => some specShardSet | 0x0204 => some specCollOpen
  | 0x0205 => some specCollTune | 0x0206 => some specCollClose | 0x0207 => some specCollRead
  | 0x0301 => some specSearch | 0x0302 => some specSearchX | 0x0303 => some specSearchShard
  | 0x0401 => some specInsert | 0x0402 => some specDelete | 0x0403 => some specReplace | 0x0404 => some specUpdateShard
  | 0x0405 => some specCompact | 0x0406 => some specShelfBuild | 0x0407 => some specShelfSwap | 0x0408 => some specMigrate
  | 0x0409 => some specNodeRead | 0x040A => some specRepairCtl | 0x040B => some specCommitRead | 0x0410 => some specRowAdd
  | 0x0501 => some specProgLoad | 0x0502 => some specProgUnload | 0x0503 => some specProgRun | 0x0504 => some specProgInfo
  | 0x0601 => some specMemCopy | 0x0602 => some specTableDefine | 0x0603 => some specTableDrop | 0x0604 => some specRowLookup
  | 0x0605 => some specHotSet | 0x0606 => some specRowFwd
  | 0x0701 => some specVocabLoad | 0x0702 => some specStreamOpen | 0x0703 => some specTextFeed | 0x0704 => some specStreamRead
  | 0x0705 => some specStreamClose | 0x0706 => some specTermLookup | 0x0707 => some specNgramHash
  | 0x0801 => some specDomDefine | 0x0802 => some specDomFail | 0x0803 => some specDomArm | 0x0804 => some specDomRead
  | 0x0805 => some specRegionDefine | 0x0806 => some specRegionFree | 0x0807 => some specExtAdd | 0x0808 => some specExtRelease
  | 0x0809 => some specExtRead
  | 0x0901 => some specFaultRead | 0x0902 => some specReset | 0x0903 => some specDumpRead | 0x0904 => some specDumpClear
  | 0x0905 => some specSelfTest | 0x0906 => some specDaybookAppend | 0x0907 => some specDaybookInfo | 0x0908 => some specRejoin
  | 0x0A01 => some specBind | 0x0A02 => some specBindRead | 0x0A03 => some specLedgerRead | 0x0A04 => some specMapSettle
  | 0x0B01 => some specFlashIngest | 0x0B02 => some specFlashRelease | 0x0B03 => some specFlashInfo | 0x0B04 => some specHealthRead
  | 0x0B05 => some specFlashFormat
  | 0x0F80 => if utOn s p then some specUtClear else none
  | _ => none

/-- Opcodes that only a Steward may use. -/
def stewardOps : List Nat := [0x0303, 0x0404, 0x0606, 0x0906]

/-! ### Validation (Table 2.11) -/

/-- Step 4 beside the opcode's own permission: the part admits commands of the tenant (R529, R551), and a command of a peer
carries a tenant its entry lists (R428). -/
def admitsTenant (s : State) (c : Cmd) (fabric : Bool) : Bool :=
  (c.tenant == 0 || (s.sys.pwr.tested && !(s.fuse.debugLock && bit (rd s .secStatus 0) 59))) &&
  (!fabric || (match peerOf s c.srcPart with | some i => peerLists s i c.tenant | none => false))

/-- What a family does with a command that has passed validation: pool entries taken, shares sent (R112, R122, R131, R332). -/
def takeUp (p : Fin 4) (c : Cmd) : Upd :=
  if [0x0301, 0x0302, 0x0303].contains c.opcode then searchAccept p c.ref
  else if [0x0401, 0x0402, 0x0403, 0x0404].contains c.opcode then updAccept p c.ref
  else if [0x0410, 0x0604, 0x0605, 0x0606].contains c.opcode then rowAccept p c.ref
  else if c.opcode = 0x0407 then swapAccept p c
  else .skip

/-- Steps 9 and 10, for a command of the store. -/
def steps9and10 (p : Fin 4) (c : Cmd) (o : OpSpec) : Upd :=
  .read fun s =>
    match o.pool s p c with
    | some code => postPlain p c stRetry code
    | none => match o.zero s p c with
      | some b => postReply p c stOk 0 b
      | none => takeUp p c

/-- Steps 3 to 10; the meter of R454 after step 8. -/
def validate (p : Fin 4) (c : Cmd) (fabric metering : Bool) : Upd :=
  .read fun s =>
    match opSpec s p c.opcode with
    | none => postPlain p c stBadOpcode 0
    | some o =>
      if !(admitsTenant s c fabric) ∨ !(o.permit s p c) then postPlain p c stNotBound 0
      else match step5 s p c o with
        | .inl (d, ign) => postPlain p { c with ignored := ign } stBadParam d
        | .inr c => match steps678 s p c o with
          | some (st, d) => postPlain p c st d
          | none =>
            .seq [cmdMod p c.ref fun _ => c,
              if metering && !(stewardOps.contains c.opcode) then
                metered p c.tenant c.cls fun v => match v with
                  | .refuse m => postPlain p c stRetry (0x0C00 + m)
                  | .pass cl => .seq [cmdMod p c.ref fun c => { c with cls := cl }, steps9and10 p { c with cls := cl } o]
              else steps9and10 p c o]

/-! ### Acceptance -/

/-- Commands a partition's command store holds (R49). -/
def stored (y : PSys) : Nat := y.cmds.countP fun c => c.ring != 35 && c.ring != 36

/-- Whether a partition's Steward accepts now: its cores run (R538) and the store has room (R49). -/
def accepting (s : State) (p : Fin 4) : Bool := bootStage s != 3 && decide (stored (psys s p) < 16384)

/-- A packet accepted: steps 1 and 2 of Table 2.11, then the command enters the store. -/
def acceptPacket (p : Fin 4) (pkt : Bytes) (c : Cmd) (fabric metering : Bool) : Upd :=
  .read fun s =>
    .seq [ledger c.tenant (if c.cls % 4 = 0 then 0 else 1) 1,
      if headerBad pkt then
        .when (decide (c.ring < 32)) (.seq [regSetBit .ringStatus p c.ring 61, regCount .ringErrcount p c.ring 63 48 1])
      else if c.ring ≠ 33 ∧ !c.replyHost ∧ c.replyPart = partId s ∧ !(replyAddrNew s c.steward c.tenant c.replyAddr 32) then
        .when (decide (c.ring < 32)) (regCount .ringErrcount p c.ring 31 16 1)
      else .seq [.part p (fun y => { y with nextRef := y.nextRef + 1, cmds := y.cmds ++ [c] }), validate p c fabric metering]]

/-- The landed packet a ring accepts next (R47): slot order, wrapping at the end of the ring. -/
def nextLanded (s : State) (p : Fin 4) (r : Nat) : Option Landed :=
  (psys s p).landed.find? fun l => l.ring == r && l.turn == (aget (psys s p).ringNext r).getD 0

/-- The next packet of a submission ring accepted, in the frame its seal landed (R46), read through the configuration it landed under (R52,
R54); a FABRIC command's credit goes back (R438). -/
def acceptRing (p : Fin 4) (r : Nat) : Upd :=
  .read fun s => match nextLanded s p r with
    | none => .skip
    | some l =>
      let cfg := l.cfg
      let pkt := Mem.readBytes s.win (p.val * 0x400000 + l.slot * 0x2000) 4160
      let fabric : Bool := fld cfg 59 58 == 2
      let c := cmdFrom pkt (psys s p).nextRef r (if fabric then l.ten else fld cfg 43 32) l.frame l.steward l.srcPart
        (if fabric then stackOf (leAt pkt 16 8) / 6 else l.srcPartition)
      .seq [.part p (fun y => { y with landed := y.landed.erase l, ringNext := aset y.ringNext r ((aget y.ringNext r).getD 0 + 1) }),
        regCount .ringConsumed p r 63 0 1,
        .when fabric (creditBack l.srcPart false (byteAt pkt 4 % 4) p.val),
        acceptPacket p pkt c fabric (fld cfg 59 58 != 0)]

/-- The next packet that a Steward of the part has given this one (log entry 5). -/
def acceptShare (p : Fin 4) : Upd :=
  .read fun s => match (psys s p).shareIn with
    | [] => .skip
    | x :: _ =>
      let pkt := x.packet ++ zeros (64 - x.packet.length)
      .seq [.part p (fun y => { y with shareIn := y.shareIn.drop 1 }),
        acceptPacket p pkt
          (cmdFrom pkt (psys s p).nextRef 32 x.tenant x.frame true (partId s) x.fromPartition) false false]

/-- PACKET_ACCEPT. -/
def cmdPacketAccept (p : Fin 4) (ring : Fin 33) : Upd :=
  .read fun s => .when (accepting s p) (if ring.val = 32 then acceptShare p else acceptRing p ring.val)

/-! ### Commands over the sideband (R578) -/

/-- Commands of the sideband that the part holds. -/
def sbHeld (s : State) : Nat := (allP.map fun p => (psys s p).cmds.countP (·.ring == 33)).sum

/-- SB_CMD: at most four at once; the reply goes as SB_REPLY with the request's TAG. -/
def cmdSbCmd (tag : Nat) (p : Fin 4) (packet : Bytes) : Upd :=
  .read fun s =>
    if !s.sys.pin.auxUp ∨ bootStage s = 3 then .skip
    else if packet.length < 64 ∨ 4160 < packet.length then sbAnswer 0x10 tag stBadParam []
    else if 4 ≤ sbHeld s ∨ !(accepting s p) then sbAnswer 0x10 tag stRetry []
    else
      let c := { cmdFrom packet (psys s p).nextRef 33 0 (frameNow s) false (partId s) p.val with sbTag := tag }
      .seq [sbAnswer 0x10 tag stOk [], acceptPacket p packet c false false]

def execPacketAccept (p : Fin 4) (ring : Fin 33) (s : State) : Host.Outcome State Fault Refusal := (cmdPacketAccept p ring).go s
def execSbCmd (tag : Nat) (p : Fin 4) (packet : Bytes) (s : State) : Host.Outcome State Fault Refusal := (cmdSbCmd tag p packet).go s

end Sys2Proof.Machine
end

