-- ==== Sys2Proof/Machine/Bell.lean ====
section
/-!
DEFINITION. The Bell (R17 to R33, R440, R574): Bell packets, holdover, and the Bell step of Table 1.3 with the admission of work.
-/

namespace Sys2Proof.Machine

/-! ### Frame budgets (R26, R28, R565) -/

/-- Cycles by engine, 1,024 × ENGINE_KIND + index, of the figures that a condition picks. -/
def cyclesOf (l : List Cycles) (pick : Cycles → Bool) : List (Nat × Nat) :=
  (l.filter pick).foldl (fun a x => let k := 1024 * x.kind + x.engine; aset a k ((aget a k).getD 0 + x.cycles)) []

/-- What a class may use of an engine in a frame: seven-eighths of the frame's core cycles, and for classes 1 to 3 (8 − L) / 8 of that
(R26, R565). -/
def frameBudget (s : State) (cls : Nat) : Nat := if cls = 0 then bellUs s * 1575 else bellUs s * 1575 * (8 - throttle s) / 8

/-- Where the part of an engine's budget that classes 1 to 3 have used is counted. -/
def lowKey (k : Nat) : Nat := k + 2 ^ 16

/-- Cycles charged to engines' budgets for work of a class. -/
def charge (a : Assoc Nat) (cls : Nat) (l : List (Nat × Nat)) : Assoc Nat :=
  let add (a : Assoc Nat) (k n : Nat) : Assoc Nat := aset a k ((aget a k).getD 0 + n)
  l.foldl (fun a x => if cls = 0 then add a x.1 x.2 else add (add a x.1 x.2) (lowKey x.1) x.2) a

/-- What is left of an engine's budget for work of a class. -/
def budgetLeft (s : State) (p : Fin 4) (cls k : Nat) : Nat :=
  let used (k : Nat) : Nat := (aget (psys s p).charged k).getD 0
  let all := frameBudget s 0 - used k
  if cls = 0 then all else min all (frameBudget s cls - used (lowKey k))

/-- The part of some work that the budgets take now, engine by engine, and the part held for later frames (R26). -/
def splitWork (s : State) (p : Fin 4) (cls : Nat) (l : List (Nat × Nat)) : List (Nat × Nat) × List (Nat × Nat) :=
  (l.map fun x => (x.1, min x.2 (budgetLeft s p cls x.1)),
   (l.map fun x => (x.1, x.2 - budgetLeft s p cls x.1)).filter (·.2 != 0))

/-- Whether work is admitted now: it fits, or it is larger than a whole frame's budget and its first part can go (R26). -/
def fitsNow (s : State) (p : Fin 4) (cls : Nat) (l : List (Nat × Nat)) : Bool :=
  l.all fun x => decide (x.2 ≤ budgetLeft s p cls x.1) || (decide (frameBudget s cls < x.2) && decide (0 < budgetLeft s p cls x.1))

/-! ### Sources -/

def bellMod (f : BellSt → BellSt) : Upd := .sys fun y => { y with bell := f y.bell }

/-- Whether the part is the Bell source (R17). -/
def isSource (s : State) : Bool := bit (rd s .frameCtl 0) 24

/-- Whether it takes its Bells from BELL_IN (R574). -/
def bellFromPin (s : State) : Bool := bit (lv s .bellpinCfg 0) 62 && !(isSource s)

/-- FRAME_STATUS.HOLDOVER. -/
def inHoldover (s : State) : Bool := bit (rd s .frameStatus 0) 17

/-- The frame count after the one in force. -/
def frameNext (s : State) : Nat := (frameNow s + 1) % 2 ^ 48

/-- A FRAME_SLIP record (R20, R574): the local count and the one received. -/
def frameSlip (local' received : Nat) : Upd :=
  fault 0 { faultBase 0x09 0 with partLevel := true, detail := natLE 6 local' ++ zeros 2 ++ natLE 6 received }

/-- A Bell packet sent on every UP port with BELL_FWD. -/
def bellSend (b : BellInfo) : Upd :=
  .read fun s => .each ((List.range 12).filter fun k =>
    fld (rd s .portStatus 0 k) 59 56 == 5 && bit (lv s .portCfg 0 k) 58 && !(portLent s k)) fun k => emit (.bell k b)

/-- The notice of two Bell sources, lower part ID first (R18). -/
def twoSources (a b : Nat) : Upd :=
  fault 0 { faultBase 0x0A 0 with partLevel := true, detail := natLE 3 (min a b) ++ zeros 1 ++ natLE 3 (max a b) }

/-- A Bell packet heard (R18): the source followed is the lowest heard since the last holdover; a packet of another is noted and not
used, and what a source no longer followed has announced is forgotten. -/
def bellHeard (b : BellInfo) (port due : Nat) : Upd :=
  .read fun s =>
    let src := s.sys.bell.source.getD b.source
    .seq [.when (src != b.source) (twoSources src b.source),
      .when (b.source ≤ src) (bellMod fun y =>
        let old := y.announced.filter (·.1.source == b.source)
        { y with source := some b.source, announced := old ++ [(b, port, due)] })]

/-- BELL_PACKET (R440): taken on an UP port with BELL_RX, when time is left once the link's delay is off; forwarded with one more hop.
DUE counts from a packet's first bit at its sender's pins (Table 14.9), so the link's delay and the time in the part both come off
it (DEDUCED, log entry 117). -/
def cmdBellPacket (k : Fin 12) (b : BellInfo) (residence : Nat) : Upd :=
  .read fun s =>
    let delay := fld (rd s .portDelay 0 k.val) 31 0
    .when (fld (rd s .portStatus 0 k.val) 59 56 == 5 && bit (lv s .portCfg 0 k.val) 57 && !(portLent s k.val) && decide (delay < b.due))
      (.seq [
        if isSource s then .skip
        else if bellFromPin s then .when (b.frame != frameNext s) (frameSlip (frameNext s) b.frame)
        else bellHeard b k.val (b.due - delay),
        bellSend { b with bhops := b.bhops + 1, due := b.due - delay - residence }])

/-- HOLDOVER (R19): no Bell came in time; the part generates its own. A Bell missed on BELL_IN is counted with its edge. What the
notice says of a count not yet received is open. The source that fell silent is followed no longer (DESIGN CHOICE, log entry 118). -/
def cmdHoldover : Upd :=
  .read fun s => .when (!(isSource s) && !(inHoldover s))
    (.seq [regMod .frameStatus 0 0 fun w => setBit w 17 true, bellMod fun y => { y with source := none, announced := [] }, .fresh fun v => crier 0x40 0xFF 0 0 0 (natLE 6 v.toNat)])

/-! ### Which Bell it is -/

/-- The packets that announce Bell n, of the source followed (R18). -/
def announcers (s : State) (n : Nat) : List (BellInfo × Nat × Nat) :=
  s.sys.bell.announced.filter fun x => x.1.frame == n && s.sys.bell.source == some x.1.source

/-- The packet used: fewest BHOPS, then the lowest port (R440). -/
def announcer (s : State) (n : Nat) : Option (BellInfo × Nat × Nat) :=
  (announcers s n).foldl (fun a x => match a with
    | none => some x
    | some y => if x.1.bhops < y.1.bhops || (x.1.bhops == y.1.bhops && x.2.1 < y.2.1) then some x else a) none

/-- A Bell as it happens: its frame, that frame's period, and the packet it came by. -/
structure BellNow where
  n : Nat
  period : Nat
  pkt : Option (BellInfo × Nat × Nat)

/-- The Bell a Bell step is for, where there is one: the next one of a source or of a part in holdover; else the one received, by
packet or by pin. -/
def bellNow (s : State) : Option Nat → Option BellNow
  | none =>
    if isSource s then some ⟨frameNext s, periodAt s (frameNext s), none⟩
    else if inHoldover s then some ⟨frameNext s, bellUs s, none⟩
    else none
  | some n =>
    if isSource s then none
    else if bellFromPin s then
      match s.sys.bell.pin with
      | some w => if fld w 47 0 = n then some ⟨n, fld w 56 48, none⟩ else none
      | none => none
    else match announcer s n with
      | some x =>
        let change := x.1.applyAt = n ∧ 4 ≤ x.1.periodNext ∧ x.1.periodNext ≤ 256
        some ⟨n % 2 ^ 48, if change then x.1.periodNext else x.1.period, some x⟩
      | none => none

/-- Action 1 (R19, R20, R31, R33): the frame count becomes n; a received Bell ends holdover; the frame's period is in force; a source
announces the next Bell. -/
def bellCount (received : Bool) (b : BellNow) : Upd :=
  .read fun s =>
    let slip := received && inHoldover s && b.n != frameNext s
    .seq [.reg .frameCount 0 0 (BitVec.ofNat 64 b.n),
      regMod .frameStatus 0 0 fun w => setBit (setFld w 8 0 b.period) 17 (inHoldover s && !received),
      (match b.pkt with
       | some x => .fresh fun v => .reg .bellStatus 0 0 (setFld (setFld (setFld 0 63 56 (min x.1.bhops 255)) 51 32 x.1.source) 15 0
           (if (announcers s b.n).length ≤ 1 then 0 else v.toNat % 65536))
       | none => .skip),
      .each allP fun p => .part p fun y => { y with pastN := aset y.pastN (frameNow s) y.committedN },
      bellMod fun y => { y with announced := y.announced.filter fun x => decide (b.n < x.1.frame), pin := none,
                                armed := y.armed && fld (rd s .frameApply 0) 47 0 != b.n, adopted := y.adopted || received },
      .when slip (frameSlip (frameNext s) b.n),
      .when (isSource s) (.read fun s => bellSend
        ⟨frameNext s, b.period, fld (rd s .frameApply 0) 47 0, fld (rd s .frameCtl 0) 8 0, partId s, 0, b.period * 16000⟩)]

/-! ### Actions 2 to 5 -/

/-- Bytes of updates that a warm reset caught, now in place (Table 18.7). -/
def lateBell : Upd :=
  .read fun s => .when (!s.sys.late.isEmpty)
    (.seq [.each s.sys.late (fun c => memPut c.1 [c.2]), .sys fun y => { y with late := [] }])

/-- CRIER_LOST (R514): one notice for those the last frame left out. -/
def crierBell : Upd :=
  .read fun s =>
    let out := s.sys.noticesOut
    .seq [.sys fun y => { y with noticesSent := 0, noticesOut := 0 },
      .when (out != 0) (crier 0x45 0xFF 0 0 0 (natLE 4 out ++ natLE 2 s.sys.noticesFirst))]

/-- Action 3 (R21): what becomes visible and in force. -/
def visibleBell (n : Nat) : Upd :=
  .seq [lateBell,
    .each allP fun p => .seq [applyStage p n, utBell p n],
    collBell n,
    .each allP fun p => .seq [shelfSwapBell p n,
      .read fun s => .each (psys s p).shards fun h => shelfRetire p h.coll h.idx,
      vocabBell p n, tableBell p n,
      driftBell p fun ref f => .read fun s => match cmdOf s p ref with | some c => endByReset p c stContextReset f | none => .skip,
      flashBell p n],
    mapBell n extEpoch extAborted, cohBell n]

/-- Ports whose ENABLE in force is now 0 leave UP. -/
def portsOff : Upd :=
  .read fun s => .each ((List.range 12).filter fun k =>
    fld (rd s .portStatus 0 k) 59 56 == 5 && !(bit (lv s .portCfg 0 k) 63) && !(portLent s k)) linkLost

/-- A partition's frame credits refilled (R26, R28, R115, R129, R146): starts, commits and sweeps counted anew; of an engine's budget the
cycles it spends after the Bell on the frame before are gone. -/
def PSys.refill (y : PSys) (n : Nat) (overruns : List (Nat × Nat)) : PSys :=
  let used (k : Nat) : Bool := k + 1 == n || y.shares.any (fun x => x.kind == .drained && x.dayCommit == k) || y.migs.any fun m => m.cut == k + 1
  { y with starts := 0, passed := 0, swept := 0, committedN := 0, pastN := y.pastN.filter (used ·.1), charged := charge [] 1 overruns }

/-- Action 4: tokens and frame credits refilled, and with them every setting that takes effect at a Bell. -/
def refillBell (n : Nat) (overruns : List Cycles) : Upd :=
  .seq [.read (fun s => .when (s.sys.touched.contains (regKey .pwrCtl 0 0)) (powerWant (fld (rd s .pwrCtl 0) 2 0))),
    trafficBell,
    .each allP fun p => .part p (·.refill n (cyclesOf overruns fun x => x.p == p)),
    .sys fun y => { y with fab := { y.fab with routesLive := y.fab.routes, peers0Live := y.fab.peers0, peers1Live := y.fab.peers1 } },
    .each allP utOffBell, .allLive, portsOff]

/-- Action 5 (R25, R79, R80, R108, R123, R125): commands, shares and walks whose time has come. -/
def timeoutBell (n : Nat) : Upd :=
  .each allP fun p => .seq [
    .read fun s => .each (psys s p).cmds fun c => cmdPartialOkDeadline p c.ref,
    .read fun s => .each ((psys s p).cmds.filter (timeoutDue n)) fun c => cmdCommandTimeout p c.ref,
    .read fun s => .each (psys s p).cmds fun c => cmdShareDeadline p c.ref,
    .read fun s => .each (psys s p).walks fun w => walkLimit p w.id,
    .part p fun y => { y with cmds := y.cmds.filter fun c => !(c.ring == 36 && decide (c.aux2 + 64 < n)),
                              ringEffect := y.ringEffect.filter fun e => decide (n < e.2.2) }]

/-! ### Action 6: admission (R26, R68, R83, R84) -/

/-- Whether FENCE holds a command at Bell n: an earlier command of its ring has not posted, or its changes are not all visible. -/
def fenced (s : State) (p : Fin 4) (n : Nat) (c : Cmd) : Bool :=
  c.hasFence && ((psys s p).cmds.any (fun d => d.ring == c.ring && decide (d.ref < c.ref)) ||
    (psys s p).ringEffect.any fun e => e.1 == c.ring && decide (e.2.1 < c.ref) && decide (n < e.2.2))

/-- Whether work of a tenant waits for memory of the partition: a stack or channel bound to it is still starting up (R372, R381). -/
def memoryWaits (s : State) (p : Fin 4) (tenant : Nat) : Bool :=
  (List.range 6).any (fun j =>
    let k := 6 * p.val + j
    stackState s k != 3 && stackState s k != 5 && (List.range 127).any fun g => unitServes s 3 (128 * k + g) tenant) ||
  (List.range 8).any fun j => chanState s (8 * p.val + j) < 2 && unitServes s 4 (8 * p.val + j) tenant

/-- The classes of Table 2.8 whose work touches the partition's memory. -/
def memoryClass (opcode : Nat) : Bool := [3, 4, 5, 6, 7, 0x0B, 0x0F].contains (opcode / 256)

/-- Whether a search or update waits for an entry of the map (R496, R498), or for a copy that has still to catch up with its failed
primary (R528). -/
def shardWaits (s : State) (p : Fin 4) (c : Cmd) : Bool :=
  let coll := leAt c.params (if c.opcode / 256 = 3 then searchColl c else updColl c) 2
  c.pieces.any fun x => mapWaits s 2 (coll + 65536 * x.unit) ||
    (x.loc && (match mapOf s coll x.unit with | some w => mDown w | none => false) && dayBehind s p coll x.unit)

/-- The opcodes of Table 2.8 that search or update a collection, and those of rows. -/
def searchOps : List Nat := [0x0301, 0x0302, 0x0303]
def updateOps : List Nat := [0x0401, 0x0402, 0x0403, 0x0404]
def rowOps : List Nat := [0x0410, 0x0604, 0x0605, 0x0606]

/-- Whether a waiting command cannot be admitted for what it works on. -/
def waits (s : State) (p : Fin 4) (c : Cmd) : Bool :=
  (memoryClass c.opcode && memoryWaits s p c.tenant) ||
  ((searchOps.contains c.opcode || updateOps.contains c.opcode) && shardWaits s p c) ||
  (rowOps.contains c.opcode && mapWaits s 3 (par c (rowOff c) 2)) ||
  (c.opcode == 0x0F80 && !(utQuiet s p))

/-- The start of an admitted command that closes, sets or defines what steps 6 to 8 of a later one ask for: its own event. -/
def startOf (p : Fin 4) (c : Cmd) : Upd :=
  match c.opcode with
  | 0x0201 => cmdCollDefine p c.ref | 0x0202 => cmdCollMap p c.ref | 0x0203 => cmdShardSet p c.ref
  | 0x0204 => cmdCollOpen p c.ref | 0x0205 => cmdCollTune p c.ref | 0x0206 => cmdCollClose p c.ref
  | 0x0501 => cmdProgLoad p c.ref | 0x0502 => cmdProgUnload p c.ref
  | 0x0602 => cmdTableDefine p c.ref | 0x0603 => cmdTableDrop p c.ref
  | 0x0702 => cmdStreamOpen p c.ref | 0x0705 => cmdStreamClose p c.ref
  | 0x0801 => cmdDomDefine p c.ref | 0x0802 => cmdDomFail p c.ref | 0x0803 => cmdDomArm p c.ref
  | 0x0805 => cmdRegionDefine p c.ref | 0x0806 => cmdRegionFree p c.ref
  | 0x0807 => cmdExtAdd p c.ref | 0x0808 => cmdExtRelease p c.ref
  | _ => .skip

/-- The state a check at admission sees: with the commands admitted earlier, whose own events are still to come, started (R68). -/
def inForce (s : State) : State :=
  (Upd.each allP fun p => .each ((psys s p).cmds.filter fun d => d.phase == .admitted) (startOf p)).run s

/-- The memory a command's work uses without naming it: the arrays of the shards it works on, an object's tensors, a table's rows. -/
def workRanges (s : State) (p : Fin 4) (c : Cmd) : List (Nat × Nat) :=
  if searchOps.contains c.opcode || updateOps.contains c.opcode then
    let coll := leAt c.params (if c.opcode / 256 = 3 then searchColl c else updColl c) 2
    (c.pieces.filter (·.loc)).flatMap fun x => match collOf s coll, shardOf s p coll x.unit with
      | some k, some h => shardRanges k.desc h.cur
      | _, _ => []
  else if c.opcode = 0x0503 then match objOf s p (par c 0 2) with
    | some o => o.tensors.map fun t => (t.data, 1)
    | none => []
  else if rowOps.contains c.opcode then match tableOf s p (par c (rowOff c) 2) with
    | some t => [(tBase t.desc, rowsHere (partId s) p.val (tTotal t.desc) t.ranges * tStride t.desc)]
    | none => []
  else []

/-- Whether a command needs memory that is being re-bound (Table 17.4). -/
def needsDrained (s : State) (p : Fin 4) (c : Cmd) : Bool :=
  s.sys.bind.rebinds.any fun r => r.units.any fun u =>
    (unit s u.1 u.2.1).state != .bound &&
    (let m := unitRange s u.1 u.2.1
     (workRanges s p c).any fun x => x.2 != 0 && overlap m.1 m.2 (unalias s x.1) x.2)

/-- Whether a command of the text unit has lost it: the unit serves another tenant, or drains (R287, R485). -/
def textLost (s : State) (p : Fin 4) (c : Cmd) : Bool := c.opcode / 256 == 7 && !(textTenant s p c)

/-- The check of R68 at admission: steps 6 to 8 again, against the state then in force, and the units the command needs (R287, R485). A
Utertil packet has an OP or not (R590). -/
def recheck (s : State) (p : Fin 4) (c : Cmd) : Option (Nat × Nat) :=
  if c.ring = 34 then (if 0x0F01 ≤ c.opcode ∧ c.opcode ≤ 0x0F04 then none else some (stBadOpcode, 0))
  else match opSpec s p c.opcode with
    | some o => if needsDrained s p c || textLost s p c then some (stNotBound, 0) else steps678 (inForce s) p c o
    | none => some (stBadOpcode, 0)

/-- What admission does for a command's family. -/
def admitFamily (p : Fin 4) (c : Cmd) : Upd :=
  if searchOps.contains c.opcode then searchAdmit p c.ref
  else if updateOps.contains c.opcode then updAdmit p c.ref
  else if rowOps.contains c.opcode then rowAdmit p c.ref
  else .skip

/-- Work of a command charged to the frame, and the rest of it kept for later frames (R26). -/
def chargeWork (p : Fin 4) (c : Cmd) (l : List (Nat × Nat)) : Upd :=
  .read fun s =>
    let w := splitWork s p c.cls l
    .part p fun y =>
      let others := y.rest.filter (·.1 != c.ref)
      { y with charged := charge y.charged c.cls w.1, rest := others ++ w.2.map (c.ref, ·) }

/-- Whether a command still has work held for later frames. -/
def workLeft (s : State) (p : Fin 4) (ref : Nat) : Bool := (psys s p).rest.any (·.1 == ref)

/-- A command whose whole work is admitted. -/
def allAdmitted (p : Fin 4) (c : Cmd) : Upd :=
  .read fun s => .seq [cmdMod p c.ref fun c => { c with phase := .admitted, order := (psys s p).admits },
    .part p fun y => { y with admits := y.admits + 1 }, admitFamily p c]

/-- One command admitted, or ended by the repeated check; its admission frame and its tenant's batch threshold are those of the Bell that
admits its first part (R26, R39). -/
def admitOne (p : Fin 4) (n : Nat) (c : Cmd) (work : List (Nat × Nat)) : Upd :=
  .read fun s => match recheck s p c with
    | some (st, d) => postPlain p c st d
    | none => .seq [cmdMod p c.ref fun c => { c with phase := .split, admFrame := n, thresh := threshOf s c.tenant }, chargeWork p c work,
        .read fun s => .when (!(workLeft s p c.ref)) (allAdmitted p c)]

/-- The remainder of work split over frames, before any new work (R26). -/
def carryOn (p : Fin 4) : Upd :=
  .seq [.part p fun y => { y with rest := y.rest.filter fun x => y.cmds.any (·.ref == x.1) },
    .read fun s => .each ((psys s p).cmds.filter (·.phase == .split)) fun c => .seq [
      .read fun s => chargeWork p c (((psys s p).rest.filter (·.1 == c.ref)).map (·.2)),
      .read fun s => .when (!(workLeft s p c.ref)) (allAdmitted p c)]]

/-- Whether a ring starts its commands in acceptance order (R83): a submission ring, or the Utertil ring. -/
def inOrder (ring : Nat) : Bool := decide (ring < 32) || ring == 34

/-- The waiting commands of a partition gone through in acceptance order. One that waits, or that the frame's budgets do not take, holds back
the later ones of its ring (R83); one that FENCE holds does not (Table 2.15). -/
def admitEach (p : Fin 4) (n : Nat) (cost : List Cycles) : List Nat → List Nat → Upd
  | [], _ => .skip
  | ref :: rest, blocked => .read fun s =>
    match cmdOf s p ref with
    | none => admitEach p n cost rest blocked
    | some c =>
      let work := cyclesOf cost fun x => x.p == p && x.ref == ref
      if c.phase ≠ .waiting ∨ fenced s p n c then admitEach p n cost rest blocked
      else if blocked.contains c.ring ∨ waits s p c ∨ !(fitsNow s p c.cls work) then
        admitEach p n cost rest (if inOrder c.ring then c.ring :: blocked else blocked)
      else .andThen (admitOne p n c work) (admitEach p n cost rest blocked)

/-- The unbind epochs of the BINDs that Bell n admits, at action 3 (R492); one whose units an earlier one of the Bell drains gets RETRY
(R490). -/
def bindAdmit (n : Nat) : Upd :=
  .read fun s => .when (admitting s) <| .each allP fun p => .read fun s =>
    .each ((psys s p).cmds.filter fun c => c.opcode == 0x0A01 && c.phase == .waiting) fun c => .read fun s =>
      .when (!(fenced s p n c || waits s p c)) (match recheck s p c with
        | some (st, d) => postPlain p c st d
        | none => match specBind.pool s p c with
          | some d => postPlain p c stRetry d
          | none => bindStart p c n)

/-- The active walks in class order. -/
def byClass (l : List Walk) : List Walk := (List.range 4).flatMap fun c => l.filter fun w => w.state == .active && w.cls == c

/-- Walks that no command's own event begins, begun; those under way moved on within the new frame's starts, in class order (R101,
R115). -/
def walksOn (p : Fin 4) : Upd :=
  .read fun s => .each (byClass (psys s p).walks) fun w =>
    if w.started then walkAdvance p w.id
    else match w.why with
      | .relink _ => .seq [walkSeed p w.id, walkAdvance p w.id]
      | _ => .skip

/-- Action 6: work admitted for frame n, walks brought into the active store (R113). -/
def admitBell (n : Nat) (cost : List Cycles) : Upd :=
  .read fun s => .when (admitting s) <| .each allP fun p => .seq [
    carryOn p, .read fun s => admitEach p n cost ((psys s p).cmds.map (·.ref)) [],
    dayKick p, closeQueued p, admitWalks p n, walksOn p]

/-! ### The Bell step -/

/-- FRAME_OVERRUN (R28): counted once, however many engines overran. -/
def overrunBell (overruns : List Cycles) : Upd :=
  .when (overruns.any (·.cycles != 0)) (.seq [regCount .frameOverrun 0 0 31 0 1, regSetBit .frameStatus 0 0 18])

/-- The reads that walks hold in their windows issued: none is held across a Bell (R110, R111). -/
def heldReads (p : Fin 4) : Upd :=
  .read fun s => .each (psys s p).walks fun w => .each w.flight fun e =>
    compareFlight p w.id e.no (fun w _ => (if rPlacement w.rcdNow = 1 then w.pageWin else w.batchWin) != 0) 64

/-- The actions of Table 1.3, in order. -/
def bellActions (received : Bool) (b : BellNow) (sense : FrameSense) : Upd :=
  .seq [.each allP heldReads, bellCount received b, crierBell, overrunBell sense.overruns, packageBell sense.junction sense.power sense.busy,
    healthBell sense.flash, ledgerBell b.n, visibleBell b.n, bindAdmit b.n, bindBell b.n, refillBell b.n sense.overruns, timeoutBell b.n, drainBell, admitBell b.n sense.cost]

/-- BELL_STEP (R21): where no Bell is due, nothing happens. -/
def cmdBellStep (recv : Option Nat) (sense : FrameSense) : Upd :=
  .read fun s => match bellNow s recv with
    | some b => bellActions recv.isSome b sense
    | none => .skip

def execBellStep (recv : Option Nat) (sense : FrameSense) (s : State) : Host.Outcome State Fault Refusal := (cmdBellStep recv sense).go s
def execBellPacket (k : Fin 12) (b : BellInfo) (residence : Nat) (s : State) : Host.Outcome State Fault Refusal := (cmdBellPacket k b residence).go s
def execHoldover (s : State) : Host.Outcome State Fault Refusal := cmdHoldover.go s

end Sys2Proof.Machine
end

