-- ==== Sys2Proof/Machine/Spdm.lean ====
section
/-!
DEFINITION. The SPDM responder (R546 to R549, Tables 19.4 to 19.6): the state of each transport's connection and sessions, and what
each response carries. The messages' own layout is DSP0274's, which the spec does not give (log entry 60).
-/

namespace Sys2Proof.Machine

/-- A transport's connection. -/
def connOf (s : State) : Transport → SpdmConn
  | .sideband => s.sys.sec.connSb
  | .doe => s.sys.sec.connDoe

def connSet (t : Transport) (c : SpdmConn) : Upd :=
  secMod fun x => match t with | .sideband => { x with connSb := c } | .doe => { x with connDoe := c }

/-- Concurrent secured sessions (Table 19.4). -/
def sessionLimit : Transport → Nat
  | .sideband => 2
  | .doe => 4

def connRank : SpdmConn → Nat
  | .none => 0 | .version => 1 | .capabilities => 2 | .ready => 3

def answer (t : Transport) (r : SpdmResp) : Upd := emit (.spdm t r)

/-- Whether a transport is there: the DOE mailbox is seen through the host port (Table 19.4). -/
def transportUp (s : State) (t : Transport) : Bool :=
  match t with
  | .sideband => s.sys.pin.auxUp
  | .doe => bit (rd s .hostCfg 0) 63 && fld (rd s .hostStatus 0) 63 60 == 2

/-- A request on a connection that has come far enough, else ERROR UnexpectedRequest. -/
def spdmAt (t : Transport) (need : SpdmConn) (u : State → Upd) : Upd :=
  .read fun s =>
    if !(transportUp s t) then .skip
    else if connRank (connOf s t) < connRank need then answer t (.error .unexpectedRequest)
    else u s

/-- A signature by the alias key over a message and what the transcript adds (R548). -/
def aliasSign (s : State) (msg : Bytes) (v : Word) : Bytes := Config.sm2Sign (aliasKey s.sys.sec.meas) (natLE 8 v.toNat ++ msg)

/-- A certificate of the identity chain at an offset: a 4-byte length, then DER. -/
def certAt (x : SecSt) (off : Nat) : Bytes := Mem.readBytes x.store (off + 4) (leNat (Mem.readBytes x.store off 4))

/-- The certificate chain of slot 0: identity root CA, manufacturing CA, DeviceID, alias (Table 19.5). -/
def certChain (x : SecSt) : Bytes :=
  let a := certAt x 0x3010000
  let b := certAt x (0x3010000 + 4 + a.length)
  let c := certAt x (0x3010000 + 8 + a.length + b.length)
  a ++ b ++ c ++ x.aliasCert

/-- A response of bytes: whole, or kept for CHUNK_GET where it is larger than DataTransferSize. -/
def answerLong (t : Transport) (body : Bytes) (r : SpdmResp) : Upd :=
  if body.length ≤ 4096 then answer t r
  else .read fun s =>
    let h := s.sys.sec.nextSession % 256
    .seq [secMod fun x => { x with nextSession := x.nextSession + 1, large := ⟨t, h, 0, body⟩ :: x.large.filter (fun c => c.t != t) },
      answer t (.large h)]

/-- GET_VERSION: 1.3; it starts a connection again. -/
def cmdGetVersion (t : Transport) (_msg : Bytes) : Upd :=
  .read fun s => .when (transportUp s t) (.seq [connSet t .version, answer t (.version 0x13)])

/-- GET_CAPABILITIES (Table 19.5): CTExponent, DataTransferSize, MaxSPDMmsgSize. -/
def cmdGetCapabilities (t : Transport) (_msg : Bytes) : Upd :=
  spdmAt t .version fun _ => .seq [connSet t .capabilities, answer t (.capabilities 16 4096 65536)]

/-- NEGOTIATE_ALGORITHMS (R547): SM2, SM3 and SM4-GCM, or InvalidRequest and a connection that must start again. -/
def cmdNegotiateAlgorithms (t : Transport) (msg : Bytes) : Upd :=
  spdmAt t .capabilities fun _ =>
    if Config.spdmOffersOk msg then .seq [connSet t .ready, answer t .algorithms]
    else .seq [connSet t .none, answer t (.error .invalidRequest)]

/-- GET_DIGESTS: SM3 of slot 0's chain. -/
def cmdGetDigests (t : Transport) (_msg : Bytes) : Upd :=
  spdmAt t .ready fun s => answer t (.digests (Config.sm3 (certChain s.sys.sec)))

/-- GET_CERTIFICATE: the portion asked for of slot 0's chain. -/
def cmdGetCertificate (t : Transport) (msg : Bytes) : Upd :=
  spdmAt t .ready fun s =>
    let x := Config.spdmPortion msg
    let body := sub (certChain s.sys.sec) x.1 x.2
    answerLong t body (.certificate body)

/-- CHALLENGE: signed by the alias key (R548). -/
def cmdChallenge (t : Transport) (msg : Bytes) : Upd :=
  spdmAt t .ready fun s => .fresh fun v => answer t (.challengeAuth (aliasSign s msg v))

/-- The blocks a GET_MEASUREMENTS asks for. -/
def measBlocks (s : State) (which : Option Nat) : List (Nat × Bytes) :=
  let all := (indexed s.sys.sec.meas).map fun c => (c.1 + 1, c.2)
  match which with | none => all | some i => all.filter (·.1 == i)

/-- GET_MEASUREMENTS (R549): the blocks as taken at stage 2. -/
def cmdGetMeasurements (t : Transport) (msg : Bytes) : Upd :=
  spdmAt t .ready fun s => .fresh fun v =>
    let bs := measBlocks s (Config.spdmMeasIndex msg)
    answerLong t (bs.flatMap (·.2)) (.measurements bs (if Config.spdmSigned msg then aliasSign s msg v else []))

/-! ### Sessions -/

def sessionOf (s : State) (t : Transport) (id : Nat) : Option SpdmSession := s.sys.sec.sessions.find? fun x => x.t == t && x.id == id
def sessionsMod (f : List SpdmSession → List SpdmSession) : Upd := secMod fun x => { x with sessions := f x.sessions }

/-- KEY_EXCHANGE: a session begun, signed by the alias key; no more than Table 19.4 allows. -/
def cmdKeyExchange (t : Transport) (msg : Bytes) : Upd :=
  spdmAt t .ready fun s =>
    if sessionLimit t ≤ s.sys.sec.sessions.countP (·.t == t) then answer t (.error .sessionLimit)
    else .fresh fun v =>
      let id := s.sys.sec.nextSession
      .seq [secMod fun x => { x with nextSession := id + 1, sessions := ⟨t, id, false, 0⟩ :: x.sessions },
        answer t (.keyExchangeRsp id (aliasSign s msg v))]

/-- FINISH: the session is open. -/
def cmdFinish (t : Transport) (id : Nat) (_msg : Bytes) : Upd :=
  spdmAt t .ready fun s => match sessionOf s t id with
    | some x => if x.open' then answer t (.error .unexpectedRequest)
        else .seq [sessionsMod fun l => l.map fun y => if y.t = t ∧ y.id = id then { y with open' := true } else y, answer t (.finishRsp id)]
    | none => answer t (.error .unexpectedRequest)

/-- A request inside an open session. -/
def inSession (t : Transport) (id : Nat) (u : Upd) : Upd :=
  spdmAt t .ready fun s => match sessionOf s t id with
    | some x => if x.open' then u else answer t (.error .unexpectedRequest)
    | none => answer t (.error .unexpectedRequest)

/-- KEY_UPDATE. -/
def cmdKeyUpdate (t : Transport) (id : Nat) (_msg : Bytes) : Upd :=
  inSession t id (.seq [sessionsMod fun l => l.map fun y => if y.t = t ∧ y.id = id then { y with updates := y.updates + 1 } else y,
    answer t (.keyUpdateAck id)])

/-- HEARTBEAT. -/
def cmdHeartbeat (t : Transport) (id : Nat) (_msg : Bytes) : Upd := inSession t id (answer t (.heartbeatAck id))

/-- END_SESSION. -/
def cmdEndSession (t : Transport) (id : Nat) (_msg : Bytes) : Upd :=
  inSession t id (.seq [sessionsMod fun l => l.filter fun y => !(y.t == t && y.id == id), answer t (.endSessionAck id)])

/-- VENDOR_DEFINED_REQUEST (R552): in a session of the DOE mailbox, a stream's 256-bit key programmed, or its keys put to use. -/
def cmdVendorDefinedRequest (t : Transport) (id : Nat) (stream : Fin 5) (key : Bytes) (go : Bool) : Upd :=
  inSession t id <| .read fun s =>
    let x := ideOf s stream.val
    if t = .sideband then answer t (.error .unsupportedRequest)
    else if go then
      (match x.state with
       | .keyed => .seq [ideMod stream.val fun x => { x with state := .secure }, answer t (.vendorDefined id stream.val)]
       | _ => answer t (.error .invalidRequest))
    else if key.length = 32 then .seq [ideMod stream.val fun _ => ⟨.keyed, key⟩, answer t (.vendorDefined id stream.val)]
    else answer t (.error .invalidRequest)

/-! ### Chunks -/

/-- CHUNK_SEND: one chunk of a large request, in order, up to MaxSPDMmsgSize. The request that the chunks make up is acted on as
its own row. -/
def cmdChunkSend (t : Transport) (handle seqNo : Nat) (last : Bool) (chunk : Bytes) : Upd :=
  spdmAt t .ready fun s =>
    let old := (s.sys.sec.chunks.find? fun c => c.t == t).getD ⟨t, handle, 0, []⟩
    let rest := s.sys.sec.chunks.filter fun c => c.t != t
    if old.handle ≠ handle ∨ old.next ≠ seqNo ∨ 4096 < chunk.length ∨ 65536 < old.data.length + chunk.length then
      .seq [secMod fun x => { x with chunks := rest }, answer t (.error .invalidRequest)]
    else .seq [secMod fun x => { x with chunks := if last then rest else ⟨t, handle, seqNo + 1, old.data ++ chunk⟩ :: rest },
      answer t (.chunkSendAck handle seqNo)]

/-- CHUNK_GET: one chunk of a large response. -/
def cmdChunkGet (t : Transport) (handle seqNo : Nat) : Upd :=
  spdmAt t .ready fun s =>
    match s.sys.sec.large.find? fun c => c.t == t && c.handle == handle with
    | none => answer t (.error .invalidRequest)
    | some c =>
      let last := decide (c.data.length ≤ 4096 * (seqNo + 1))
      if c.next ≠ seqNo then answer t (.error .invalidRequest)
      else
        let rest (l : List SpdmChunk) : List SpdmChunk :=
          if last then l.filter (fun d => !(d.t == t && d.handle == handle))
          else l.map fun d => if d.t = t ∧ d.handle = handle then { d with next := seqNo + 1 } else d
        .seq [secMod fun x => { x with large := rest x.large },
        answer t (.chunkResponse handle seqNo last (sub c.data (4096 * seqNo) 4096))]

/-- SPDM_UNSUPPORTED_REQUEST (R547). -/
def cmdSpdmUnsupportedRequest (t : Transport) (_code : Nat) : Upd :=
  .read fun s => .when (transportUp s t) (answer t (.error .unsupportedRequest))

def execGetVersion (t : Transport) (msg : Bytes) (s : State) : Host.Outcome State Fault Refusal := (cmdGetVersion t msg).goAux s
def execGetCapabilities (t : Transport) (msg : Bytes) (s : State) : Host.Outcome State Fault Refusal := (cmdGetCapabilities t msg).goAux s
def execNegotiateAlgorithms (t : Transport) (msg : Bytes) (s : State) : Host.Outcome State Fault Refusal := (cmdNegotiateAlgorithms t msg).goAux s
def execGetDigests (t : Transport) (msg : Bytes) (s : State) : Host.Outcome State Fault Refusal := (cmdGetDigests t msg).goAux s
def execGetCertificate (t : Transport) (msg : Bytes) (s : State) : Host.Outcome State Fault Refusal := (cmdGetCertificate t msg).goAux s
def execChallenge (t : Transport) (msg : Bytes) (s : State) : Host.Outcome State Fault Refusal := (cmdChallenge t msg).goAux s
def execGetMeasurements (t : Transport) (msg : Bytes) (s : State) : Host.Outcome State Fault Refusal := (cmdGetMeasurements t msg).goAux s
def execKeyExchange (t : Transport) (msg : Bytes) (s : State) : Host.Outcome State Fault Refusal := (cmdKeyExchange t msg).goAux s
def execFinish (t : Transport) (session : Nat) (msg : Bytes) (s : State) : Host.Outcome State Fault Refusal := (cmdFinish t session msg).goAux s
def execKeyUpdate (t : Transport) (session : Nat) (msg : Bytes) (s : State) : Host.Outcome State Fault Refusal := (cmdKeyUpdate t session msg).goAux s
def execHeartbeat (t : Transport) (session : Nat) (msg : Bytes) (s : State) : Host.Outcome State Fault Refusal := (cmdHeartbeat t session msg).goAux s
def execEndSession (t : Transport) (session : Nat) (msg : Bytes) (s : State) : Host.Outcome State Fault Refusal := (cmdEndSession t session msg).goAux s
def execVendorDefinedRequest (t : Transport) (session : Nat) (stream : Fin 5) (key : Bytes) (go : Bool) (s : State) :
    Host.Outcome State Fault Refusal := (cmdVendorDefinedRequest t session stream key go).goAux s
def execChunkSend (t : Transport) (handle seqNo : Nat) (last : Bool) (chunk : Bytes) (s : State) : Host.Outcome State Fault Refusal :=
  (cmdChunkSend t handle seqNo last chunk).goAux s
def execChunkGet (t : Transport) (handle seqNo : Nat) (s : State) : Host.Outcome State Fault Refusal := (cmdChunkGet t handle seqNo).goAux s
def execSpdmUnsupportedRequest (t : Transport) (code : Nat) (s : State) : Host.Outcome State Fault Refusal :=
  (cmdSpdmUnsupportedRequest t code).goAux s

end Sys2Proof.Machine
end

