-- ==== Sys2Proof/Machine/Dispatch.lean ====
section
/-!
DEFINITION. The dispatch of a command to its meaning: one arm per row of the table of operations and events.
-/

namespace Sys2Proof.Machine

/-- The effect of a command on everything but the queue. -/
def exec (i : Instr) (s : State) : Host.Outcome State Fault Refusal :=
  match i with
  | .bellStep recv sense => Sys2Proof.Machine.execBellStep recv sense s
  | .commandTimeout p ref => Sys2Proof.Machine.execCommandTimeout p ref s
  | .bellPacket k b residence => Sys2Proof.Machine.execBellPacket k b residence s
  | .holdover => Sys2Proof.Machine.execHoldover s
  | .frameCtlWrite w v => Sys2Proof.Machine.execFrameCtlWrite w v s
  | .frameApplyWrite w v => Sys2Proof.Machine.execFrameApplyWrite w v s
  | .registerWrite w addr data => Sys2Proof.Machine.execRegisterWrite w addr data s
  | .slotWrite w p offset data => Sys2Proof.Machine.execSlotWrite w p offset data s
  | .packetAccept p ring => Sys2Proof.Machine.execPacketAccept p ring s
  | .consumedCountWrite p ring => Sys2Proof.Machine.execConsumedCountWrite p ring s
  | .ringCfgWrite w p ring v => Sys2Proof.Machine.execRingCfgWrite w p ring v s
  | .replyComplTimeout tag => Sys2Proof.Machine.execReplyComplTimeout tag s
  | .nop p ref => Sys2Proof.Machine.execNop p ref s
  | .identify p ref => Sys2Proof.Machine.execIdentify p ref s
  | .cancel p ref => Sys2Proof.Machine.execCancel p ref s
  | .collDefine p ref => Sys2Proof.Machine.execCollDefine p ref s
  | .collMap p ref => Sys2Proof.Machine.execCollMap p ref s
  | .shardSet p ref => Sys2Proof.Machine.execShardSet p ref s
  | .collOpen p ref => Sys2Proof.Machine.execCollOpen p ref s
  | .collTune p ref => Sys2Proof.Machine.execCollTune p ref s
  | .collClose p ref => Sys2Proof.Machine.execCollClose p ref s
  | .collCloseDone coll => Sys2Proof.Machine.execCollCloseDone coll s
  | .collRead p ref => Sys2Proof.Machine.execCollRead p ref s
  | .search p ref => Sys2Proof.Machine.execSearch p ref s
  | .searchX p ref => Sys2Proof.Machine.execSearchX p ref s
  | .searchShard p ref => Sys2Proof.Machine.execSearchShard p ref s
  | .expansionReturn p walk node => Sys2Proof.Machine.execExpansionReturn p walk node s
  | .walkFrameLimit p walk => Sys2Proof.Machine.execWalkFrameLimit p walk s
  | .batchWindowExpire p unit => Sys2Proof.Machine.execBatchWindowExpire p unit s
  | .refineGather p walks => Sys2Proof.Machine.execRefineGather p walks s
  | .fanoutReply fromPart fromPartition p record offset data => Sys2Proof.Machine.execFanoutReply fromPart fromPartition p record offset data s
  | .shareDeadline p ref => Sys2Proof.Machine.execShareDeadline p ref s
  | .partialOkDeadline p ref => Sys2Proof.Machine.execPartialOkDeadline p ref s
  | .insert p ref => Sys2Proof.Machine.execInsert p ref s
  | .delete p ref => Sys2Proof.Machine.execDelete p ref s
  | .replace p ref => Sys2Proof.Machine.execReplace p ref s
  | .updateShard p ref => Sys2Proof.Machine.execUpdateShard p ref s
  | .shareCommit p ref shard => Sys2Proof.Machine.execShareCommit p ref shard s
  | .compact p ref => Sys2Proof.Machine.execCompact p ref s
  | .shelfBuild p ref => Sys2Proof.Machine.execShelfBuild p ref s
  | .shelfCopyDone p coll shard => Sys2Proof.Machine.execShelfCopyDone p coll shard s
  | .shelfReplay p coll shard n => Sys2Proof.Machine.execShelfReplay p coll shard n s
  | .shelfSwap p ref => Sys2Proof.Machine.execShelfSwap p ref s
  | .shelfRetire p coll shard => Sys2Proof.Machine.execShelfRetire p coll shard s
  | .migrate p ref => Sys2Proof.Machine.execMigrate p ref s
  | .migrateCheck p ref ready => Sys2Proof.Machine.execMigrateCheck p ref ready s
  | .migrateCutover p ref newHomeUp => Sys2Proof.Machine.execMigrateCutover p ref newHomeUp s
  | .migrateRelease p ref => Sys2Proof.Machine.execMigrateRelease p ref s
  | .nodeRead p ref => Sys2Proof.Machine.execNodeRead p ref s
  | .repairCtl p ref => Sys2Proof.Machine.execRepairCtl p ref s
  | .commitRead p ref => Sys2Proof.Machine.execCommitRead p ref s
  | .repairEntry p => Sys2Proof.Machine.execRepairEntry p s
  | .repairSweep p coll shard => Sys2Proof.Machine.execRepairSweep p coll shard s
  | .freeListScan p coll shard n => Sys2Proof.Machine.execFreeListScan p coll shard n s
  | .sorterBlock p sel block => Sys2Proof.Machine.execSorterBlock p sel block s
  | .numClrCounts w p v => Sys2Proof.Machine.execNumClrCounts w p v s
  | .driftCtlWrite w p tau v => Sys2Proof.Machine.execDriftCtlWrite w p tau v s
  | .progLoad p ref => Sys2Proof.Machine.execProgLoad p ref s
  | .progUnload p ref => Sys2Proof.Machine.execProgUnload p ref s
  | .progUnloadDone p handle => Sys2Proof.Machine.execProgUnloadDone p handle s
  | .progRun p ref => Sys2Proof.Machine.execProgRun p ref s
  | .progInfo p ref => Sys2Proof.Machine.execProgInfo p ref s
  | .matmul p run => Sys2Proof.Machine.execMatmul p run s
  | .bmatmul p run => Sys2Proof.Machine.execBmatmul p run s
  | .ewise p run => Sys2Proof.Machine.execEwise p run s
  | .norm p run => Sys2Proof.Machine.execNorm p run s
  | .softmax p run => Sys2Proof.Machine.execSoftmax p run s
  | .reduce p run => Sys2Proof.Machine.execReduce p run s
  | .convert p run => Sys2Proof.Machine.execConvert p run s
  | .gather p run => Sys2Proof.Machine.execGather p run s
  | .scatterAdd p run => Sys2Proof.Machine.execScatterAdd p run s
  | .hamming p run => Sys2Proof.Machine.execHamming p run s
  | .topk p run => Sys2Proof.Machine.execTopk p run s
  | .merge p run => Sys2Proof.Machine.execMerge p run s
  | .kvAppend p run => Sys2Proof.Machine.execKvAppend p run s
  | .detok p run => Sys2Proof.Machine.execDetok p run s
  | .copy p run => Sys2Proof.Machine.execCopy p run s
  | .tallyWait p run => Sys2Proof.Machine.execTallyWait p run s
  | .tallyWaitRelease p run => Sys2Proof.Machine.execTallyWaitRelease p run s
  | .tallyAdd p run => Sys2Proof.Machine.execTallyAdd p run s
  | .prefetchStream p stream n feed => Sys2Proof.Machine.execPrefetchStream p stream n feed s
  | .vocabLoad p ref => Sys2Proof.Machine.execVocabLoad p ref s
  | .streamOpen p ref => Sys2Proof.Machine.execStreamOpen p ref s
  | .textFeed p ref => Sys2Proof.Machine.execTextFeed p ref s
  | .streamRead p ref => Sys2Proof.Machine.execStreamRead p ref s
  | .streamClose p ref => Sys2Proof.Machine.execStreamClose p ref s
  | .termLookup p ref => Sys2Proof.Machine.execTermLookup p ref s
  | .ngramHash p ref => Sys2Proof.Machine.execNgramHash p ref s
  | .memCopy p ref => Sys2Proof.Machine.execMemCopy p ref s
  | .tableDefine p ref => Sys2Proof.Machine.execTableDefine p ref s
  | .tableDrop p ref => Sys2Proof.Machine.execTableDrop p ref s
  | .tableDropDone p table => Sys2Proof.Machine.execTableDropDone p table s
  | .rowLookup p ref => Sys2Proof.Machine.execRowLookup p ref s
  | .hotSet p ref => Sys2Proof.Machine.execHotSet p ref s
  | .rowFwd p ref => Sys2Proof.Machine.execRowFwd p ref s
  | .rowAdd p ref => Sys2Proof.Machine.execRowAdd p ref s
  | .hotRefresh p table done => Sys2Proof.Machine.execHotRefresh p table done s
  | .stackCompare k p walk node => Sys2Proof.Machine.execStackCompare k p walk node s
  | .stackGather k w rows len dst => Sys2Proof.Machine.execStackGather k w rows len dst s
  | .stackAdd k w addr fp vals => Sys2Proof.Machine.execStackAdd k w addr fp vals s
  | .stackWrite k w addr data => Sys2Proof.Machine.execStackWrite k w addr data s
  | .stackScrub k correctable uncorrectable => Sys2Proof.Machine.execStackScrub k correctable uncorrectable s
  | .stackScan k p ref => Sys2Proof.Machine.execStackScan k p ref s
  | .stackMove k w src dst n => Sys2Proof.Machine.execStackMove k w src dst n s
  | .stackZero k addr rows => Sys2Proof.Machine.execStackZero k addr rows s
  | .bankRefresh k temp => Sys2Proof.Machine.execBankRefresh k temp s
  | .rowSpare k row => Sys2Proof.Machine.execRowSpare k row s
  | .stackStartup k r => Sys2Proof.Machine.execStackStartup k r s
  | .stackSelfRefreshExit k rate => Sys2Proof.Machine.execStackSelfRefreshExit k rate s
  | .stkFill w k v => Sys2Proof.Machine.execStkFill w k v s
  | .stkTest w k v => Sys2Proof.Machine.execStkTest w k v s
  | .stkFillDone k failed => Sys2Proof.Machine.execStkFillDone k failed s
  | .channelStartup c r => Sys2Proof.Machine.execChannelStartup c r s
  | .flashIngest p ref => Sys2Proof.Machine.execFlashIngest p ref s
  | .flashRelease p ref => Sys2Proof.Machine.execFlashRelease p ref s
  | .ingestCommit p ref => Sys2Proof.Machine.execIngestCommit p ref s
  | .flashInfo p ref => Sys2Proof.Machine.execFlashInfo p ref s
  | .healthRead p ref => Sys2Proof.Machine.execHealthRead p ref s
  | .flashFormat p ref => Sys2Proof.Machine.execFlashFormat p ref s
  | .fold c unit => Sys2Proof.Machine.execFold c unit s
  | .garbageCollection c unit page => Sys2Proof.Machine.execGarbageCollection c unit page s
  | .flashScrub c weak => Sys2Proof.Machine.execFlashScrub c weak s
  | .flashReadDone c reader addr d => Sys2Proof.Machine.execFlashReadDone c reader addr d s
  | .channelSieveCompare c p walk node => Sys2Proof.Machine.execChannelSieveCompare c p walk node s
  | .blockRetire c f lostMib spareLeft => Sys2Proof.Machine.execBlockRetire c f lostMib spareLeft s
  | .healthLogCopy c => Sys2Proof.Machine.execHealthLogCopy c s
  | .zqCalibration c => Sys2Proof.Machine.execZqCalibration c s
  | .dmaStart w p j v => Sys2Proof.Machine.execDmaStart w p j v s
  | .dmaAbort w p j v => Sys2Proof.Machine.execDmaAbort w p j v s
  | .dmaComplete p j remoteData => Sys2Proof.Machine.execDmaComplete p j remoteData s
  | .dmaFail p j status moved => Sys2Proof.Machine.execDmaFail p j status moved s
  | .portTrain k r => Sys2Proof.Machine.execPortTrain k r s
  | .linkLoss k => Sys2Proof.Machine.execLinkLoss k s
  | .flitRx k crcOk seq packets => Sys2Proof.Machine.execFlitRx k crcOk seq packets s
  | .replayRequest k lastGood => Sys2Proof.Machine.execReplayRequest k lastGood s
  | .flitSend k => Sys2Proof.Machine.execFlitSend k s
  | .memRd k pkt => Sys2Proof.Machine.execMemRd k pkt s
  | .memWr k pkt => Sys2Proof.Machine.execMemWr k pkt s
  | .compl k pkt => Sys2Proof.Machine.execCompl k pkt s
  | .cmd k pkt => Sys2Proof.Machine.execCmd k pkt s
  | .credit k pkt => Sys2Proof.Machine.execCredit k pkt s
  | .notice k pkt => Sys2Proof.Machine.execNotice k pkt s
  | .creditReturnUnused peer request cls partition => Sys2Proof.Machine.execCreditReturnUnused peer request cls partition s
  | .hostEnWrite w v => Sys2Proof.Machine.execHostEnWrite w v s
  | .hostWindowWrite ld secure bar2 offset len data => Sys2Proof.Machine.execHostWindowWrite ld secure bar2 offset len data s
  | .requestReissue tag => Sys2Proof.Machine.execRequestReissue tag s
  | .hRd k pkt => Sys2Proof.Machine.execHRd k pkt s
  | .hWr k pkt => Sys2Proof.Machine.execHWr k pkt s
  | .hCln k pkt => Sys2Proof.Machine.execHCln k pkt s
  | .hData k pkt => Sys2Proof.Machine.execHData k pkt s
  | .hCmp k pkt => Sys2Proof.Machine.execHCmp k pkt s
  | .biSnp k pkt => Sys2Proof.Machine.execBiSnp k pkt s
  | .biRsp k pkt => Sys2Proof.Machine.execBiRsp k pkt s
  | .fail k pkt => Sys2Proof.Machine.execFail k pkt s
  | .biTimeout line agent => Sys2Proof.Machine.execBiTimeout line agent s
  | .domDefine p ref => Sys2Proof.Machine.execDomDefine p ref s
  | .domFail p ref => Sys2Proof.Machine.execDomFail p ref s
  | .domArm p ref => Sys2Proof.Machine.execDomArm p ref s
  | .domArmComplete dom => Sys2Proof.Machine.execDomArmComplete dom s
  | .domRead p ref => Sys2Proof.Machine.execDomRead p ref s
  | .regionDefine p ref => Sys2Proof.Machine.execRegionDefine p ref s
  | .regionFree p ref => Sys2Proof.Machine.execRegionFree p ref s
  | .extAdd p ref => Sys2Proof.Machine.execExtAdd p ref s
  | .dcdAddResponse ld ext accept => Sys2Proof.Machine.execDcdAddResponse ld ext accept s
  | .extRelease p ref => Sys2Proof.Machine.execExtRelease p ref s
  | .hostCapacityRelease ld ext => Sys2Proof.Machine.execHostCapacityRelease ld ext s
  | .extentDrainEnd ext => Sys2Proof.Machine.execExtentDrainEnd ext s
  | .revokeWindowEnd ext => Sys2Proof.Machine.execRevokeWindowEnd ext s
  | .extRead p ref => Sys2Proof.Machine.execExtRead p ref s
  | .bind p ref => Sys2Proof.Machine.execBind p ref s
  | .bindDrainEnd p ref => Sys2Proof.Machine.execBindDrainEnd p ref s
  | .unitScrub kind index => Sys2Proof.Machine.execUnitScrub kind index s
  | .bindEpoch p ref => Sys2Proof.Machine.execBindEpoch p ref s
  | .bindRead p ref => Sys2Proof.Machine.execBindRead p ref s
  | .ledgerRead p ref => Sys2Proof.Machine.execLedgerRead p ref s
  | .mapSettle p ref => Sys2Proof.Machine.execMapSettle p ref s
  | .prep k pkt => Sys2Proof.Machine.execPrep k pkt s
  | .ack k pkt => Sys2Proof.Machine.execAck k pkt s
  | .commit k pkt => Sys2Proof.Machine.execCommit k pkt s
  | .defer k pkt => Sys2Proof.Machine.execDefer k pkt s
  | .abort k pkt => Sys2Proof.Machine.execAbort k pkt s
  | .mapUnsettled keeper seq => Sys2Proof.Machine.execMapUnsettled keeper seq s
  | .faultRead p ref => Sys2Proof.Machine.execFaultRead p ref s
  | .reset p ref => Sys2Proof.Machine.execReset p ref s
  | .engineHang kind index op cycles => Sys2Proof.Machine.execEngineHang kind index op cycles s
  | .stewardWatchdog core partLevel missed => Sys2Proof.Machine.execStewardWatchdog core partLevel missed s
  | .resetEscalation level p kind index began => Sys2Proof.Machine.execResetEscalation level p kind index began s
  | .firmwareReadyTimeout => Sys2Proof.Machine.execFirmwareReadyTimeout s
  | .bootTimeout => Sys2Proof.Machine.execBootTimeout s
  | .dumpMirror p done => Sys2Proof.Machine.execDumpMirror p done s
  | .dumpRead p ref => Sys2Proof.Machine.execDumpRead p ref s
  | .dumpClear p ref => Sys2Proof.Machine.execDumpClear p ref s
  | .selfTest p ref r => Sys2Proof.Machine.execSelfTest p ref r s
  | .daybookAppend p ref => Sys2Proof.Machine.execDaybookAppend p ref s
  | .daybookProgram p => Sys2Proof.Machine.execDaybookProgram p s
  | .daybookInfo p ref => Sys2Proof.Machine.execDaybookInfo p ref s
  | .rejoin p ref => Sys2Proof.Machine.execRejoin p ref s
  | .bootRom => Sys2Proof.Machine.execBootRom s
  | .bootLoader => Sys2Proof.Machine.execBootLoader s
  | .firmwareStart => Sys2Proof.Machine.execFirmwareStart s
  | .firmwareReady => Sys2Proof.Machine.execFirmwareReady s
  | .fwStage w v => Sys2Proof.Machine.execFwStage w v s
  | .stagingDone => Sys2Proof.Machine.execStagingDone s
  | .activate w v => Sys2Proof.Machine.execActivate w v s
  | .dbgTokenArm w v => Sys2Proof.Machine.execDbgTokenArm w v s
  | .getVersion t msg => Sys2Proof.Machine.execGetVersion t msg s
  | .getCapabilities t msg => Sys2Proof.Machine.execGetCapabilities t msg s
  | .negotiateAlgorithms t msg => Sys2Proof.Machine.execNegotiateAlgorithms t msg s
  | .getDigests t msg => Sys2Proof.Machine.execGetDigests t msg s
  | .getCertificate t msg => Sys2Proof.Machine.execGetCertificate t msg s
  | .challenge t msg => Sys2Proof.Machine.execChallenge t msg s
  | .getMeasurements t msg => Sys2Proof.Machine.execGetMeasurements t msg s
  | .keyExchange t msg => Sys2Proof.Machine.execKeyExchange t msg s
  | .finish t session msg => Sys2Proof.Machine.execFinish t session msg s
  | .keyUpdate t session msg => Sys2Proof.Machine.execKeyUpdate t session msg s
  | .heartbeat t session msg => Sys2Proof.Machine.execHeartbeat t session msg s
  | .endSession t session msg => Sys2Proof.Machine.execEndSession t session msg s
  | .vendorDefinedRequest t session stream key go => Sys2Proof.Machine.execVendorDefinedRequest t session stream key go s
  | .chunkSend t handle seqNo last chunk => Sys2Proof.Machine.execChunkSend t handle seqNo last chunk s
  | .chunkGet t handle seqNo => Sys2Proof.Machine.execChunkGet t handle seqNo s
  | .spdmUnsupportedRequest t code => Sys2Proof.Machine.execSpdmUnsupportedRequest t code s
  | .ideIntegrityFail stream => Sys2Proof.Machine.execIdeIntegrityFail stream s
  | .pwrGoodRise coldRstHigh => Sys2Proof.Machine.execPwrGoodRise coldRstHigh s
  | .pwrGoodFall => Sys2Proof.Machine.execPwrGoodFall s
  | .coldRstN lowNs both => Sys2Proof.Machine.execColdRstN lowNs both s
  | .warmRstN lowNs both => Sys2Proof.Machine.execWarmRstN lowNs both s
  | .thermalTrip junction => Sys2Proof.Machine.execThermalTrip junction s
  | .stackHotLimit k temp => Sys2Proof.Machine.execStackHotLimit k temp s
  | .enterRest => Sys2Proof.Machine.execEnterRest s
  | .enterDeep => Sys2Proof.Machine.execEnterDeep s
  | .deepDrainEnd => Sys2Proof.Machine.execDeepDrainEnd s
  | .enterDark => Sys2Proof.Machine.execEnterDark s
  | .exitToRun => Sys2Proof.Machine.execExitToRun s
  | .deepExitComplete => Sys2Proof.Machine.execDeepExitComplete s
  | .bellOutMark => Sys2Proof.Machine.execBellOutMark s
  | .bellInEdge word => Sys2Proof.Machine.execBellInEdge word s
  | .mctpControl cmd arg => Sys2Proof.Machine.execMctpControl cmd arg s
  | .sbInfo tag => Sys2Proof.Machine.execSbInfo tag s
  | .sbVid tag => Sys2Proof.Machine.execSbVid tag s
  | .sbCmd tag p packet => Sys2Proof.Machine.execSbCmd tag p packet s
  | .sbCycleAck tag accept => Sys2Proof.Machine.execSbCycleAck tag accept s
  | .sbCycleRetry => Sys2Proof.Machine.execSbCycleRetry s
  | .sbImageWrite tag slot offset data => Sys2Proof.Machine.execSbImageWrite tag slot offset data s
  | .sbImageDone tag slot => Sys2Proof.Machine.execSbImageDone tag slot s
  | .sbPstate tag target => Sys2Proof.Machine.execSbPstate tag target s
  | .utEnable w p v => Sys2Proof.Machine.execUtEnable w p v s
  | .utTailWrite w p v => Sys2Proof.Machine.execUtTailWrite w p v s
  | .utPacketTake p => Sys2Proof.Machine.execUtPacketTake p s
  | .utSearch p ref => Sys2Proof.Machine.execUtSearch p ref s
  | .utInsert p ref => Sys2Proof.Machine.execUtInsert p ref s
  | .utDelete p ref => Sys2Proof.Machine.execUtDelete p ref s
  | .utNop p ref => Sys2Proof.Machine.execUtNop p ref s
  | .utPad p => Sys2Proof.Machine.execUtPad p s
  | .utClear p ref => Sys2Proof.Machine.execUtClear p ref s
  | .hostLinkChange link speed width8 => Sys2Proof.Machine.execHostLinkChange link speed width8 s
  | .ldActiveChange ld enabled => Sys2Proof.Machine.execLdActiveChange ld enabled s
  | .hostCxlMemRequest ld secure req dpa => Sys2Proof.Machine.execHostCxlMemRequest ld secure req dpa s
  | .hostPerstN level => Sys2Proof.Machine.execHostPerstN level s
  | .sramUncorrectable p macroNo offset engine => Sys2Proof.Machine.execSramUncorrectable p macroNo offset engine s
  | .flashTargetTimeout c target recovered => Sys2Proof.Machine.execFlashTargetTimeout c target recovered s
  | .junctionWarn junction belowForFrame => Sys2Proof.Machine.execJunctionWarn junction belowForFrame s
  | .vddAuxRise => Sys2Proof.Machine.execVddAuxRise s
  | .debugPortAccess ir data => Sys2Proof.Machine.execDebugPortAccess ir data s
  | .i3cAddressAssignment addr => Sys2Proof.Machine.execI3cAddressAssignment addr s

end Sys2Proof.Machine
end

