-- ==== Sys2Proof/Safety.lean ====
section
/-!
DEFINITION. What a safe state is, and the few conditions that claims name again and again, in the terms claims use.
-/

namespace Sys2Proof.Safety

open Sys2Proof.Machine

/-- A safe state: the memories are in canonical form and every reserved bit of every register reads 0 (R7). -/
abbrev Safe (s : State) : Prop := Inv s

/-- The clocks of the main rails run (R560, R566). -/
def Running (s : State) : Prop := s.sys.pin.stopped = false

/-- Partition p's command store holds `c`, admitted and not yet started, with an opcode, and the part's clocks run. -/
structure Held (s : State) (p : Fin 4) (op : Nat) (c : Cmd) : Prop where
  running : Running s
  here : cmdOf s p c.ref = some c
  opcode : c.opcode = op
  phase : c.phase = .admitted

/-- The command has left the store: its status is posted. -/
def Ended (t : State) (p : Fin 4) (c : Cmd) : Prop := cmdOf t p c.ref = none

/-- Every register but those of a test reads as before. -/
def RegsKept (s t : State) (but : R → Fin 4 → Nat → Prop) : Prop := ∀ r p i, ¬ but r p i → rd t r p i = rd s r p i

/-- All three memories hold what they held. -/
def MemoriesKept (s t : State) : Prop := t.mem = s.mem ∧ t.win = s.win ∧ t.cellar = s.cellar

/-- Operation `x` is the current one of its run, has the code `vop`, may read its operands at once (R346) and, of a Mill operation, has a
place in the dispatch queues of its Mills (Table 1.9). -/
structure Performs (x : OpIn) (vop : Nat) : Prop where
  running : Running x.s
  run : runOf x.s x.p x.r.id = some x.r
  obj : objOf x.s x.p x.r.handle = some x.o
  cmd : cmdOf x.s x.p x.r.ref = some x.c
  op : x.o.ops[x.r.op]? = some x.v
  code : x.v.vop = vop
  idle : x.r.waiting = none
  queued : x.v.onQueue = true → (psys x.s x.p).mill.accepts x.o x.r.id = true
  key : x.key = opKey x.s.sys.free
  reads : ∀ a ∈ opReads x, rangeFail x.s x.p x.r.tenant false a = none ∧ cohHeld x.s a.1 a.2 false = []

/-- The run of operation `x` may write these ranges at once. -/
def MayWrite (x : OpIn) (l : List (Nat × Nat)) : Prop :=
  ∀ a ∈ l, rangeFail x.s x.p x.r.tenant true a = none ∧ cohHeld x.s a.1 a.2 true = []

/-- Operation `x` writes `outs` and `stores` and is over: the run goes on to the next operation with this one's flag word, or,
after the last, its command is ended where no host holds a line. -/
def Gives (x : OpIn) (outs : List (Tensor × TVal)) (stores : List (Nat × Bytes)) (flags : FlagN) (t : State) : Prop :=
  (∃ out u, out.vals = outs ∧ out.stores = stores ∧ out.flags = flags ∧ t = (opDone x out).run u ∧
    u.mem = ((Upd.seq [.sys fun y => { y with free := y.free + 1 }, .each outs (fun w => writeTensor x.p x.o x.r w.1 w.2),
      .each stores (fun w => runStore x.p x.r w.1 w.2)]).run x.s).mem ∧
    ∀ w ∈ outs, w.1.role = 3 → ∃ k, runOf u x.p x.r.id = some k ∧ (k.inter.find? (·.1 == w.1.id)).map (·.2) = some w.2) ∧
  (x.r.op + 1 < x.o.ops.length → ∃ k, runOf t x.p x.r.id = some k ∧ k.op = x.r.op + 1 ∧ k.words = x.r.words ++ [flags.word]) ∧
  (x.r.op + 1 = x.o.ops.length → (∀ a n, cohHeld x.s a n true = []) → cmdOf t x.p x.r.ref = none)

end Sys2Proof.Safety
end

