-- ==== Sys2Proof/WellFormed.lean ====
section
/-!
DEFINITION. What a command's operands must satisfy to name something the spec describes: fields that fit their width, lengths within
the limits of the tables.
-/

namespace Sys2Proof

/-- A Bell packet whose fields fit Table 14.9. -/
def BellInfo.wf (b : BellInfo) : Bool :=
  b.frame < 2 ^ 48 && b.period < 512 && b.applyAt < 2 ^ 48 && b.periodNext < 512 && b.source < 2 ^ 20 && b.bhops < 256 && b.due < 2 ^ 32

/-- Bytes an Alnos packet of each kind may carry (Table 14.5). -/
def Payload.wf : Payload → Bool
  | .memRd _ a n => a < 2 ^ 64 && 1 ≤ n && n ≤ 1024
  | .memWr _ a d => a < 2 ^ 64 && 1 ≤ d.length && d.length ≤ 1024
  | .cmd p => 64 ≤ p.length && p.length ≤ 4160
  | .notice d => d.length == 64
  | .bell b => b.wf
  | _ => true

/-- A packet whose header fits Table 14.4. -/
def Packet.fits (q : Packet) : Bool :=
  q.dst < 2 ^ 20 && q.src < 2 ^ 20 && q.ten < 4096 && q.ld < 16 && q.tag < 65536 && q.hops ≤ 128

/-- One whose payload is of its kind's length too. -/
def Packet.wf (q : Packet) : Bool := q.fits && q.body.wf

/-- An issuer that belongs to a tenant that can exist. -/
def Issuer.wf (w : Issuer) : Bool := w.tenant < 4096

/-- Well-formed commands. Operands that a type already bounds, and references that may name nothing (log entry 7), are not checked. -/
def Instr.wf : Instr → Bool
  | .bellStep (some n) sense => n < 2 ^ 48 && sense.junction < 256 && sense.power < 4096
  | .bellStep none sense => sense.junction < 256 && sense.power < 4096
  | .bellPacket _ b _ => b.wf
  | .frameCtlWrite w _ | .frameApplyWrite w _ | .numClrCounts w _ _ | .driftCtlWrite w _ _ _ | .hostEnWrite w _ | .ringCfgWrite w _ _ _ =>
    w.wf
  | .registerWrite w addr data => w.wf && 0x30000000000 ≤ addr && addr + data.length ≤ 0x30004000000 && 1 ≤ data.length
  | .slotWrite w _ offset data => w.wf && offset + data.length ≤ 0x400000 && 1 ≤ data.length
  | .fanoutReply fromPart _ _ record offset data =>
    fromPart < 2 ^ 20 && record < 4096 && 1 ≤ data.length && offset + data.length ≤ 0x20000
  | .sorterBlock _ _ block => 1 ≤ block.length && block.length ≤ 32
  | .stackGather _ w rows len _ => w.wf && 1 ≤ len && len ≤ 2048 && rows.length ≤ 1024
  | .stackAdd _ w addr _ vals => w.wf && addr % 4 == 0 && 1 ≤ vals.length
  | .stackWrite _ w _ data => w.wf && 1 ≤ data.length
  | .stackMove _ w _ _ n => w.wf && 1 ≤ n
  | .stackZero _ addr rows => addr % 1024 == 0 && 1 ≤ rows
  | .garbageCollection _ _ page => page < 256
  | .flitRx _ _ seq packets => seq < 65536 && packets.all Packet.fits
  | .replayRequest _ lastGood => lastGood < 65536
  | .memRd _ q | .memWr _ q | .compl _ q | .cmd _ q | .credit _ q | .notice _ q | .hRd _ q | .hWr _ q | .hCln _ q | .hData _ q
  | .hCmp _ q | .biSnp _ q | .biRsp _ q | .fail _ q | .prep _ q | .ack _ q | .commit _ q | .defer _ q | .abort _ q => q.wf
  | .creditReturnUnused peer _ _ _ => peer < 4096
  | .hostWindowWrite _ _ bar2 offset len data =>
    offset + max len data.length ≤ (if bar2 then 0x40000000 else 0x10000000) && 1 ≤ max len data.length
  | .requestReissue tag | .replyComplTimeout tag => tag < 65536
  | .resetEscalation level _ _ _ _ => 1 ≤ level && level ≤ 3
  | .sbCmd tag _ packet => tag < 65536 && 64 ≤ packet.length && packet.length ≤ 4160
  | .sbImageWrite tag slot _ data => tag < 65536 && slot < 2 && data.length ≤ 4096
  | .sbImageDone tag slot => tag < 65536 && slot < 2
  | .sbPstate tag target => tag < 65536 && target < 4
  | .hostCxlMemRequest _ _ _ dpa => dpa < 2 ^ 44
  | _ => true

end Sys2Proof
end

