-- ==== Sys2Proof/Certificates/Slice0/Obligations.lean ====
section
/-!
DEFINITION. The statements for the provers: what the spec's rules say of the machine, of its commands and of what they leave as it was.
-/

open Sys2Proof Sys2Proof.Machine Sys2Proof.Safety

/-! ### The whole machine -/

/-- Every step keeps the machine safe, from every safe state: the memories stay canonical, reserved bits read 0 (R7).
Where the spec leaves a point open, it follows the model's own reading: log entry 2. -/
def Obligations.EveryStepKeepsSafety : Prop := ∀ s t, Safe s → step s = .next t → Safe t

/-- The state after reset is safe; nothing waits, no memory byte is listed, and every register reads its table's reset value.
Where the spec leaves a point open, it follows the model's own reading: log entries 2 and 13. -/
def Obligations.ResetIsSafe : Prop :=
  Safe State.reset ∧ State.reset.pending = [] ∧ (∀ a, Mem.read State.reset.mem a = 0) ∧
  ∀ r p i, rd State.reset r p i = r.desc.reset ∧ lv State.reset r p i = r.desc.reset

/-- A step of a machine with a command in front is that command's effect on the machine with the queue's rest; with nothing waiting the
machine idles (DESIGN CHOICE, log entry 10). -/
def Obligations.StepTakesTheFrontCommand : Prop :=
  (∀ (s : State) c rest, step { s with pending := c :: rest } = exec c { s with pending := rest }) ∧
  ∀ s, s.pending = [] → step s = .next s

/-- No command ever stops the machine, none changes the fuses (R501), and none touches the commands that wait behind it. While the clocks
of the main rails are stopped, a command of the main rails changes nothing: here the Bell, a register write, a packet's acceptance, a
search and a flit (R560, R566; that such a command is a stutter is the model's reading, log entries 7 and 15). -/
def Obligations.CommandsNeverStopTheMachine : Prop :=
  (∀ c s, ∃ t, exec c s = .next t ∧ t.fuse = s.fuse ∧ t.pending = s.pending) ∧
  ∀ s, s.sys.pin.stopped = true →
    (∀ recv sense, exec (.bellStep recv sense) s = .next s) ∧ (∀ w a d, exec (.registerWrite w a d) s = .next s) ∧
    (∀ p r, exec (.packetAccept p r) s = .next s) ∧ (∀ p ref, exec (.search p ref) s = .next s) ∧
    ∀ k ok q l, exec (.flitRx k ok q l) s = .next s

/-! ### The control space -/

/-- R488: a control-space write to a register page that is none of those the rule permits its writer changes nothing but
BIND_STATUS.CTL_DENIED and BIND_COUNT.CTL_DENIED_N.
Where the spec leaves a point open, it follows the model's own reading: log entry 31. -/
def Obligations.RefusedControlWritesChangeNothing : Prop :=
  ∀ s w addr data, Running s → regionOf addr = .control →
    (let o := (addr - 0x30000000000) % 0x1000000
     ¬ (0x40 ≤ o / 0x10000 ∧ o / 0x10000 < 0x80) ∧
     tenantMayWrite s (issuerTenant s w) (toP ((addr - 0x30000000000) / 0x1000000)) (o / 0x10000)
       (pageBlock (o / 0x10000) (o % 0x10000)) = false) →
    ∃ t, exec (.registerWrite w addr data) s = .next t ∧
      RegsKept s t (fun r _ _ => r = .bindStatus ∨ r = .bindCount) ∧ MemoriesKept s t ∧ t.sys = s.sys ∧ t.live = s.live ∧
      bit (rd t .bindStatus 0) 63 = true ∧
      fld (rd t .bindCount 0) 15 0 = satAdd 16 (fld (rd s .bindCount 0) 15 0) 1

/-- The registers that rows of their own write (R30, R32, R210, R246, R442), written by the fabric manager: a good value is taken as
Table 0.6 says, a value outside its range sets the block's error flag; no memory changes. A REGISTER_WRITE of a plain register takes its RW bits;
one of another size than 8 aligned bytes is recorded and does nothing (R318). -/
def Obligations.RegisterRowsTakeTheirWrites : Prop :=
  ∀ s w v, Running s → issuerTenant s w = some 0 →
    (4 ≤ fld v 8 0 ∧ fld v 8 0 ≤ 256 → ∃ t, exec (.frameCtlWrite w v) s = .next t ∧
      rd t .frameCtl 0 = swWrite .frameCtl (rd s .frameCtl 0) v ∧
      RegsKept s t (fun r _ _ => r = .frameCtl) ∧ MemoriesKept s t ∧ t.sys = s.sys) ∧
    (¬ (4 ≤ fld v 8 0 ∧ fld v 8 0 ≤ 256) → ∃ t, exec (.frameCtlWrite w v) s = .next t ∧
      fld (rd t .frameCtl 0) 8 0 = fld (rd s .frameCtl 0) 8 0 ∧ bit (rd t .frameCtl 0) 24 = bit v 24 ∧
      bit (rd t .frameStatus 0) 16 = true ∧
      RegsKept s t (fun r _ _ => r = .frameCtl ∨ r = .frameStatus) ∧ MemoriesKept s t ∧ t.sys = s.sys) ∧
    (bit (rd s .frameCtl 0) 24 = true → fld v 47 0 < frameNow s + 8 → ∃ t, exec (.frameApplyWrite w v) s = .next t ∧
      bit (rd t .frameStatus 0) 16 = true ∧ RegsKept s t (fun r _ _ => r = .frameStatus) ∧ MemoriesKept s t ∧ t.sys = s.sys) ∧
    (bit (rd s .frameCtl 0) 24 = false ∨ frameNow s + 8 ≤ fld v 47 0 → ∃ t, exec (.frameApplyWrite w v) s = .next t ∧
      rd t .frameApply 0 = swWrite .frameApply (rd s .frameApply 0) v ∧ t.sys.bell.armed = true ∧
      RegsKept s t (fun r _ _ => r = .frameApply) ∧ MemoriesKept s t) ∧
    (bit v 63 = true → ∀ p, ∃ t, exec (.numClrCounts w p v) s = .next t ∧ rd t .numCount0 p = 0 ∧ rd t .numCount1 p = 0 ∧
      (∀ b, b < 5 → bit (rd t .numFlags p) b = (bit (rd s .numFlags p) b && !(bit v b))) ∧
      RegsKept s t (fun r q _ => q = p ∧ (r = .numFlags ∨ r = .numCount0 ∨ r = .numCount1)) ∧ MemoriesKept s t) ∧
    (fld v 31 0 ≠ 0 → bit v 31 = false → f32Finite (fld v 31 0) = true → ∀ p, ∃ t, exec (.driftCtlWrite w p true v) s = .next t ∧
      rd t .driftTau p = swWrite .driftTau (rd s .driftTau p) v ∧ RegsKept s t (fun r q _ => q = p ∧ r = .driftTau) ∧
      MemoriesKept s t ∧ t.sys = s.sys) ∧
    ((s.fuse.hostAllow = true → 1 ≤ fld v 36 32 → fld v 36 32 ≤ 16 → bit v 63 = bit (rd s .hostCfg 0) 63 →
       ∃ t, exec (.hostEnWrite w v) s = .next t ∧ rd t .hostCfg 0 = swWrite .hostCfg (rd s .hostCfg 0) v ∧
         RegsKept s t (fun r _ _ => r = .hostCfg) ∧ MemoriesKept s t ∧ t.sys = s.sys)) ∧
    ∀ addr data, regionOf addr = .control →
      let off := addr - 0x30000000000
      let p := toP (off / 0x1000000)
      let o := off % 0x1000000
      1 ≤ o / 0x10000 → o / 0x10000 ≤ 0x18 →
      (∀ r i, o % 8 = 0 → data.length = 8 → regAt o = some (r, i) → r ∈ [.millCtl, .batchThresh, .flCtl, .crierDest, .crierRing] →
        ∃ t, exec (.registerWrite w addr data) s = .next t ∧ rd t r p i = swWrite r (rd s r p i) (BitVec.ofNat 64 (leNat data)) ∧
          t.live = s.live ∧ t.sys = s.sys ∧ MemoriesKept s t ∧
          RegsKept s t (fun x q j => x = r ∧ j = i ∧ (q = p ∨ r.desc.part = true))) ∧
      (o % 8 ≠ 0 ∨ data.length ≠ 8 →
        ∃ q t, exec (.registerWrite w addr data) s = .next t ∧ bit (rd t .memErrStatus q) 60 = true ∧
          fld (rd t .memErrCount q) 15 0 = satAdd 16 (fld (rd s .memErrCount q) 15 0) 1 ∧ t.sys = s.sys ∧ MemoriesKept s t ∧
          RegsKept s t (fun r x _ => x = q ∧ (r = .memErrStatus ∨ r = .memErrCount ∨ r = .memErrAddr)))

/-! ### The Bell -/

/-- BELL_STEP (R19, R21, R10): on the Bell source, and on a part in holdover, a step issues the reads held in a batch window and performs
Table 1.3's actions in order for the next frame, the first of which makes the frame count that frame's number and leaves the other
registers but the Bell block's, the fault block's and the Crier's as they were; a Bell that nobody announced changes nothing.
Where the spec leaves a point open, it follows the model's own reading: log entries 25 and 27. -/
def Obligations.BellStepsCountFrames : Prop :=
  (∀ s sense, Running s → isSource s = true →
    let b : BellNow := ⟨frameNext s, periodAt s (frameNext s), none⟩
    exec (.bellStep none sense) s = .next ((Upd.seq [.each allP heldReads, bellCount false b, crierBell, overrunBell sense.overruns,
      packageBell sense.junction sense.power sense.busy, healthBell sense.flash, ledgerBell b.n, visibleBell b.n, bindAdmit b.n, bindBell b.n,
      refillBell b.n sense.overruns, timeoutBell b.n, drainBell, admitBell b.n sense.cost]).run s)) ∧
  (∀ s sense, Running s → isSource s = false → inHoldover s = true →
    exec (.bellStep none sense) s = .next ((bellActions false ⟨frameNext s, bellUs s, none⟩ sense).run s)) ∧
  (∀ s n p, isSource s = true → frameNow ((bellCount false ⟨n, p, none⟩).run s) = n % 2 ^ 48 ∧
    bellUs ((bellCount false ⟨n, p, none⟩).run s) = p % 512 ∧
    ∀ r q i, r ≠ .frameCount → r ≠ .frameStatus → rd ((bellCount false ⟨n, p, none⟩).run s) r q i = rd s r q i) ∧
  (∀ s n sense, Running s → isSource s = false → bellFromPin s = false → announcer s n = none →
    exec (.bellStep (some n) sense) s = .next s)

/-- HOLDOVER (R19), BELL_PACKET (R17, R18, R440), BELL_IN_EDGE and BELL_OUT_MARK (R574). A part in want of a Bell sets HOLDOVER, follows no
source and raises the holdover notice, without effect on a source or a part already in holdover; a packet on an UP port with BELL_RX
and time left goes on with one more hop, the link's delay and its time in the part off its DUE, on every UP port with BELL_FWD; a part
that takes its Bells from packets follows the lowest source heard, and a packet of another raises the notice of two sources; a word with
even parity is taken for the next Bell; BELL_OUT carries the next frame's word.
Where the spec leaves a point open, it follows the model's own reading: log entries 25, 26, 117 and 118. -/
def Obligations.BellSourcesAreHeard : Prop :=
  (∀ s, Running s → isSource s = false → inHoldover s = false → ∃ u v, exec .holdover s = .next ((crier 0x40 0xFF 0 0 0 (natLE 6 v)).run u) ∧
    inHoldover u = true ∧ u.sys.bell = { s.sys.bell with source := none, announced := [] } ∧ MemoriesKept s u ∧
    RegsKept s u (fun r _ _ => r = .frameStatus) ∧ (∀ n, n ≠ 17 → bit (rd u .frameStatus 0) n = bit (rd s .frameStatus 0) n)) ∧
  (∀ s, Running s → (isSource s = true ∨ inHoldover s = true) → exec .holdover s = .next s) ∧
  (∀ s (k : Fin 12) b res, Running s → fld (rd s .portStatus 0 k.val) 59 56 = 5 → bit (lv s .portCfg 0 k.val) 57 = true →
    portLent s k.val = false →
    let delay := fld (rd s .portDelay 0 k.val) 31 0
    let on : BellInfo := { b with bhops := b.bhops + 1, due := b.due - delay - res }
    let src := s.sys.bell.source.getD b.source
    delay < b.due →
    (isSource s = true → exec (.bellPacket k b res) s = .next ((bellSend on).run s)) ∧
    (isSource s = false → bellFromPin s = true → exec (.bellPacket k b res) s =
      .next ((bellSend on).run ((Upd.when (b.frame != frameNext s) (frameSlip (frameNext s) b.frame)).run s))) ∧
    (isSource s = false → bellFromPin s = false → src = b.source → ∃ u, exec (.bellPacket k b res) s = .next ((bellSend on).run u) ∧
      u.sys.bell = { s.sys.bell with
        source := some b.source
        announced := s.sys.bell.announced.filter (·.1.source == b.source) ++ [(b, k.val, b.due - delay)] } ∧
      RegsKept s u (fun _ _ _ => False) ∧ MemoriesKept s u) ∧
    (isSource s = false → bellFromPin s = false → b.source < src → ∃ u, exec (.bellPacket k b res) s = .next ((bellSend on).run u) ∧
      u.sys.bell = { s.sys.bell with
        source := some b.source
        announced := s.sys.bell.announced.filter (·.1.source == b.source) ++ [(b, k.val, b.due - delay)] } ∧
      (psys u 0).faults.records.head?.map (·.cause) = some 0x0A) ∧
    (isSource s = false → bellFromPin s = false → src < b.source → ∃ u, exec (.bellPacket k b res) s = .next ((bellSend on).run u) ∧
      u.sys.bell = s.sys.bell ∧ (psys u 0).faults.records.head?.map (·.cause) = some 0x0A)) ∧
  (∀ s (k : Fin 12) b res, Running s → (fld (rd s .portStatus 0 k.val) 59 56 ≠ 5 ∨ bit (lv s .portCfg 0 k.val) 57 = false ∨
    portLent s k.val = true ∨ b.due ≤ fld (rd s .portDelay 0 k.val) 31 0) → exec (.bellPacket k b res) s = .next s) ∧
  (∀ s b, ((bellSend b).run s).sys.out = (((List.range 12).filter fun k =>
      fld (rd s .portStatus 0 k) 59 56 == 5 && bit (lv s .portCfg 0 k) 58 && !(portLent s k)).map (Out.bell · b)).reverse ++ s.sys.out) ∧
  (∀ s w, Running s → bit (lv s .bellpinCfg 0) 62 = true → bit (lv s .frameCtl 0) 24 = false →
    ∃ t, exec (.bellInEdge (some w)) s = .next t ∧
      (if parityOk w then t.sys.bell.pin = some w ∧ RegsKept s t (fun _ _ _ => False)
       else t.sys = s.sys ∧ fld (rd t .bellpinStatus 0) 15 0 = satAdd 16 (fld (rd s .bellpinStatus 0) 15 0) 1)) ∧
  (∀ s, Running s → bit (lv s .bellpinCfg 0) 62 = true → bit (lv s .frameCtl 0) 24 = false →
    ∃ t, exec (.bellInEdge none) s = .next t ∧ t.sys = s.sys ∧
      fld (rd t .bellpinStatus 0) 31 16 = satAdd 16 (fld (rd s .bellpinStatus 0) 31 16) 1) ∧
  (∀ s, Running s → bit (lv s .bellpinCfg 0) 63 = true → ∃ t, exec .bellOutMark s = .next t ∧
    t.sys.out = .bellPin (bellWord (frameNext s) (periodAt s (frameNext s))) :: s.sys.out ∧ RegsKept s t fun _ _ _ => False)

/-! ### Rings and packets -/

/-- SLOT_WRITE (R45, R48, R55, R599) of one slot by an agent that R488 permits, or by the fabric: on a ring that takes the agent's kind of
write the bytes land in the window and nowhere else, and a write that covers header bytes 56 to 63 lands the packet; on a slot whose
packet waits, whoever writes, the ring is disabled with OVERRUN and the write is dropped and counted; on a ring that is disabled or of
another kind it is dropped and counted.
Where the spec leaves a point open, it follows the model's own reading: log entry 29. -/
def Obligations.SlotWritesLand : Prop :=
  ∀ s w p offset data r, Running s → slotOwner s p (offset / 0x2000) = some r →
    ((∃ k, w.agent = .port k) ∨ ∃ n, issuerTenant s w = some n ∧ (n = 0 ∨ unitServes s 10 (32 * p.val + r) n = true)) →
    1 ≤ data.length → offset % 0x2000 + data.length ≤ 0x2000 → offset / 0x2000 < 512 →
    let takes := bit (rd s .ringCfg p r) 63 && ringTakes (rd s .ringCfg p r) w.agent
    (takes = true → (psys s p).landed.any (·.slot == offset / 0x2000) = false → ∃ t, exec (.slotWrite w p offset data) s = .next t ∧
      t.win = Mem.writeBytes s.win (p.val * 0x400000 + offset) data ∧ t.mem = s.mem ∧ t.cellar = s.cellar ∧
      RegsKept s t (fun _ _ _ => False) ∧
      (psys t p).landed.length = (psys s p).landed.length +
        (if offset % 0x2000 ≤ 56 ∧ 64 ≤ offset % 0x2000 + data.length then 1 else 0)) ∧
    (takes = false → (psys s p).landed.any (·.slot == offset / 0x2000) = false → ∃ t, exec (.slotWrite w p offset data) s = .next t ∧
      MemoriesKept s t ∧ t.sys = s.sys ∧ RegsKept s t (fun x q i => x = .ringErrcount ∧ q = p ∧ i = r) ∧
      fld (rd t .ringErrcount p r) 15 0 = satAdd 16 (fld (rd s .ringErrcount p r) 15 0) 1) ∧
    ((psys s p).landed.any (·.slot == offset / 0x2000) = true → ∃ t, exec (.slotWrite w p offset data) s = .next t ∧
      MemoriesKept s t ∧ bit (rd t .ringCfg p r) 63 = false ∧ bit (rd t .ringStatus p r) 63 = true ∧
      fld (rd t .ringErrcount p r) 15 0 = satAdd 16 (fld (rd s .ringErrcount p r) 15 0) 1 ∧ t.sys = s.sys)

/-- RING_CFG_WRITE by the fabric manager (R52, R53, R54, R487): a write with ENABLE 1 to a disabled ring that R53 refuses leaves ENABLE
0 and sets CFG_ERR; one it does not refuse enables the ring and restarts its counts; a write with ENABLE 0 disables an enabled ring; no
write changes TENANT.
Where the spec leaves a point open, it follows the model's own reading: log entry 30. -/
def Obligations.RingsAreEnabledAndDisabled : Prop :=
  ∀ s w p (ring : Fin 32) v, Running s → issuerTenant s w = some 0 → fld v 43 32 < s.fuse.maxTenants →
    ∃ t, exec (.ringCfgWrite w p ring v) s = .next t ∧ MemoriesKept s t ∧
      fld (rd t .ringCfg p ring.val) 43 32 = fld (rd s .ringCfg p ring.val) 43 32 ∧
      RegsKept s t (fun r q i => q = p ∧ i = ring.val ∧ r ∈ [.ringCfg, .ringConsumed, .ringErrcount, .ringStatus]) ∧
      (let v' := ringCfgValue (rd s .ringCfg p ring.val) true v &&& R.ringCfg.desc.rw
       if bit (rd s .ringCfg p ring.val) 63 = true then
         (if bit v 63 = true then rd t .ringCfg p ring.val = rd s .ringCfg p ring.val ∧ bit (rd t .ringStatus p ring.val) 62 = true
          else bit (rd t .ringCfg p ring.val) 63 = false)
       else if bit v 63 = false then bit (rd t .ringCfg p ring.val) 63 = false
       else if ringRefused s p ring.val v' = true then
         bit (rd t .ringCfg p ring.val) 63 = false ∧ bit (rd t .ringStatus p ring.val) 62 = true
       else bit (rd t .ringCfg p ring.val) 63 = true ∧ rd t .ringConsumed p ring.val = 0 ∧ rd t .ringErrcount p ring.val = 0)

/-- PACKET_ACCEPT of a submission ring and of the Stewards' own ring (R47, R49, log entry 5), and SB_CMD (R578): the packet accepted is
the next of its ring; it leaves the slots that wait, RING_CONSUMED and the count of accepted packets rise by one, and steps 1 to 10 of
Table 2.11 follow; a command of the sideband is answered at once and goes the same way.
Where the spec leaves a point open, it follows the model's own reading: log entries 16, 19 and 23. -/
def Obligations.PacketsAreAccepted : Prop :=
  (∀ s p (ring : Fin 33) l, Running s → ring.val < 32 → accepting s p = true → nextLanded s p ring.val = some l →
    let cfg := l.cfg
    let fabric := fld cfg 59 58 == 2
    let pkt := Mem.readBytes s.win (p.val * 0x400000 + l.slot * 0x2000) 4160
    let c := cmdFrom pkt (psys s p).nextRef ring.val (if fabric then l.ten else fld cfg 43 32) l.frame l.steward l.srcPart
      (if fabric then stackOf (leAt pkt 16 8) / 6 else l.srcPartition)
    exec (.packetAccept p ring) s = .next ((Upd.seq [
      .part p (fun y => { y with landed := y.landed.erase l, ringNext := aset y.ringNext ring.val ((aget y.ringNext ring.val).getD 0 + 1) }),
      regCount .ringConsumed p ring.val 63 0 1, .when fabric (creditBack l.srcPart false (byteAt pkt 4 % 4) p.val),
      acceptPacket p pkt c fabric (fld cfg 59 58 != 0)]).run s)) ∧
  (∀ s p x rest, Running s → accepting s p = true → (psys s p).shareIn = x :: rest →
    let pkt := x.packet ++ zeros (64 - x.packet.length)
    exec (.packetAccept p 32) s = .next ((Upd.seq [.part p (fun y => { y with shareIn := y.shareIn.drop 1 }),
      acceptPacket p pkt (cmdFrom pkt (psys s p).nextRef 32 x.tenant x.frame true (partId s) x.fromPartition) false false]).run s)) ∧
  (∀ s p pkt c fabric metering, headerBad pkt = true → c.ring < 32 →
    let t := (acceptPacket p pkt c fabric metering).run s
    (psys t p).cmds = (psys s p).cmds ∧ t.mem = s.mem ∧ bit (rd t .ringStatus p c.ring) 61 = true ∧
    fld (rd t .ringErrcount p c.ring) 63 48 = satAdd 16 (fld (rd s .ringErrcount p c.ring) 63 48) 1) ∧
  (∀ s tag p packet, s.sys.pin.auxUp = true → bootStage s ≠ 3 → 64 ≤ packet.length → packet.length ≤ 4160 → sbHeld s < 4 →
    accepting s p = true →
    exec (.sbCmd tag p packet) s = .next ((Upd.seq [emit (.sideband 0x90 (some tag) (natLE 2 stOk)),
      acceptPacket p packet { cmdFrom packet (psys s p).nextRef 33 0 (frameNow s) false (partId s) p.val with sbTag := tag }
        false false]).run s))

/-- CONSUMED_COUNT_WRITE (R49, R60) and REPLY_COMPL_TIMEOUT (R59). Wherever the count goes, it is reported; to the part's own memory it
stands little-endian at the credit address, or is counted as not delivered. A reply whose COMPL has not come 64 frames after it was sent
is counted lost and no longer awaited.
Where the spec leaves a point open, it follows the model's own reading: log entry 36. -/
def Obligations.CountsAndRepliesAreDelivered : Prop :=
  (∀ s p (ring : Fin 32), Running s → unreported s p ring.val ≠ 0 →
    let addr := (rd s .ringCreditAddr p ring.val).toNat
    let tenant := if fld (rd s .ringCfg p ring.val) 59 58 = 2 then 0 else fld (rd s .ringCfg p ring.val) 43 32
    ∃ t, exec (.consumedCountWrite p ring) s = .next t ∧
      aget (psys t p).ringReported ring.val = some (rd s .ringConsumed p ring.val).toNat ∧ t.win = s.win ∧ t.cellar = s.cellar ∧
      (fld (rd s .ringCreditDest p ring.val) 19 0 = partId s → bit (rd s .ringCreditDest p ring.val) 23 = false →
        if creditAddrOk s tenant addr = true then
          t.mem = Mem.writeBytes s.mem (unalias s addr) (natLE 8 (rd s .ringConsumed p ring.val).toNat)
        else t.mem = s.mem ∧ bit (rd t .ringStatus p ring.val) 59 = true ∧
          fld (rd t .ringErrcount p ring.val) 47 32 = satAdd 16 (fld (rd s .ringErrcount p ring.val) 47 32) 1)) ∧
  (∀ s o p ring ref, Running s → s.sys.fab.outst.find? (·.tag == o.tag) = some o → o.why = .reply p ring ref → ring < 32 →
    o.frame + 64 ≤ frameNow s → o.again = false → s.sys.fab.held.contains o.pkt = false → s.sys.fab.waiting.contains o.pkt = false →
    ∃ t, exec (.replyComplTimeout o.tag) s = .next t ∧ (∀ x ∈ t.sys.fab.outst, x.why ≠ o.why) ∧
      bit (rd t .ringStatus p ring) 60 = true ∧
      fld (rd t .ringErrcount p ring) 47 32 = satAdd 16 (fld (rd s .ringErrcount p ring) 47 32) 1 ∧ MemoriesKept s t)

/-! ### Replies and the ends of commands -/

/-- R75, R77 and Table 2.13: posting a status takes the command out of the store whatever the form of its reply; a reply to the part's
own memory stands there whole, its header giving STATUS, OPCODE, BODY_LEN, CMD_SEQ, FRAME, RING, IGNORED, DETAIL and FAULT_REF, and no other
byte of memory changes; OK under QUIET writes nothing (R59).
Where the spec leaves a point open, it follows the model's own reading: log entries 5 and 36. -/
def Obligations.RepliesAreWritten : Prop :=
  (∀ s p c st d body fr ef, Ended ((postReply p c st d body fr ef).run s) p c) ∧
  (∀ s p c st d body fr ef, c.ring < 32 → (nbit c.flags 2 && st == stOk) = false → c.replyHost = false → c.replyPart = partId s →
    c.steward = false → replyAddrOk s false c.tenant c.replyAddr (32 + body.length) = true →
    let t := (postReply p c st d body fr ef).run s
    let r := replyBytes s p c st d fr body
    t.mem = Mem.writeBytes s.mem (unalias s c.replyAddr) r ∧
    Mem.readBytes t.mem (unalias s c.replyAddr) (32 + body.length) = r ∧
    (∀ a, a < unalias s c.replyAddr ∨ unalias s c.replyAddr + (32 + body.length) ≤ a → Mem.read t.mem a = Mem.read s.mem a) ∧
    leAt r 0 2 = st % 65536 ∧ leAt r 2 2 = c.opcode % 65536 ∧ leAt r 4 4 = body.length % 2 ^ 32 ∧ leAt r 8 8 = c.seq % 2 ^ 64 ∧
    leAt r 16 6 = frameNow s ∧ leAt r 22 1 = c.ring + 32 * p.val ∧ leAt r 23 1 = min c.ignored 255 ∧ leAt r 24 4 = d % 2 ^ 32 ∧
    leAt r 28 4 = fr % 2 ^ 32 ∧ r.drop 32 = body) ∧
  (∀ s p c fr ef, c.ring < 32 → nbit c.flags 2 = true → ((postReply p c stOk 0 [] fr ef).run s).mem = s.mem)

/-- NOP (R84) and IDENTIFY (R66, Table 2.10) post OK and change nothing else; IDENTIFY's body names the part, the partition, the Bell
period, the frame, the ring and the tenant. CANCEL (R67) of the oldest other command of its ring with that CMD_SEQ ends it with CONTEXT_RESET
and posts OK with DETAIL 1; with no such command it posts OK with DETAIL 0. COMMAND_TIMEOUT (R25) ends a command of frame f and timeout t
from Bell f + t + 1 on, and does nothing before. -/
def Obligations.PlainCommandsEndAndAreEnded : Prop :=
  ((∀ s p c, Held s p 0x0101 c → exec (.nop p c.ref) s = .next ((postReply p c stOk 0 []).run s)) ∧
   (∀ s p c, Held s p 0x0102 c → exec (.identify p c.ref) s = .next ((postReply p c stOk 0 (identifyBytes s p c)).run s)) ∧
   ∀ s p c, c.ring < 32 → (identifyBytes s p c).length = 32 ∧
     (identifyBytes s p c).take 8 = [0x56, 0x58, 0x38, 0x2D, 0x41, 0x32, 0x34, 0x4C] ∧
     leAt (identifyBytes s p c) 9 1 = p.val ∧ leAt (identifyBytes s p c) 10 3 = partId s ∧
     leAt (identifyBytes s p c) 14 2 = bellUs s ∧ leAt (identifyBytes s p c) 16 6 = frameNow s ∧
     leAt (identifyBytes s p c) 22 2 = c.ring ∧ leAt (identifyBytes s p c) 28 2 = c.tenant % 65536) ∧
  (∀ s p c d, Held s p 0x0103 c →
    (psys s p).cmds.find? (fun d => d.ring == c.ring && d.seq == par c 0 8 && d.ref != c.ref) = some d →
    ∃ t, exec (.cancel p c.ref) s = .next t ∧ Ended t p c ∧ (∀ x ∈ (psys t p).cmds, x.ref = d.ref → x.ring = 36) ∧
      ∃ r, t = (postPlain p c stOk 1).run ((endEarly p d stContextReset r).run s)) ∧
  (∀ s p c, Held s p 0x0103 c →
    (psys s p).cmds.find? (fun d => d.ring == c.ring && d.seq == par c 0 8 && d.ref != c.ref) = none →
    exec (.cancel p c.ref) s = .next ((postReply p c stOk 0 []).run s)) ∧
  (∀ s p c, Running s → cmdOf s p c.ref = some c → c.ring < 35 →
    if c.accFrame + c.timeout + 1 ≤ frameNow s then
      ∃ t, exec (.commandTimeout p c.ref) s = .next t ∧ (∀ x ∈ (psys t p).cmds, x.ref = c.ref → x.ring = 36) ∧
        t = (endEarly p c stTimeout (faultBase 0x01 1)).run s
    else exec (.commandTimeout p c.ref) s = .next s)

/-! ### Collections -/

/-- COLL_DEFINE, COLL_MAP, COLL_OPEN, COLL_TUNE, COLL_CLOSE, COLL_CLOSE_DONE, COLL_READ and SHARD_SET (R91 to R95, Table 3.2): a collection is
defined under the command's tenant with its descriptor; map entries and tunings of an open collection, and an opening, wait for the next
Bell; closing takes hold at once and the command stays until the last user has ended; then the ID is free and its shards are gone. A
record set becomes the shard's current one in a defined collection and its next shelf in an open one, where the shard is not held before
its swap Bell. -/
def Obligations.CollectionsAreDefinedServedAndClosed : Prop :=
  ((∀ s p c, Held s p 0x0201 c → collOf s (par c 0 2) = none → ∃ t, exec (.collDefine p c.ref) s = .next t ∧ Ended t p c ∧
     collOf t (par c 0 2) = some ⟨par c 0 2, c.tenant, c.params.take 32, none, [], [], 0, none⟩ ∧
     ∀ id, id ≠ par c 0 2 → collOf t id = collOf s id) ∧
   (∀ s p c x, Held s p 0x0202 c → collOf s (par c 0 2) = some x → ∃ t, exec (.collMap p c.ref) s = .next t ∧ Ended t p c ∧
     (∀ i, i < par c 4 2 → (collOf t (par c 0 2)).map (fun k => aget (if x.state = 1 then k.mapNext else k.map) (par c 2 2 + i))
       = some (some (BitVec.ofNat 64 (par c (8 + 8 * i) 8)))) ∧
     (x.state = 1 → (collOf t (par c 0 2)).map (·.map) = some x.map) ∧ ∀ id, id ≠ par c 0 2 → collOf t id = collOf s id) ∧
   (∀ s p c x, Held s p 0x0204 c → collOf s (par c 0 2) = some x → x.state = 0 → x.opening = none →
     ∃ t, exec (.collOpen p c.ref) s = .next t ∧ Ended t p c ∧
       collOf t (par c 0 2) = some { x with opening := some (frameNow s + 1) }) ∧
   (∀ s p c x, Held s p 0x0205 c → collOf s (par c 0 2) = some x → ∃ t, exec (.collTune p c.ref) s = .next t ∧ Ended t p c ∧
     (let new := x.desc.take 9 ++ (c.params.drop 9).take 15 ++ x.desc.drop 24
      collOf t (par c 0 2) = some (if x.state = 1 then { x with tuned := some new } else { x with desc := new }))) ∧
   (∀ s p c x, Held s p 0x0206 c → collOf s (par c 0 2) = some x → ∃ t, exec (.collClose p c.ref) s = .next t ∧
     collOf t (par c 0 2) = some { x with state := 2, opening := none, tuned := none, mapNext := [] } ∧
     cmdOf t p c.ref = some { c with phase := .running })) ∧
  (∀ s coll x, Running s → collOf s coll = some x → x.state = 2 → collUsed s coll = false →
    ∃ t, exec (.collCloseDone coll) s = .next t ∧ collOf t coll = none ∧ (∀ id, id ≠ coll → collOf t id = collOf s id) ∧
      ∀ p i, shardOf t p coll i = none) ∧
  (∀ s p c x, Held s p 0x0207 c → collOf s (par c 0 2) = some x →
    exec (.collRead p c.ref) s = .next ((postReply p c stOk 0 (padTo 32 x.desc ++ natLE 1 x.state ++ zeros 1 ++
      natLE 2 x.map.length ++ natLE 2 ((psys s p).shards.countP fun h => h.held && h.coll == x.id) ++ zeros 2)).run s)) ∧
  (∀ s p c x, Held s p 0x0203 c → collOf s (par c 0 2) = some x → x.state = 0 →
    ∃ t, exec (.shardSet p c.ref) s = .next t ∧ Ended t p c ∧
      shardOf t p (par c 0 2) (leAt (c.params.take 160) 2 2)
        = some (newShard (par c 0 2) (leAt (c.params.take 160) 2 2) (c.params.take 160)) ∧ t.sys.colls = s.sys.colls) ∧
  (∀ s p c x, Held s p 0x0203 c → collOf s (par c 0 2) = some x → x.state = 1 →
    let r := c.params.take 160
    ∃ t, exec (.shardSet p c.ref) s = .next t ∧ Ended t p c ∧ t.sys.colls = s.sys.colls ∧
      shardAny t p (par c 0 2) (leAt r 2 2) =
        some { (shardAny s p (par c 0 2) (leAt r 2 2)).getD { newShard (par c 0 2) (leAt r 2 2) [] with held := false } with
          next := some r
          setBy := some c.ref })


/-! ### Searches -/

/-- SEARCH, SEARCH_X and SEARCH_SHARD (R101, R119 to R125): the command's own walks begin, seeded with its entries or an entry set; it runs
while shares are out; once no walk of its own is left and every piece has reported it is ended, with the first failing status of its
pieces or with the merge of their lists and summaries.
Where the spec leaves a point open, it follows the model's own reading: log entries 68 and 105. -/
def Obligations.SearchesWalkTheirShards : Prop :=
  (∀ s p c, Held s p 0x0301 c → exec (.search p c.ref) s = .next ((searchRun p c).run s)) ∧
  (∀ s p c, Held s p 0x0302 c → exec (.searchX p c.ref) s = .next ((searchRun p c).run s)) ∧
  (∀ s p c, Held s p 0x0303 c → exec (.searchShard p c.ref) s = .next ((searchRun p c).run s)) ∧
  (∀ s p c, cmdOf s p c.ref = some c → (∀ w ∈ (psys s p).walks, w.ref ≠ c.ref) → c.pieces ≠ [] → allDone c = true →
    Ended ((searchRun p c).run s) p c) ∧
  (∀ s p op c, Held s p op c →
    ∀ i, i = Instr.search p c.ref ∧ op = 0x0301 ∨ i = Instr.searchX p c.ref ∧ op = 0x0302 ∨ i = Instr.searchShard p c.ref ∧ op = 0x0303 →
    let c' := { c with phase := .running }
    let lists := (c.pieces.filterMap (·.done)).map fun d => blockIn d.body
    (∀ w, ((psys s p).walks.filter fun w => w.ref == c.ref && w.state == .active && !w.started &&
        !(w.why == .search && drainPending s p w.coll w.shard)) = [w] → w.why = .search →
      exec i s = .next ((Upd.seq [walkAdvance p w.id, nowRunning p c.ref, searchCheck p c.ref]).run ((walkSeed p w.id).run s))) ∧
    ((∀ w ∈ (psys s p).walks, w.ref ≠ c.ref) → (c.pieces = [] ∨ allDone c = false) → ∃ t, exec i s = .next t ∧
      cmdOf t p c.ref = some c' ∧ MemoriesKept s t ∧ RegsKept s t (fun _ _ _ => False) ∧ (psys t p).walks = (psys s p).walks) ∧
    ((∀ w ∈ (psys s p).walks, w.ref ≠ c.ref) → c.pieces ≠ [] → allDone c = true →
      (∀ x, (c.search.partialOk && op != 0x0303) = false → worstPiece c = some x → ∃ u t, exec i s = .next t ∧ Ended t p c ∧ MemoriesKept s u ∧
        t = (postPieceStatus p c' x (c.pieces.countP fun y => y.done.map (·.status) == x.done.map (·.status))).run u) ∧
      (worstPiece c = none → (op = 0x0303 ∨ mergeable lists = true) →
        let merged := if op = 0x0303 then (lists.headD (blockIn []), FlagN.none)
          else mergeBlocks (opKey s.sys.free) (searchDir c.search) c.search.payload false false 0 c.search.k lists
        let sum := summarySum (frameNow s) c.admFrame 0 ((c.pieces.filterMap (·.done)).map fun d => summaryIn (d.body.drop (d.body.length - 32)))
        ∃ u, exec i s = .next ((postReply p c' (if merged.1.entries.length < searchK c.search op then stShort else stOk) 0
          (blockOut merged.1 ++ summaryOut sum)).run u) ∧ MemoriesKept s u))) ∧
  ∀ s p id w, walkOf s p id = some w → ∃ k, walkOf ((walkSeed p id).run s) p id = some k ∧ k.started = true ∧ k.state = w.state ∧
    k.expansions = w.expansions ∧ (w.seeds ≠ [] → k.layer = none ∧ k.compared = w.compared + w.seeds.length)

/-- The queue of a walk (R103, R104): an offer keeps it in order, without a node twice and within the beam; a node already there changes
nothing, and into a full queue a candidate comes only before the last. -/
def Obligations.CandidateQueuesKeepTheNearest : Prop :=
  ∀ beam q u d tomb, q.length ≤ beam → q.Pairwise (fun a b => candBefore a b = true) → (q.map (·.node)).Nodup →
    (offer beam q u d tomb).length ≤ beam ∧ (offer beam q u d tomb).Pairwise (fun a b => candBefore a b = true) ∧
    ((offer beam q u d tomb).map (·.node)).Nodup ∧ (u ∈ q.map (·.node) → offer beam q u d tomb = q) ∧
    (u ∉ q.map (·.node) → q.length < beam → ∀ x, x ∈ offer beam q u d tomb ↔ x = ⟨u, d, false, tomb⟩ ∨ x ∈ q) ∧
    ∀ w, u ∉ q.map (·.node) → q.length = beam → q.getLast? = some w →
      ∀ x, x ∈ offer beam q u d tomb ↔
        if candBefore ⟨u, d, false, tomb⟩ w = true then x = ⟨u, d, false, tomb⟩ ∨ x ∈ q ∧ x ≠ w else x ∈ q

/-- BATCH_WINDOW_EXPIRE (R110), STACK_COMPARE (R109, R358, R361) and CHANNEL_SIEVE_COMPARE (R397, R401): the pairs that wait for the row, the
stack, 32 to a request and class 0 before the others, or the channel, in its turn, are compared; a pair compared leaves its expansion, joins its results and counts.
Where the spec leaves a point open, it follows the model's own reading: log entries 137 and 141. -/
def Obligations.ComparisonsJoinTheirFlight : Prop :=
  (∀ s p unit, Running s → exec (.batchWindowExpire p unit) s = .next ((Upd.each (psys s p).walks fun w => .each w.flight fun e =>
    compareFlight p w.id e.no (fun w u => readUnit w e.node u == unit) 64).run s)) ∧
  (∀ s p walk node w e, Running s → walkOf s p walk = some w → flightOf w node = some e →
    (∀ k : Fin 24, exec (.stackCompare k p walk node) s =
      .next ((compareFlight p walk e.no (fun w u => siteOf s w node u == .stack k.val) 32).run s)) ∧
    ∀ ch : Fin 32, exec (.channelSieveCompare ch p walk node) s =
      .next ((compareFlight p walk e.no (fun w u => siteOf s w node u == .channel ch.val) 64).run s)) ∧
  (∀ s p id no test n w e, walkOf s p id = some w → w.flight.find? (·.no == no) = some e → readTurn s p w e = false →
    (compareFlight p id no test n).run s = s) ∧
  (∀ s p w e u k, siteOf s w e.node u = .stack k → w.batchWin = 0 →
    (∃ x ∈ grantAsks s p k, x.1.1 < w.cls ∧ x.2 = codeAddr w.rcdNow w.codeBytes u / 1024 % 64) → grantTurn s p w e u = false) ∧
  (∀ s p id no test n w e, walkOf s p id = some w → w.flight.find? (·.no == no) = some e → readTurn s p w e = true → e.pages = 0 →
    (∀ x ∈ e.pend, test w x.1 = true → grantTurn s p w e x.1 = false) →
    (compareFlight p id no test n).run s = (placeWaiting p).run s) ∧
  (∀ s p id no test n w e, walkOf s p id = some w → w.flight.find? (·.no == no) = some e → shaperTokens s p w.cls = some 0 →
    (e.pages ≠ 0 → (compareFlight p id no test n).run s = s) ∧ (placeLists p id no).run s = s) ∧
  ∀ s p id no test n w e x d tomb, walkOf s p id = some w → w.flight.find? (·.no == no) = some e → readTurn s p w e = true → e.pages = 0 →
    (e.pend.filter fun x => test w x.1 && e.placed s w x.1 && grantTurn s p w e x.1) = [x] → 1 ≤ n →
    comparePair s w.tenant w.rcdNow w.degree w.codeBytes w.query e.node x.1 x.2.1 x.2.2 = .ok d tomb →
    let t := (compareFlight p id no test n).run s
    ∃ k f, walkOf t p id = some k ∧ k.compared = w.compared + 1 ∧ k.queue = w.queue ∧ k.flight.map (·.no) = w.flight.map (·.no) ∧
      k.flight.find? (·.no == no) = some f ∧ f.node = e.node ∧ f.pend = e.pend.filter (· != x) ∧
      f.results = e.results ++ [(x.1, d, tomb)] ∧ MemoriesKept s t

/-- EXPANSION_RETURN and WALK_FRAME_LIMIT (R103, R107, R108): results are offered in order and the flight is over; a walk whose frames have
passed stops with reason 2, what is in flight is discarded, and its entries go to refine or to the Sorter; before that frame nothing
happens.
Where the spec leaves a point open, it follows the model's own reading: log entry 91. -/
def Obligations.WalksReturnAndEnd : Prop :=
  (∀ s p id node w e, Running s → walkOf s p id = some w → w.state = .active → flightOf w node = some e →
    w.flight.find? (·.no == e.no) = some e → e.pend = [] → e.pages = 0 →
    ∃ u k, exec (.expansionReturn p id node) s = .next ((walkAdvance p id).run u) ∧ walkOf u p id = some k ∧
      k.queue = e.results.foldl (fun q x => offer w.beamNow q x.1 x.2.1 x.2.2) w.queue ∧
      k.flight.map (·.no) = (w.flight.filter (·.no != e.no)).map (·.no) ∧ MemoriesKept s u) ∧
  (∀ s p id w, Running s → walkOf s p id = some w → w.maxFrames ≠ 0 → (w.state = .active ∨ w.state = .parked) → w.started = true →
    w.layer = none → w.why = .search → w.admFrame + w.maxFrames ≤ frameNow s →
    (w.refine = true ∨ (w.queue.filter (!·.transit)) ≠ []) →
    ∃ t, exec (.walkFrameLimit p id) s = .next t ∧
      walkOf t p id = some { w with stop := 2, flight := [], state := .finishing } ∧
      (if w.refine = true then (psys t p).sels = (psys s p).sels else
        ∃ row, row.map (·.node) = (w.queue.filter (!·.transit)).map (·.node) ∧
          (psys t p).sels.map (fun x => { x with placed := [] }) = (psys s p).sels.map (fun x => { x with placed := [] }) ++
            [⟨w.id, w.id, w.cls, walkDir w, w.k, w.payload, row, [], false, []⟩])) ∧
  ∀ s p id w, Running s → walkOf s p id = some w → frameNow s < w.admFrame + w.maxFrames →
    exec (.walkFrameLimit p id) s = .next s

/-- REFINE_GATHER and SORTER_BLOCK (R116, R117, R166, R167, R286): gathered refine work counts its weight sets, and a finishing walk's refined
entries become its row in the Sorter; a block of the row goes from the scan-result queue into the selection's register, and the row's
last block gives the walk's result; with no block on the queue or no register free it waits.
Where the spec leaves a point open, it follows the model's own reading: log entry 63. -/
def Obligations.RowsAreRefinedAndSelected : Prop :=
  (∀ s p walks, Running s → ∃ u, exec (.refineGather p walks) s = .next ((Upd.each walks (refineWalk p)).run u) ∧ MemoriesKept s u ∧
    RegsKept s u (fun r q _ => r = .millFront ∧ q = p) ∧ (∀ q, psys u q = psys s q) ∧
    ((∀ w ∈ (psys s p).walks, walks.contains w.id = true → refineDue (psys s p) w = false) → u = s)) ∧
  (∀ s p id w, walkOf s p id = some w → w.refine = true → w.state = .finishing → w.why = .search →
    (psys s p).sels.any (·.walk == id) = false →
    let n := refineBytesOf w
    let cands := (w.queue.filter (!·.transit)).take w.refineDepth
    let good := cands.filter fun c => (poisonIn s (refineAddr w.rcd n c.node) n).isNone
    good ≠ [] → (∀ c ∈ good, cellHolds s w.tenant (unalias s (refineAddr w.rcd n c.node)) = true) →
    ∃ row, row.map (·.node) = good.map (·.node) ∧
      (psys ((refineWalk p id).run s) p).sels.map (fun x => { x with placed := [] }) = (psys s p).sels.map (fun x => { x with placed := [] }) ++
        [⟨w.id, w.id, w.cls, walkDir w, w.k, w.payload, row, [], false, []⟩]) ∧
  ∀ s p sel x block, Running s → selOf s p sel = some x → block ≠ [] → block.length ≤ 32 →
    (registerFree (psys s p) x = false ∨ x.placed = [] → exec (.sorterBlock p sel block) s = .next s) ∧
    ∀ rest, registerFree (psys s p) x = true → x.placed ≠ [] → takeOut x.row block = some rest →
      (rest ≠ [] → ∃ t, exec (.sorterBlock p sel block) s = .next t ∧ MemoriesKept s t ∧ RegsKept s t (fun _ _ _ => False) ∧
        (selOf t p sel).map (fun z => { z with placed := [] }) =
          some { x with row := rest, seen := x.seen ++ block, held := true, placed := [] }) ∧
      ∀ w, rest = [] → walkOf s p x.walk = some w →
        exec (.sorterBlock p sel block) s = .next ((Upd.part p placeBlocks).run ((walkResult p w (x.seen ++ block)).run s))

/-- FANOUT_REPLY (R601, R79), SHARE_DEADLINE (R123) and PARTIAL_OK_DEADLINE (R125): a write of another part into a share's reply slots lands,
and the one that covers STATUS completes the share; a write no share awaits is discarded and counted. A share of any kind whose DEADLINE
has come ends with TIMEOUT, and a search with PARTIAL_OK posts with what has reported.
Where the spec leaves a point open, it follows the model's own reading: log entries 67 and 91. -/
def Obligations.SharesReturn : Prop :=
  (∀ s fromPart (q p : Fin 4) record offset data c x x' d, Running s → fromPart ≠ partId s →
    pieceAt (psys s p) fromPart q.val record offset data.length = some (c, x) →
    landReply x (record * 0x20000 + offset - (x.record * 0x20000 + x.slot * 8192)) data = (x', d, false) →
    ∃ u, exec (.fanoutReply fromPart q p record offset data) s = .next ((Upd.when d.isSome (shareLanded p c.ref)).run u) ∧
      MemoriesKept s u ∧ RegsKept s u (fun _ _ _ => False) ∧
      cmdOf u p c.ref = (cmdOf s p c.ref).map fun c => { c with pieces := c.pieces.map fun y =>
        if y.unit = x.unit then { y with area := x'.area, done := d } else y }) ∧
  (∀ s fromPart (q p : Fin 4) record offset data, Running s → fromPart ≠ partId s →
    pieceAt (psys s p) fromPart q.val record offset data.length = none →
    ∃ t, exec (.fanoutReply fromPart q p record offset data) s = .next t ∧ (psys t p).discarded = (psys s p).discarded + 1 ∧
      MemoriesKept s t ∧ RegsKept s t (fun _ _ _ => False) ∧ (psys t p).cmds = (psys s p).cmds) ∧
  (∀ s p c, Running s → cmdOf s p c.ref = some c →
    if (c.opcode = 0x0303 ∨ c.opcode = 0x0404 ∨ c.opcode = 0x0606) ∧ deadlineOf c ≤ frameNow s then
      ∃ t, exec (.shareDeadline p c.ref) s = .next t ∧ Ended t p c ∧ t = (endEarly p c stTimeout (faultBase 0x01 1)).run s
    else exec (.shareDeadline p c.ref) s = .next s) ∧
  ∀ s p c, Running s → cmdOf s p c.ref = some c →
    if partialDue s c = true then
      ∃ t, exec (.partialOkDeadline p c.ref) s = .next t ∧ Ended t p c ∧ t = (Upd.seq [dropWalks p c.ref, searchPost p c.ref]).run s
    else exec (.partialOkDeadline p c.ref) s = .next s


/-! ### Updates and the upkeep of shards -/

/-- INSERT, DELETE, REPLACE and UPDATE_SHARD (R131 to R133, R137, R140, R148): the command's shares homed here are staged and its walks
begin; with no walk and no unstaged share left, once every piece has reported, the command is ended. An entry with USN 0 is compared
under a USN above those of the entries with USN 0 staged before it; a share whose last entry is staged has its edges judged.
Where the spec leaves a point open, it follows the model's own reading: log entries 63 and 70. -/
def Obligations.UpdatesStageTheirShares : Prop :=
  (∀ s p c, Held s p 0x0401 c → exec (.insert p c.ref) s = .next ((updRun p c).run s)) ∧
  (∀ s p c, Held s p 0x0402 c → exec (.delete p c.ref) s = .next ((updRun p c).run s)) ∧
  (∀ s p c, Held s p 0x0403 c → exec (.replace p c.ref) s = .next ((updRun p c).run s)) ∧
  (∀ s p c, Held s p 0x0404 c → exec (.updateShard p c.ref) s = .next ((updRun p c).run s)) ∧
  (∀ s p c, cmdOf s p c.ref = some c → (∀ w ∈ (psys s p).walks, w.ref ≠ c.ref) →
    (∀ x ∈ (psys s p).shares, x.ref = c.ref → x.entries.all (·.ready) = true) → allDone c = true →
    Ended ((updRun p c).run s) p c) ∧
  (∀ s p x, (x.kind ≠ .drained → frameNow s * 65536 + (psys s p).committedN ≤ stagingUsn s p x) ∧
    ∀ z ∈ (psys s p).shares, z.usn = 0 → (z.kind = .drained ↔ x.kind = .drained) → ∀ e ∈ z.entries,
      e.ready = true → e.status = stOk → e.usn < stagingUsn s p x) ∧
  ∀ s p ref coll shard i h x e, shardOf s p coll shard = some h → shareOf s p ref coll shard = some x → x.entries[i]? = some e →
    e.ready = false →
    let g := graphOf s h h.shelf
    let usn := if x.usn = 0 then stagingUsn s p x else x.usn
    let st := targetStatus s p g x i e usn
    let es := if st = stOk then targetEdits x e (g.tag s p e.node).tomb usn else []
    let t := (targetStage p ref coll shard i).run s
    MemoriesKept s t ∧
    (shareOf t p ref coll shard).map (fun x => (x.entries[i]?).map fun e => (e.status, e.ready, e.usn)) = some (some (st, true, usn)) ∧
    (∀ j e', j ≠ i → x.entries[j]? = some e' → e'.ready = false →
      (psys t p).stage = (psys s p).stage ++ es.map (fun y => ⟨g.coll, g.shard, g.shelf, y.1, y.2, ref, none⟩) ∧
      (shareOf t p ref coll shard).map (·.entries[i]?) = some (some { e with status := st, ready := true, edits := es, usn := usn })) ∧
    ((∀ j e', j ≠ i → x.entries[j]? = some e' → e'.ready = true) → (shareOf t p ref coll shard).map (·.judged) = some true)

/-- SHARE_COMMIT (R129, R134, R135, R161, R527): a share whose staging has ended, within the 4,096 entries of a frame, leaves the staged
shares with one commit frame for all it wrote, its entries with USN 0 get USNs from that frame and the count before them, and its
entries count; one that the Daybook has no space for leaves with nothing committed; one that is not ready, or that the frame has no room
for, waits. A drained share does not count against the frame.
Where the spec leaves a point open, it follows the model's own reading: log entry 41. -/
def Obligations.SharesCommitWhole : Prop :=
  (∀ s p ref shard x h, Running s → (psys s p).shares.find? (fun x => x.ref == ref && x.shard == shard && x.judged) = some x →
    shardOf s p x.coll shard = some h →
    let g := graphOf s h h.shelf
    let n := if x.kind = .drained then (aget (psys s p).pastN x.dayCommit).getD 0 else (psys s p).committedN
    let commit := if x.kind = .drained then x.dayCommit else frameNow s
    let y := { x with entries := commitEntries s g x commit n }
    let took := x.entries.countP (·.status == stOk)
    let logs := x.kind ≠ .daybook ∧ took ≠ 0
    let room := dayFits s p (dayLen (shareRecord s p y commit (y.entries.map (entryResult shard commit)).flatten))
    (x.kind ≠ .drained → 4096 < x.entries.length + (psys s p).committedN → exec (.shareCommit p ref shard) s = .next s) ∧
    ((x.kind = .drained ∨ x.entries.length + (psys s p).committedN ≤ 4096) →
      (logs ∧ room = false → ∃ t, exec (.shareCommit p ref shard) s = .next t ∧ shareOf t p ref x.coll shard = none ∧
        (psys t p).committedN = (psys s p).committedN ∧ ∀ z ∈ (psys t p).stage, z ∈ (psys s p).stage ∧
          (z.ref = ref → z.coll = x.coll → z.shard = shard → z.commit ≠ none)) ∧
      (¬ (logs ∧ room = false) → ∃ t, exec (.shareCommit p ref shard) s = .next t ∧ shareOf t p ref x.coll shard = none ∧
        (∀ z ∈ (psys t p).stage, z.ref = ref → z.coll = x.coll → z.shard = shard → z.commit ≠ none) ∧
        (psys t p).committedN = (psys s p).committedN + (if x.kind = .drained then 0 else took)))) ∧
  (∀ s g x commit n i e, x.entries[i]? = some e → ∃ y, (commitEntries s g x commit n)[i]? = some y ∧ y.status = e.status ∧ y.node = e.node ∧
    y.usn = if x.usn = 0 then commit * 65536 + (n + (x.entries.take i).countP (·.status == stOk)) % 65536 else x.usn) ∧
  ∀ s p ref shard, Running s → (∀ x ∈ (psys s p).shares, x.ref = ref → x.shard = shard → x.judged = false) →
    exec (.shareCommit p ref shard) s = .next s

/-- COMMIT_READ (R165) and NODE_READ (R156): the results a committed command left in the journal, and a node's tag, shelf, shelf state and
header as they are visible now.
Where the spec leaves a point open, it follows the model's own reading: log entry 70. -/
def Obligations.CommitsAndNodesAreRead : Prop :=
  (∀ s p c, Held s p 0x040B c → exec (.commitRead p c.ref) s = .next ((match journalOf s p c.ring (par c 0 8) with
    | some j => postReply p c stOk 1 j.results
    | none => postReply p c stOk 0 []).run s)) ∧
  ∀ s p c h, Held s p 0x0409 c → shardOf s p (par c 0 2) (wordShard (par c 8 8)) = some h →
    let g := graphOf s h h.shelf
    let u := wordNode (par c 8 8)
    let na := nodeAddr g.rcd g.deg g.codeBytes u
    let ta := tagAddr g.rcd g.codeBytes u
    (poisonIn s na 32 = none → poisonIn s ta 2 = none →
      exec (.nodeRead p c.ref) s = .next ((postReply p c stOk 0 (memBytes s ta 2 ++ natLE 1 h.shelf ++ natLE 1 (shelfCode h.shelfState) ++
        zeros 4 ++ memBytes s na 32 ++ natLE 6 (frameNow s) ++ zeros 2)).run ((chargeRead s c.tenant na 32).run s))) ∧
    ∀ l, ((poisonIn s na 32).orElse fun _ => poisonIn s ta 2) = some l → ∃ u t, exec (.nodeRead p c.ref) s = .next t ∧ t = (postReply p c stPoisoned 0 []).run u ∧
      MemoriesKept s u ∧ (psys u p).faults.records.head?.map (·.cause) = some 0x0C

/-- COMPACT (R141, R142), REPAIR_CTL (Table 4.11), REPAIR_ENTRY (R145), REPAIR_SWEEP (R146) and FREE_LIST_SCAN (R143): of the slots scanned, those
whose tag reads not LIVE without poison join the free list; memory stays.
Where the spec leaves a point open, it follows the model's own reading: log entry 72. -/
def Obligations.ShardsAreRepairedAndScanned : Prop :=
  ((∀ s p c h, Held s p 0x0405 c → namedShard s p c = some h → h.shelfState = .none →
     let el := eligible s p h
     let m := min (4096 - (psys s p).committedN) (min (par c 8 8 - c.aux) el.length)
     ∃ t, exec (.compact p c.ref) s = .next t ∧ (psys t p).committedN ≤ (psys s p).committedN + m ∧
       if c.aux + m = par c 8 8 ∨ m = el.length then Ended t p c else cmdOf t p c.ref = some { c with aux := c.aux + m }) ∧
   (∀ s p c h, Held s p 0x0405 c → namedShard s p c = some h → eligible s p h = [] → ∃ u,
     exec (.compact p c.ref) s = .next ((postReply p c stOk 0 (natLE 8 c.aux ++ natLE 8 0) 0 (if c.aux = 0 then 0 else frameNow s + 1)).run u) ∧
       MemoriesKept s u ∧ (psys u p).stage = (psys s p).stage) ∧
   (∀ s p c h, Held s p 0x040A c → namedShard s p c = some h →
     ∃ t, exec (.repairCtl p c.ref) s = .next t ∧ Ended t p c ∧
       shardOf t p h.coll h.idx = some { h with rate := if par c 4 1 = 1 then par c 8 2 else h.rate }) ∧
   (∀ s p coll shard layer v u g rest h gr, Running s → (psys s p).repair = .stale coll shard layer v u g :: rest →
     shardOf s p coll shard = some h → repairGraph s h layer = some gr →
     (repairRoom s p = 0 → exec (.repairEntry p) s = .next s) ∧
     (repairRoom s p ≠ 0 → ∃ w t, exec (.repairEntry p) s = .next t ∧ (psys t p).repair = rest ∧ (psys w p).repair = rest ∧
       t = (Upd.when (inShard gr.rcd v) (commitEdits p gr 0 1 [(v, .remove u g)])).run w)) ∧
   (∀ s p coll shard layer node rest h x gr slots, Running s → (psys s p).repair = .relink coll shard layer node :: rest →
     shardOf s p coll shard = some h → collOf s coll = some x → repairGraph s h layer = some gr → rPlacement gr.rcd ≠ 1 →
     (tagOf s gr.rcd gr.codeBytes node).live = true → (tagOf s gr.rcd gr.codeBytes node).tomb = false →
     takeSlots s p x.tenant (slotsFor (dBeam x.desc) (dCodeBytes x.desc)) = some slots →
     ∃ t, exec (.repairEntry p) s = .next t ∧ (psys t p).repair = rest ∧
       (psys t p).walks.map (·.why) = (psys s p).walks.map (·.why) ++ [.relink node]) ∧
   (∀ s p coll shard h, Running s → shardOf s p coll shard = some h → exec (.repairSweep p coll shard) s =
     .next (if rPlacement h.cur = 1 then s else (sweepMany p coll shard (h.rate - (psys s p).swept)).run s)) ∧
   ∀ s p coll shard h, shardOf s p coll shard = some h →
     (repairRoom s p = 0 → (sweepOne p coll shard).run s = s) ∧
     (repairRoom s p ≠ 0 → ∃ k, shardOf ((sweepOne p coll shard).run s) p coll shard = some k ∧
       (psys ((sweepOne p coll shard).run s) p).swept = (psys s p).swept + 1 ∧ (k.sweepPos, k.sweeps) =
       if h.sweepPos + 1 < rCap h.cur then (h.sweepPos + 1, h.sweeps) else (0, (h.sweeps + 1) % 2 ^ 32))) ∧
  ∀ s p coll shard n h, Running s → shardOf s p coll shard = some h →
    ∃ t k, exec (.freeListScan p coll shard n) s = .next t ∧ MemoriesKept s t ∧ shardOf t p coll shard = some k ∧
      k.scanPos = h.scanPos + min n (rCap h.cur - h.scanPos) ∧ k.cur = h.cur ∧
      ∀ x, x ∈ k.free ↔ x ∈ h.free ∨
        (h.scanPos ≤ x ∧ x < h.scanPos + min n (rCap h.cur - h.scanPos) ∧
          (let g := graphOf s h h.shelf
           poisonIn s (tagAddr g.rcd g.codeBytes (rBase g.rcd + x)) 2 = none ∧ (tagOf s g.rcd g.codeBytes (rBase g.rcd + x)).live = false))

/-- SHELF_BUILD, SHELF_COPY_DONE, SHELF_REPLAY, SHELF_SWAP and SHELF_RETIRE (R151, R153, R155, R157, R158): a build takes deltas from the next
Bell on; a copy goes on slot by slot while the queues and the class-3 tokens let it, and one that ends lets the replay begin; with no
delta left the shelves are mirrored; the acceptance of a swap of a MODE 0 build starts the replay, and the swap waits, or ends with
BAD_PARAM where its build was aborted; a retiring shelf that no walk is on is given up, which ends the swaps that waited for it. -/
def Obligations.ShelvesAreBuiltAndSwapped : Prop :=
  (∀ s p c h, Held s p 0x0406 c → shardAny s p (par c 0 2) (par c 2 2) = some h →
    ∃ t, exec (.shelfBuild p c.ref) s = .next t ∧ Ended t p c ∧ shardAny t p (par c 0 2) (par c 2 2) =
      some { h with shelfState := .building, startFrame := frameNow s + 1, mode := par c 4 1, copyPos := 0, copied := false, delta := [] }) ∧
  (∀ s p coll shard h x r, Running s → shardAny s p coll shard = some h → collOf s coll = some x → h.next = some r →
    h.shelfState = .building → h.mode = 1 → h.startFrame ≤ frameNow s → rPlacement r ≠ 1 →
    (rCap r ≤ h.copyPos → ∃ t, exec (.shelfCopyDone p coll shard) s = .next t ∧ t.cellar = s.cellar ∧ t.win = s.win ∧
      shardAny t p coll shard = some { h with copied := true, shelfState := if h.delta = [] then .mirrored else .replaying }) ∧
    (h.copyPos < rCap r → shelfMay s p = false → exec (.shelfCopyDone p coll shard) s = .next s) ∧
    (h.copyPos < rCap r → shelfMay s p = true → ∀ n, ∃ u, (copySlots p coll shard n 1).run s = u ∧
      shardAny u p coll shard = some { h with copyPos := h.copyPos + 1 } ∧ u.cellar = s.cellar ∧ u.win = s.win)) ∧
  (∀ s p coll shard n h r, Running s → shardAny s p coll shard = some h → h.shelfState = .replaying → h.next = some r →
    exec (.shelfReplay p coll shard n) s =
      .next ((mirrorIfEmpty p coll shard).run ((replayMany p coll shard (min n 1048576)).run s)) ∧
    (h.delta = [] → ∃ t, exec (.shelfReplay p coll shard n) s = .next t ∧ MemoriesKept s t ∧
      shardAny t p coll shard = some { h with shelfState := .mirrored }) ∧
    (shardAny ((replayOne p coll shard).run s) p coll shard = some { h with delta := h.delta.drop 1 })) ∧
  (∀ s p c h, Held s p 0x0407 c → namedShelf s p c = some h →
    (h.shelfState = .aborted → exec (.shelfSwap p c.ref) s = .next ((postReply p c stBadParam 66 []).run s)) ∧
    (h.shelfState ≠ .aborted → ∃ t, exec (.shelfSwap p c.ref) s = .next t ∧ MemoriesKept s t ∧ RegsKept s t (fun _ _ _ => False) ∧
      cmdOf t p c.ref = some { c with phase := .running } ∧ (psys t p).shards = (psys s p).shards)) ∧
  (∀ s p c h, shardAny s p (par c 0 2) (par c 2 2) = some h →
    let st := if h.shelfState = .building ∧ h.mode = 0 then .replaying else h.shelfState
    shardAny ((swapAccept p c).run s) p (par c 0 2) (par c 2 2) =
      some { h with shelfState := if st = .replaying ∧ h.delta = [] ∧ h.next.isSome then .mirrored else st }) ∧
  ∀ s p coll shard h, Running s → shardOf s p coll shard = some h → h.shelfState = .retiring →
    (∀ w ∈ (psys s p).walks, w.coll = coll → w.shard = shard → w.shelf % 2 = h.shelf) →
    ∃ t, exec (.shelfRetire p coll shard) s = .next t ∧ shardOf t p coll shard = some { h with shelfState := .none, old := none } ∧
      ∀ x ∈ swapsOf s p h true, Ended t p x

/-- MIGRATE, REJOIN, MIGRATE_CHECK, MIGRATE_CUTOVER and MIGRATE_RELEASE (Table 4.13, R159, R161 to R163, R531, R532).
Where the spec leaves a point open, it follows the model's own reading: log entries 54 and 55. -/
def Obligations.UnitsMigrate : Prop :=
  (∀ s p c, Held s p 0x0408 c → ∃ t, exec (.migrate p c.ref) s = .next t ∧ (psys t p).migs = (psys s p).migs ++ [migFrom c] ∧
    MemoriesKept s t ∧ t.sys.bind.keeping.length = s.sys.bind.keeping.length + 1) ∧
  (∀ s p c, Held s p 0x0908 c → ∃ t, exec (.rejoin p c.ref) s = .next t ∧ (psys t p).migs = (psys s p).migs ++ [migFrom c] ∧
    MemoriesKept s t ∧ t.sys.bind.keeping.length = s.sys.bind.keeping.length + 1) ∧
  (∀ s p ref m ready, Running s → migAt s p ref = some m → m.checked = false → m.cut ≤ frameNow s + 2 →
    ∃ t, exec (.migrateCheck p ref ready) s = .next t ∧
      (let acked := match migKeep s p ref with | some k => k.audience.all (k.acks.contains ·) | none => true
       if (ready && homeReady s m && acked) = true then
         ∃ k, migAt t p ref = some k ∧ k.checked = true ∧ k.unacked = [] ∧ k.cut = m.cut ∧ k.cutDone = false
       else if m.moves < 8 then migAt t p ref = some { m with moves := m.moves + 1, cut := m.cut + 1 }
       else migAt t p ref = none ∧ cmdOf t p ref = none)) ∧
  (∀ s p ref m up, Running s → migAt s p ref = some m → m.checked = true → m.cutDone = false → m.cut ≤ frameNow s →
    ∃ t, exec (.migrateCutover p ref up) s = .next t ∧
      if up = true then ∃ k, migAt t p ref = some k ∧ k.cutDone = true else migAt t p ref = none ∧ cmdOf t p ref = none) ∧
  (∀ s p ref m, Running s → migAt s p ref = some m → m.cutDone = true → parkedOpen s p m = true →
    exec (.migrateRelease p ref) s = .next s) ∧
  (∀ s p ref m, Running s → migAt s p ref = some m → m.cutDone = true → m.cut + 2 ≤ frameNow s → parkedOpen s p m = false →
    ∃ t, exec (.migrateRelease p ref) s = .next t ∧ migAt t p ref = none ∧ cmdOf t p ref = none ∧
      (m.kind = 0 → m.rejoin = false → shardOf t p m.id m.shard = none)) ∧
  ∀ s p ref m, Running s → migAt s p ref = some m →
    (frameNow s + 2 < m.cut → ∀ ready, exec (.migrateCheck p ref ready) s = .next s) ∧
    (frameNow s < m.cut → ∀ up, exec (.migrateCutover p ref up) s = .next s) ∧
    (frameNow s < m.cut + 2 → exec (.migrateRelease p ref) s = .next s)

/-- DAYBOOK_APPEND, DAYBOOK_PROGRAM and DAYBOOK_INFO (R524 to R526, R528): a partner logs the record and answers when it is durable; a
program makes every record durable through the last frame and answers those; INFO gives the role and the durable frame.
Where the spec leaves a point open, it follows the model's own reading: log entry 41. -/
def Obligations.DaybookKeepsRecords : Prop :=
  (∀ s p c, Held s p 0x0906 c → dayLen (dayIn c.params) ≤ dayCapacity →
    ∃ t, exec (.daybookAppend p c.ref) s = .next t ∧
      cmdOf t p c.ref = some { c with phase := .running, aux := (psys s p).faults.nextLsn } ∧
      (psys t p).faults.nextLsn = (psys s p).faults.nextLsn + 1 ∧
      (psys t p).faults.day.head? = some { dayIn c.params with lsn := (psys s p).faults.nextLsn }) ∧
  (∀ s p, Running s → ∃ t, exec (.daybookProgram p) s = .next t ∧
    (psys t p).faults.day = (psys s p).faults.day.map (fun r => { r with durable := r.durable || decide (r.commit < frameNow s) }) ∧
    fld (rd t .daybookStatus p) 47 0 = frameNow s - 1 ∧
    ∀ x ∈ (psys s p).cmds, x.opcode = 0x0906 → x.ring ≠ 35 → x.phase = .running →
      (∀ r ∈ (psys s p).faults.day, r.lsn = x.aux → r.commit < frameNow s) → Ended t p x) ∧
  ∀ s p c, Held s p 0x0907 c → ∃ b u, exec (.daybookInfo p c.ref) s = .next ((postReply p c stOk 0 b).run u) ∧
    MemoriesKept s u ∧ RegsKept s u (fun _ _ _ => False) ∧
    byteAt b 0 = dayRole s p (par c 0 2) (par c 2 2) ∧ leAt b 8 6 = fld (rd s .daybookStatus p) 47 0 ∧ b.length = 32


/-! ### Tensor programs -/

/-- PROG_LOAD, PROG_UNLOAD, PROG_UNLOAD_DONE, PROG_INFO (R272 to R274, R276, Table 8.8), PROG_RUN and PREFETCH_STREAM (R270, R271, R275): a sound
image the tenant may read is loaded under an unused handle on at least MIN_MILLS of the tenant's Mills; an unload waits until the object's
last run has posted, then the handle is free; a run context is taken with the command's rows and bindings and its streams built, and its
first operation stands in the queues of its Mills where they have room; a stream on one of the prefetchers moves no more bytes than its
rings hold free, as memory holds them, an input only for the operation that runs, and the feeder consumes only while its operation runs.
A run's store leaves its own bytes except where another run of its object in flight with it has written (R280).
Where the spec leaves a point open, it follows the model's own reading: log entries 63, 76 and 129. -/
def Obligations.ProgramsAreLoadedAndRun : Prop :=
  ((∀ s p c, Held s p 0x0501 c →
     let img := memBytes s (par c 0 8) (par c 8 8)
     let mine := unitsBound s 1 p c.tenant
     (∀ x ∈ objReads img (par c 0 8), rangeFail s p c.tenant false x = none ∧ cohHeld s x.1 x.2 false = []) →
     (psys s p).mill.objs.length < 1024 →
     (objIn img (par c 8 8) mine.length 0 c.tenant (par c 0 8) []).isSome = true →
     ∃ t o placed, exec (.progLoad p c.ref) s = .next t ∧ Ended t p c ∧ (psys t p).mill.objs = (psys s p).mill.objs ++ [o] ∧
       objIn img (par c 8 8) mine.length o.handle c.tenant (par c 0 8) placed = some o ∧ objOf s p o.handle = none ∧
       leAt img 56 2 ≤ placed.length ∧ ∀ m ∈ placed, m ∈ mine) ∧
   (∀ s p c, Held s p 0x0502 c → objMine s p c = true → ∃ t, exec (.progUnload p c.ref) s = .next t ∧ MemoriesKept s t ∧
     cmdOf t p c.ref = some { c with phase := .running } ∧
     objOf t p (par c 0 2) = (objOf s p (par c 0 2)).map fun o => { o with unloading := true }) ∧
   (∀ s p h o, Running s → objOf s p h = some o → o.unloading = true →
     if objBusy s p h = true then exec (.progUnloadDone p h) s = .next s
     else ∃ t, exec (.progUnloadDone p h) s = .next t ∧ objOf t p h = none ∧
       ∀ x ∈ (psys s p).cmds, x.opcode = 0x0502 → par x 0 2 = h → x.phase = .running → Ended t p x) ∧
   ∀ s p c o, Held s p 0x0504 c → objOf s p (par c 0 2) = some o → o.tenant = c.tenant →
     exec (.progInfo p c.ref) s = .next ((postReply p c stOk 0 (natLE 2 o.mills.length ++ natLE 2 o.ops.length ++
       natLE 2 o.tensors.length ++ natLE 2 ((psys s p).mill.runs.countP (·.handle == o.handle)) ++ natLE 4 o.window ++
       natLE 1 o.unloading.toNat ++ zeros 3)).run s)) ∧
  (∀ s p c o, Held s p 0x0503 c → objOf s p (par c 0 2) = some o → ∃ t r, exec (.progRun p c.ref) s = .next t ∧ MemoriesKept s t ∧
    RegsKept s t (fun _ _ _ => False) ∧ cmdOf t p c.ref = some { c with phase := .running } ∧
    (psys t p).mill.runs = (psys s p).mill.runs ++ [r] ∧
    (psys t p).mill.streams = (psys s p).mill.streams ++ runStreams (opKey s.sys.free) o r ∧
    r.id = c.ref ∧ r.handle = o.handle ∧ r.tenant = c.tenant ∧ r.rows = par c 4 4 ∧ r.binds = runBinds c ∧ r.op = 0 ∧ r.words = [] ∧
    r.thresh = c.thresh ∧ r.wrote = [] ∧
    ((o.ops[0]?).any (·.onQueue) = true → (psys s p).mill.accepts o c.ref = true → (psys s p).mill.units.length = 48 →
      ∀ i ∈ o.mills, ((psys t p).mill.unit i).queue.contains c.ref = true)) ∧
  (∀ s p id n y r o tn, Running s → (psys s p).mill.streams.find? (·.id == id) = some y → runOf s p y.run = some r →
    objOf s p r.handle = some o → o.tensor y.tensor = some tn →
    (tn.role ≠ 0 → r.op ≠ y.op ∨ r.waiting ≠ none → exec (.prefetchStream p id n false) s = .next s) ∧
    (prefetcher (psys s p).mill o y = none → exec (.prefetchStream p id n false) s = .next s) ∧
    ∀ i, prefetcher (psys s p).mill o y = some i → (tn.role ≠ 0 → r.op = y.op ∧ r.waiting = none) →
    let k := min n (min (o.window * o.mills.length - ringHeld (psys s p).mill r.id) (y.total - y.data.length))
    rangeFail s p r.tenant false (r.addr o tn + y.data.length, k) = none →
    flashMay s p (((cmdOf s p r.ref).map (·.cls)).getD 2) (r.addr o tn + y.data.length) = true → cohHeld s (r.addr o tn + y.data.length) k false = [] →
    ∃ t, exec (.prefetchStream p id n false) s = .next t ∧ MemoriesKept s t ∧
      (psys t p).mill.streams.find? (·.id == id) = some { y with
        data := y.data ++ memBytes s (r.addr o tn + y.data.length) k, on := some i }) ∧
  (∀ s p r a b, ((runBytes s p r a b).length = b.length) ∧ (r.others (psys s p).mill = [] → runBytes s p r a b = b) ∧
    ∀ i < b.length, inRanges (r.others (psys s p).mill) (a + i) = false → byteAt (runBytes s p r a b) i = byteAt b i) ∧
  ∀ s p id n y r o, Running s → (psys s p).mill.streams.find? (·.id == id) = some y → runOf s p y.run = some r →
    objOf s p r.handle = some o →
    if r.op = y.op ∧ r.waiting = none then ∃ t, exec (.prefetchStream p id n true) s = .next t ∧ MemoriesKept s t ∧
      (psys t p).mill.streams.find? (·.id == id) = some { y with fed := min y.data.length (y.fed + n) }
    else exec (.prefetchStream p id n true) s = .next s

/-- MATMUL and BMATMUL (R229 to R234, R250, R251): every row of A with every row of B, or matrix i of A with matrix i of B, accumulated and
encoded as the output's format says.
Where the spec leaves a point open, it follows the model's own reading: log entries 62 and 76. -/
def Obligations.ArrayProductsRun : Prop :=
  (∀ x a b tn, Performs x 0x01 → x.t x.v.a = some a → x.t x.v.b = some b → x.t x.v.out = some tn →
    let m : List MatPair := [⟨(x.val a).rows.map (TRow.operand a (x.val a).st []),
      stationary b (x.val b) (x.val b).rows (sideOf x.o x.r b), [], .none⟩]
    let pr := productRows tn x.key (x.val a).per (exactInts a b tn) m
    (∃ k, ∀ q ∈ m, ∀ row ∈ q.as ++ q.bs, row.codes.length = k) → outFits [(tn, pr.1)] = true → MayWrite x (outWrites x [(tn, pr.1)]) →
    ∃ t, exec (.matmul x.p x.r.id) x.s = .next t ∧
      Gives x [(tn, pr.1)] [] ((pr.2.1.add (flagSum (m.map (·.flags)))).add (opBad x)) t) ∧
  ∀ x a b tn, Performs x 0x02 → x.t x.v.a = some a → x.t x.v.b = some b → x.t x.v.out = some tn →
    let m := batchMats a b (x.val a) (x.val b)
    let pr := productRows tn x.key (x.val a).per (exactInts a b tn) m
    (∃ k, ∀ q ∈ m, ∀ row ∈ q.as ++ q.bs, row.codes.length = k) → outFits [(tn, pr.1)] = true → MayWrite x (outWrites x [(tn, pr.1)]) →
    ∃ t, exec (.bmatmul x.p x.r.id) x.s = .next t ∧
      Gives x [(tn, pr.1)] [] ((pr.2.1.add (flagSum (m.map (·.flags)))).add (opBad x)) t

/-- EWISE, NORM, SOFTMAX, REDUCE, CONVERT and COPY (R198, R202, R203, R212, R213, R225, R282): each element of A's rows, as FP32 or exactly, through
the operation and into the output's format; COPY moves codes and scales as they are.
Where the spec leaves a point open, it follows the model's own reading: log entries 61, 62 and 74. -/
def Obligations.EpilogueOperationsRun : Prop :=
  ∀ x a tn, x.t x.v.a = some a → x.t x.v.out = some tn →
    let va := x.val a
    let es := va.rows.map (TRow.elems a va.st)
    let ns := va.rows.map (TRow.values a va.st)
    (Performs x 0x03 →
      let b := match x.t x.v.b with | some b => (x.val b).rows.map (TRow.elems b (x.val b).st) | none => []
      let r := finishRows tn va.per (ewiseRows x.v.sub es b)
      outFits [(tn, r.1)] = true → MayWrite x (outWrites x [(tn, r.1)]) →
      ∃ t, exec (.ewise x.p x.r.id) x.s = .next t ∧ Gives x [(tn, r.1)] [] (r.2.add (opBad x)) t) ∧
    (Performs x 0x04 →
      let r := finishRows tn va.per ((indexed es).map fun l => normRow x.v.sub (x.key + l.1 * 2 ^ 40) l.2)
      outFits [(tn, r.1)] = true → MayWrite x (outWrites x [(tn, r.1)]) →
      ∃ t, exec (.norm x.p x.r.id) x.s = .next t ∧ Gives x [(tn, r.1)] [] (r.2.add (opBad x)) t) ∧
    (Performs x 0x05 →
      let r := finishRows tn va.per ((indexed es).map fun l => softmaxRow (x.key + l.1 * 2 ^ 40) x.v.aux l.2)
      outFits [(tn, r.1)] = true → MayWrite x (outWrites x [(tn, r.1)]) →
      ∃ t, exec (.softmax x.p x.r.id) x.s = .next t ∧ Gives x [(tn, r.1)] [] (r.2.add (opBad x)) t) ∧
    (Performs x 0x06 →
      let r := finishWith tn va.per ((indexed es).map fun l => [reduceRow x.v.sub (x.key + l.1 * 2 ^ 40) l.2])
      outFits [(tn, r.1)] = true → MayWrite x (outWrites x [(tn, r.1)]) →
      ∃ t, exec (.reduce x.p x.r.id) x.s = .next t ∧ Gives x [(tn, r.1)] [] (r.2.add (opBad x)) t) ∧
    (Performs x 0x07 →
      let cut := ns.map fun r => if outlierLimit x.v tn = 0 then (r, []) else takeOutliers (outlierLimit x.v tn) tn.run r
      let taken := (indexed cut).flatMap fun r => r.2.2.map fun y => (r.1, y.1, convert 0xC false y.2)
      let r := finishExact tn va.per (cut.map (·.1))
      outFits [(tn, r.1)] = true → MayWrite x (outWrites x [(tn, r.1)]) →
      ∃ t, exec (.convert x.p x.r.id) x.s = .next t ∧
        Gives x [(tn, r.1)] [] ((r.2.add (flagSum (taken.map fun y => y.2.2.2))).add (opBad x)) t ∧
        (x.r.op + 1 < x.o.ops.length → taken ≠ [] → ∀ k, runOf t x.p x.r.id = some k → ∀ i,
          sideOf x.o k tn i = (taken.filter (·.1 == i)).map fun y => (y.2.1, y.2.2.1))) ∧
    (Performs x 0x0F →
      let v : TVal := ⟨va.per, va.rows.map fun r => { rowIn tn (packRow a.fmt r.codes) [] [] with s1 := r.s1, s2 := r.s2 }, va.st⟩
      outFits [(tn, v)] = true → MayWrite x (outWrites x [(tn, v)]) →
      ∃ t, exec (.copy x.p x.r.id) x.s = .next t ∧ Gives x [(tn, v)] [] (FlagN.none.add (opBad x)) t)

/-- GATHER, SCATTER_ADD, KV_APPEND and HAMMING (R252, R283, R284, R333 to R335): the rows that B names are taken as stored; A's rows are
added to the rows of OUT that B names, each row once with all its adds; A's rows are encoded and stored from record AUX on; the
distances of binary codes are counted.
Where the spec leaves a point open, it follows the model's own reading: log entries 62, 74 and 75. -/
def Obligations.RowOperationsRun : Prop :=
  ∀ x a tn, x.t x.v.a = some a → x.t x.v.out = some tn →
    let va := x.val a
    (∀ b, Performs x 0x08 → x.t x.v.b = some b →
      let ix := indicesOf b (x.val b)
      let rows := ix.filterMap fun i => va.rows[i]?
      (∀ i ∈ ix, i < va.rows.length ∧ (a.role ≠ 3 → rangeFail x.s x.p x.r.tenant false (x.r.addr x.o a + i * a.stride, a.stride) = none ∧
        cohHeld x.s (x.r.addr x.o a + i * a.stride) a.stride false = [])) →
      outFits [(tn, ⟨rows.length, rows, va.st⟩)] = true → MayWrite x (outWrites x [(tn, ⟨rows.length, rows, va.st⟩)]) →
      ∃ t, exec (.gather x.p x.r.id) x.s = .next t ∧ Gives x [(tn, ⟨rows.length, rows, va.st⟩)] [] (FlagN.none.add (opBad x)) t) ∧
    (∀ b, Performs x 0x09 → x.t x.v.b = some b →
      let ix := indicesOf b (x.val b)
      let old := x.val tn
      let addr (i : Nat) : Nat := x.r.addr x.o tn + i * tn.stride
      let cell (i j : Nat) : Nat × FlagN := addElem (tn.fmt == 0xD) (tensorOnMills x.s x.o x.r tn va.rows.length)
        (x.key + (i * tn.d0 + j) * 2 ^ 32) (((old.rows.getD i ⟨[], [], []⟩).codes).getD j 0)
        (((ix.zip va.rows).filter (·.1 == i)).map fun e => e.2.codes.getD j 0)
      let codes (i : Nat) : List Nat := (List.range tn.d0).map fun j => (cell i j).1
      let flags := (flagSum (ix.eraseDups.map fun i => flagSum ((List.range tn.d0).map fun j => (cell i j).2))).add (opBad x)
      let put : TVal := { old with rows := ix.eraseDups.foldl (fun l i => l.set i ⟨codes i, [], []⟩) old.rows }
      let stores := ix.eraseDups.map fun i => (addr i, packRow tn.fmt (codes i))
      (∀ i ∈ ix, i < old.rows.length) → a.d0 = tn.d0 →
      (tn.role = 3 → outFits [(tn, put)] = true → ∃ t, exec (.scatterAdd x.p x.r.id) x.s = .next t ∧ Gives x [(tn, put)] [] flags t) ∧
      (tn.role ≠ 3 → (∀ i ∈ ix, poisonIn x.s (addr i) tn.stride = none) → MayWrite x (stores.map fun w => (w.1, w.2.length)) →
        ∃ t, exec (.scatterAdd x.p x.r.id) x.s = .next t ∧ Gives x [] stores flags t)) ∧
    (Performs x 0x0D →
      let encs := (va.rows.map (TRow.values a va.st)).map (encodeRow tn.fmt tn.u 1 tn.group num0)
      let flags := (flagSum (encs.map (·.2))).add (opBad x)
      let rows := (indexed encs).foldl (fun l e => l.set (x.v.aux + e.1) ⟨e.2.1.codes, e.2.1.s1, e.2.1.s2⟩) (x.val tn).rows
      let put : TVal := { x.val tn with rows := rows }
      let stride := roundUp (tn.valBytes + tn.groups + 4 * ceilDiv tn.groups 16) 16
      let stores := (indexed encs).map fun e => (x.r.addr x.o tn + (x.v.aux + e.1) * stride,
        padTo stride (packRow tn.fmt e.2.1.codes ++ e.2.1.s1.flatMap (natLE 1) ++ e.2.1.s2.flatMap (natLE 4)))
      (∀ r ∈ va.rows, (r.values a va.st).length = tn.d0) →
      (tn.role = 3 → x.v.aux + va.rows.length ≤ rowsOf x tn → outFits [(tn, put)] = true →
        ∃ t, exec (.kvAppend x.p x.r.id) x.s = .next t ∧ Gives x [(tn, put)] [] flags t) ∧
      (tn.role ≠ 3 → (x.v.aux + va.rows.length) * stride ≤ rowsOf x tn * tn.stride → MayWrite x (stores.map fun w => (w.1, w.2.length)) →
        ∃ t, exec (.kvAppend x.p x.r.id) x.s = .next t ∧ Gives x [] stores flags t)) ∧
    ∀ b, Performs x 0x0A → x.t x.v.b = some b → a.d0 = b.d0 →
      let ds := va.rows.map fun r => (x.val b).rows.map fun q => (List.zipWith (fun i j => if i % 2 = j % 2 then 0 else 1) r.codes q.codes).sum
      let r := finishExact tn va.per (ds.map fun l => l.map fun d => .fin false d 0)
      outFits [(tn, r.1)] = true → MayWrite x (outWrites x [(tn, r.1)]) →
      ∃ t, exec (.hamming x.p x.r.id) x.s = .next t ∧ Gives x [(tn, r.1)] [] (r.2.add (opBad x)) t

/-- TOPK, MERGE, DETOK, TALLY_WAIT, TALLY_WAIT_RELEASE and TALLY_ADD (R166, R185 to R190, R307, R350): the best AUX of each row as a block; the
blocks of a matrix merged; a feed of a stream; a run that waits for a tally goes on once it is reached; a tally raised by one.
Where the spec leaves a point open, it follows the model's own reading: log entries 62 and 74. -/
def Obligations.SorterTextAndTallyOperationsRun : Prop :=
  (∀ x a tn, x.t x.v.a = some a → x.t x.v.out = some tn →
    let va := x.val a
    (sorterTakes x.s x.p x.r.id = false → exec (.topk x.p x.r.id) x.s = .next x.s ∧ exec (.merge x.p x.r.id) x.s = .next x.s) ∧
    (sorterTakes x.s x.p x.r.id = true → Performs x 0x0B → blockSize x.v.aux false ≤ tn.valBytes →
      let conv (r : TRow) : FlagN := flagSum ((r.f32s a va.st).map (·.2))
      (x.v.aux ≤ 256 →
        let blocks := (indexed va.rows).map fun r => selectBlock (x.key + r.1 * 2 ^ 40) (x.v.dir == 1) false false (tempOf x).isSome
          ((tempOf x).getD 0) x.v.aux (scoreRow a va.st r.2)
        let v := finishRaw tn va.per (blocks.map fun b => padTo tn.valBytes (blockOut b.1))
        outFits [(tn, v)] = true → MayWrite x (outWrites x [(tn, v)]) →
        ∃ t, exec (.topk x.p x.r.id) x.s = .next t ∧
          Gives x [(tn, v)] [] ((flagSum (blocks.map (·.2) ++ va.rows.map conv)).add (opBad x)) t) ∧
      (256 < x.v.aux →
        let y := x.r.sel.getD ⟨x.c.cls, [], 0, [], 0, 0, .none⟩
        let row := va.rows.getD y.blocks.length ⟨[], [], []⟩
        let z := passNext x.key ⟨x.v.dir == 1, (tempOf x).isSome, (tempOf x).getD 0, x.v.aux⟩ (scoreRow a va.st row)
          (if y.pass = 0 then { y with flags := y.flags.add (conv row) } else y)
        let v := finishRaw tn va.per (z.blocks.map (padTo tn.valBytes))
        (z.blocks.length < va.rows.length → ∃ t, exec (.topk x.p x.r.id) x.s = .next t ∧ MemoriesKept x.s t ∧
          runOf t x.p x.r.id = some { x.r with sel := some z }) ∧
        (va.rows.length ≤ z.blocks.length → outFits [(tn, v)] = true → MayWrite x (outWrites x [(tn, v)]) →
          ∃ t, exec (.topk x.p x.r.id) x.s = .next t ∧ Gives x [(tn, v)] [] (z.flags.add (opBad x)) t))) ∧
    (∀ b, sorterTakes x.s x.p x.r.id = true → Performs x 0x0C → x.t x.v.b = some b →
      let temp := (tempOf x).getD 0
      let lists := (cut (max 1 va.per) va.rows).map fun rows => rows.map fun r => blockIn (packRow a.fmt r.codes)
      let merged := (indexed lists).map fun l =>
        mergeBlocks (x.key + l.1 * 2 ^ 44) (x.v.dir == 1) (l.2.any (·.payload)) (l.2.any (·.massExp)) false temp x.v.aux l.2
      let v := finishRaw tn 1 (merged.map fun b => padTo tn.valBytes (blockOut b.1))
      (∀ l ∈ lists, mergeable l = true ∧ ∀ y ∈ l, y.dirHigh = (x.v.dir == 1)) →
      (∀ y ∈ merged, blockSize x.v.aux y.1.payload ≤ tn.valBytes) → outFits [(tn, v)] = true → MayWrite x (outWrites x [(tn, v)]) →
      ∃ t, exec (.merge x.p x.r.id) x.s = .next t ∧ Gives x [(tn, v)] [] ((flagSum (merged.map (·.2))).add (opBad x)) t) ∧
    ∀ st, Performs x 0x0E → detokWaits x.s x.p x.r.id = false → streamOf x.s x.p x.v.aux = some st → st.tenant = x.r.tenant →
      (st.state = .opened ∨ st.state = .ended) →
      let ids := indicesOf a va
      (∀ i ∈ ids, i < if st.mode = 0 then 2 ^ 20 else 256) →
      let r := feedRun (psys x.s x.p).text.vocab st (if st.mode = 0 then ids.flatMap (natLE 4) else ids.map (BitVec.ofNat 8)) 0
      let hit := r.hit.getD (0xFFFF, 0, 0, 0)
      let v := finishRaw tn 1 [padTo tn.valBytes (natLE 1 r.final.endCode ++ natLE 1 r.final.stopIndex ++ natLE 2 hit.1 ++
        natLE 2 hit.2.1 ++ zeros 2 ++ natLE 4 r.final.queue.length ++ zeros 4)]
      st.queue.length + 64 + (if st.mode = 0 then 96 else if st.mode = 1 then 3 else 6) * ids.length ≤ 131072 → 16 ≤ tn.stride →
      r.bad = none → outFits [(tn, v)] = true → MayWrite x (outWrites x [(tn, v)]) →
      ∃ t, exec (.detok x.p x.r.id) x.s = .next t ∧ Gives x [(tn, v)] [] (FlagN.none.add (opBad x)) t) ∧
  (∀ x a, Performs x 0x10 → x.t x.v.a = some a → opTallyOk x = true →
    let w := (x.val a).rows.flatMap (·.codes)
    let target := w.getD 0 0 + 2 ^ 32 * w.getD 1 0
    if target ≤ (rd x.s .tally x.p (x.v.aux % 4096)).toNat then ∃ t, exec (.tallyWait x.p x.r.id) x.s = .next t ∧
      Gives x [] [] (FlagN.none.add (opBad x)) t
    else ∃ t, exec (.tallyWait x.p x.r.id) x.s = .next t ∧ MemoriesKept x.s t ∧
      runOf t x.p x.r.id = some { x.r with waiting := some target }) ∧
  (∀ s p r o c v target, Running s → runOf s p r.id = some r → objOf s p r.handle = some o → cmdOf s p r.ref = some c →
    o.ops[r.op]? = some v → r.waiting = some target → r.op + 1 < o.ops.length →
    if target ≤ (rd s .tally p (v.aux % 4096)).toNat then ∃ t k, exec (.tallyWaitRelease p r.id) s = .next t ∧
      runOf t p r.id = some k ∧ k.op = r.op + 1 ∧ k.waiting = none ∧ k.words = r.words ++ [0]
    else exec (.tallyWaitRelease p r.id) s = .next s) ∧
  ∀ x, Performs x 0x11 → opTallyOk x = true → ∃ t, exec (.tallyAdd x.p x.r.id) x.s = .next t ∧
    Gives x [] [] (FlagN.none.add (opBad x)) t ∧
    (x.r.op + 1 < x.o.ops.length → rd t .tally x.p (x.v.aux % 4096) = rd x.s .tally x.p (x.v.aux % 4096) + 1)


/-! ### Text -/

/-- STREAM_OPEN, TEXT_FEED, STREAM_READ and STREAM_CLOSE (R288 to R300, Tables 9.3 and 9.4): a stream opens under an unused handle; a feed
goes through the stream machine, and one that REJECT refuses fails the stream with BAD_PARAM at its offset; a read gives the queued
output; a close ends the input and frees the context when the output is carried. Validation loses nothing of well-formed text (R292).
Where the spec leaves a point open, it follows the model's own reading: log entry 63. -/
def Obligations.StreamsOpenFeedAndClose : Prop :=
  (∀ s p c, Held s p 0x0702 c → (psys s p).text.streams.length < 1024 →
    ∃ t h, exec (.streamOpen p c.ref) s = .next t ∧ Ended t p c ∧ h < 1024 ∧ streamOf s p h = none ∧
      (psys t p).text.streams = (psys s p).text.streams ++ [⟨h, c.tenant, par c 0 1, par c 1 1,
        (stopStrings c.params (par c 2 1) 8).getD [], false, [], [], [], [], .opened, 0, 0xFF⟩]) ∧
  (∀ s p c y, Held s p 0x0703 c → textBlocked s p c = false → vocabWaits s p c = false → streamOf s p (par c 0 2) = some y →
    (y.state = .opened ∨ y.state = .ended) →
    let r := feedRun (psys s p).text.vocab y (c.params.drop 8) 72
    exec (.textFeed p c.ref) s = .next ((match r.bad with
      | some d => Upd.seq [textCounts p c.tenant r, streamPut p r.final, postPlain p c stBadParam d]
      | none => Upd.seq [textCounts p c.tenant r, streamPut p (textReply r r.st c.bodyMax).2,
          postReply p c stOk 0 (textReply r r.st c.bodyMax).1]).run s) ∧
    (∀ d, r.bad = some d → r.final.state = .failed true 0 ∧ r.final.endCode = 4) ∧
    (textReply r r.st c.bodyMax).1.drop 32 = r.st.queue.take (c.bodyMax - 32) ∧
    (textReply r r.st c.bodyMax).2.queue = r.st.queue.drop (c.bodyMax - 32)) ∧
  (∀ s p c y, Held s p 0x0704 c → textBlocked s p c = false → streamOf s p (par c 0 2) = some y →
    (∀ a b, y.state ≠ .failed a b) → ∃ t, exec (.streamRead p c.ref) s = .next t ∧ Ended t p c ∧
      streamOf t p (par c 0 2) = (if y.state = .draining ∧ y.queue.length ≤ c.bodyMax - 32 then none
        else some { y with queue := y.queue.drop (c.bodyMax - 32) })) ∧
  (∀ s p c y, Held s p 0x0705 c → textBlocked s p c = false → streamOf s p (par c 0 2) = some y → y.state = .ended →
    ∃ t, exec (.streamClose p c.ref) s = .next t ∧ Ended t p c ∧
      streamOf t p (par c 0 2) = (if y.queue.length ≤ c.bodyMax - 32 then none
        else some { y with queue := y.queue.drop (c.bodyMax - 32), state := .draining })) ∧
  (∀ s p c y a b, Held s p 0x0705 c → textBlocked s p c = false → streamOf s p (par c 0 2) = some y → y.state = .failed a b →
     ∃ t, exec (.streamClose p c.ref) s = .next t ∧ Ended t p c ∧ streamOf t p (par c 0 2) = none) ∧
  ∀ bs, utf8Ok bs = true → (utf8Chars bs).1.flatten = bs ∧ (utf8Chars bs).2 = 0

/-- VOCAB_LOAD (R303, R304), TERM_LOOKUP (R305) and NGRAM_HASH (R306): a sound image is the table from the next Bell on, an unsound one
is refused with its first bad entry; terms are looked up in the table in force; runs of characters fall into buckets, each entry a
bucket with its count. -/
def Obligations.VocabulariesAndTermsAreServed : Prop :=
  (∀ s p c, Held s p 0x0701 c →
    tableBusy s p c = false →
    cohDead s (unalias s (par c 0 8)) 0x800000 = false → cohHeld s (par c 0 8) 0x800000 false = [] →
    poisonIn s (par c 0 8) 0x800000 = none →
    let img := Mem.slice (if regionOf (unalias s (par c 0 8)) = .cellar then s.cellar else s.mem) (unalias s (par c 0 8)) 0x800000
    ∃ t, exec (.vocabLoad p c.ref) s = .next t ∧ Ended t p c ∧ (psys t p).text.vocab = (psys s p).text.vocab ∧
      (psys t p).text.vocabNext = (match (List.range 524288).find? (vocabBad img) with
        | some _ => (psys s p).text.vocabNext
        | none => some img)) ∧
  (∀ s p c, Held s p 0x0706 c → vocabWaits s p c = false →
    let out := (termsOf c.params (par c 2 2) 8).map fun t =>
      (termId (psys s p).text.vocab (if nbit (par c 0 1) 0 then foldCase t.2 else t.2)).getD 0xFFFFFFFF
    exec (.termLookup p c.ref) s =
      .next ((postReply p c stOk 0 (out.flatMap (natLE 4))).run ((ledger c.tenant 11 (4 * out.length)).run s))) ∧
  ∀ s p c, Held s p 0x0707 c →
    let data := (c.params.drop 8).take (par c 4 2)
    let chars := (utf8Chars (if nbit (par c 0 1) 0 then foldCase data else data)).1
    let bs := ngramBuckets chars (par c 1 1) (par c 2 1) (par c 3 1)
    let distinct := sortBy (fun a b => decide (a < b)) bs.eraseDups
    let entries := distinct.flatMap fun b => natLE 4 (b + 2 ^ 24 * min 255 (bs.count b))
    let fit := (c.bodyMax - 8) / 4 * 4
    ∃ u, exec (.ngramHash p c.ref) s = .next ((postReply p c stOk (if fit < entries.length then 1 else 0)
        (natLE 4 distinct.length ++ natLE 4 bs.length ++ entries.take fit)).run u) ∧ MemoriesKept s u

/-! ### Embedding tables -/

/-- TABLE_DEFINE, TABLE_DROP, TABLE_DROP_DONE and HOT_REFRESH (R328 to R331, R338): a definition is in force from the next Bell; a table dropped
is gone once its last user has posted; at a refresh Bell the hot list is copied into the inactive half, or the Bell is skipped and
counted while a copy runs.
Where the spec leaves a point open, it follows the model's own reading: log entry 78. -/
def Obligations.TablesAreDefinedDroppedAndRefreshed : Prop :=
  (∀ s p c, Held s p 0x0602 c → tableOf s p (par c 0 2) = none → (psys s p).tables.length < 1024 →
    (tEvery c.params = 0 ∨ (psys s p).tables.countP (fun t => tEvery t.desc != 0) < 16) →
    ∃ t k, exec (.tableDefine p c.ref) s = .next t ∧ Ended t p c ∧ tableOf t p (par c 0 2) = some k ∧ k.tenant = c.tenant ∧
      k.desc = c.params.take 64 ∧ k.ranges = defRanges s p c ∧ k.opening = some (frameNow s + 1) ∧ k.closing = false ∧
      ∀ id, id ≠ par c 0 2 → tableOf t p id = tableOf s p id) ∧
  (∀ s p c k, Held s p 0x0603 c → tableFor s p c.tenant (par c 0 2) = some k → ∃ t, exec (.tableDrop p c.ref) s = .next t ∧
    MemoriesKept s t ∧ tableOf t p (par c 0 2) = some { k with closing := true } ∧ cmdOf t p c.ref = some { c with phase := .running }) ∧
  (∀ s p id k, Running s → tableOf s p id = some k → k.closing = true →
    if (psys s p).cmds.any (usesTable · id) = true then exec (.tableDropDone p id) s = .next s
    else ∃ t, exec (.tableDropDone p id) s = .next t ∧ tableOf t p id = none ∧
      ∀ x ∈ (psys s p).cmds, x.opcode = 0x0603 → par x 0 2 = id → x.phase = .running → Ended t p x) ∧
  (∀ s p id k half key, Running s → tableOf s p id = some k → k.copying = some (half, key) →
    ∃ t, exec (.hotRefresh p id true) s = .next t ∧ tableOf t p id = some { k with copying := none, ready := some half }) ∧
  ∀ s p id k, Running s → tableOf s p id = some k → tEvery k.desc ≠ 0 → frameNow s % tEvery k.desc = 0 → k.refreshed ≠ some (frameNow s) →
    k.opening = none →
    (k.copying.isSome = true → ∃ t, exec (.hotRefresh p id false) s = .next t ∧ MemoriesKept s t ∧
      tableOf t p id = some { k with refreshed := some (frameNow s) } ∧
      fld (rd t .memHot p) 31 16 = satAdd 16 (fld (rd s .memHot p) 31 16) 1) ∧
    (k.copying = none → ∃ t, exec (.hotRefresh p id false) s = .next t ∧
      (let half := match k.active with | some h => 1 - h | none => 0
       tableOf t p id = some { k with
         refreshed := some (frameNow s)
         copying := some (half, opKey s.sys.free)
         half0 := if half = 0 then k.hot else k.half0
         half1 := if half = 0 then k.half1 else k.hot }))

/-- ROW_LOOKUP, HOT_SET, ROW_FWD and ROW_ADD (R332 to R337), on rows homed at the partition: a lookup answers the rows as memory holds them,
from the hot copy where it may; a hot set gives the table its next list; adds go to each row once, each row with all its adds, and the
answer refuses none; a forwarded command does for its sender what the command of its original opcode does.
Where the spec leaves a point open, it follows the model's own reading: log entries 62 and 78. -/
def Obligations.RowCommandsRun : Prop :=
  (∀ s p c k x, tableOf s p (par c (rowOff c) 2) = some k → c.pieces = [x] → x.loc = true → x.done = none →
    let count := min (par c (rowOff c + 4) 4) 1024
    let rows := (rowEntries k.desc c).map (·.1)
    let n := tRowBytes k.desc
    let held (a b : Cmd) : Prop := a.ref = b.ref ∧ a.replyAddr = b.replyAddr ∧ a.seq = b.seq ∧ a.ring = b.ring ∧ a.bodyMax = b.bodyMax
    (rowOp c = 0x0604 → x.entries = List.range count →
      let at' := rows.map fun r => match (if nbit (par c (rowOff c + 2) 1) 0 then none else hotSlot k r) with
        | some h => hotAddr k h.1 h.2
        | none => rowAddr k r
      let body := at'.flatMap fun a => padTo (roundUp n 8) (memBytes s a n)
      (∀ r ∈ rows, cohHeld s (rowAddr k r) n false = []) → (∀ a ∈ at', rangeFail s p c.tenant false (a, n) = none) →
      (Held s p 0x0604 c → ∃ u c', exec (.rowLookup p c.ref) s = .next ((postReply p c' stOk 0 body).run u) ∧ MemoriesKept s u ∧ held c' c) ∧
      (Held s p 0x0606 c → ∃ u c', exec (.rowFwd p c.ref) s = .next ((postReply p c' stOk 0 body).run u) ∧ MemoriesKept s u ∧ held c' c)) ∧
    (rowOp c = 0x0605 →
      let now := k.hotNext.getD k.hot
      let mode := par c (rowOff c + 2) 1
      let next := { k with hotNext := some (if mode = 0 then rows else if mode = 1 then now ++ rows else now.filter (!rows.contains ·)) }
      (Held s p 0x0605 c → ∃ t, exec (.hotSet p c.ref) s = .next t ∧ Ended t p c ∧ tableOf t p k.id = some next) ∧
      (Held s p 0x0606 c → ∃ t, exec (.rowFwd p c.ref) s = .next t ∧ Ended t p c ∧ tableOf t p k.id = some next)) ∧
    (rowOp c = 0x0410 → x.entries = List.range count → 0 < count → x.area = [] → (∀ m ∈ (psys s p).migs, m.kind ≠ 1) →
      (∀ r ∈ rows, cohHeld s (rowAddr k r) n true = [] ∧ rangeFail s p c.tenant true (rowAddr k r, n) = none ∧
        poisonIn s (rowAddr k r) n = none) →
      dayFits s p (dayLen (rowRecord s p c k (rowEntries k.desc c))) = true →
      let added := ((applyAdds p c.tenant k (rowEntries k.desc c) c.thresh (par c (rowOff c + 4) 4)).run s).mem
      let body := bitmap count fun _ => false
      (Held s p 0x0410 c → ∃ u c', exec (.rowAdd p c.ref) s = .next ((postReply p c' stOk 0 body).run u) ∧ u.mem = added ∧ held c' c) ∧
      (Held s p 0x0606 c → ∃ u c', exec (.rowFwd p c.ref) s = .next ((postReply p c' stOk 0 body).run u) ∧ u.mem = added ∧ held c' c))) ∧
  ∀ s p tenant k row b thresh batch, poisonIn s (rowAddr k row) (tRowBytes k.desc) = none →
    let a := rowAddr k row
    let words (b : Bytes) : List Nat := (List.range (tElems k.desc)).map fun i => leAt b (4 * i) 4
    let sum := rowSum (tFmt k.desc == 0xD) (onMills s thresh batch a) (opKey s.sys.free)
      (words (memBytes s a (tRowBytes k.desc))) [words b]
    ∃ u, (applyAdds p tenant k [(row, b)] thresh batch).run s = (Upd.seq [chargeWrite s tenant a (tRowBytes k.desc), raiseFlags p sum.2,
        .when (regionOf (unalias s a) == .loft) (stackLines (stackOf (unalias s a)) (units64 a (tRowBytes k.desc)))]).run u ∧
      u.mem = Mem.writeBytes s.mem (unalias s a) (sum.1.flatMap (natLE 4))

/-! ### Transfers -/

/-- MEM_COPY and DMA_START (R326, R410, R411, R415, R418): a copy takes an idle channel of the tenant's or of nobody's and runs with BARRIER; a
channel whose checks pass holds the transfer that its registers, or the descriptor they point to, describe, and is BUSY.
Where the spec leaves a point open, it follows the model's own reading: log entries 63 and 77. -/
def Obligations.TransfersBegin : Prop :=
  (∀ s p c, Held s p 0x0601 c → dmaFree s p c.tenant ≠ [] → copySrcPart c = partId s → copyDstPart c = partId s →
    dmaCheck s p { j := 0, tenant := c.tenant, cls := c.cls, src := par c 0 8, dst := par c 8 8, count := par c 16 8,
                   srcPart := copySrcPart c, dstPart := copyDstPart c, srcHost := false, dstHost := false, barrier := true,
                   tallyEn := false, swap := 0, tally := 0, chain := false, last := true, next := 0, got := [], issued := false,
                   ref := none, no := 0, fail := none } = none →
    ∃ t j r, exec (.memCopy p c.ref) s = .next t ∧ MemoriesKept s t ∧ j ∈ dmaFree s p c.tenant ∧ dmaOf t p j = some r ∧
      bit (rd t .dmaStatus p j) 60 = true ∧ r.src = par c 0 8 ∧ r.dst = par c 8 8 ∧ r.count = par c 16 8 ∧ r.swap = 0 ∧
      r.barrier = true ∧ r.ref = some c.ref ∧ r.issued = false ∧ cmdOf t p c.ref = some { c with phase := .running, aux := j }) ∧
  (∀ s w p (j : Fin 64) v tenant, Running s → ctlWriteOk s w p R.dmaCtl.desc.page j.val = true → bit (rd s .dmaStatus p j.val) 60 = false →
    (fld v 17 16 ≠ 0 ∨ w.agent = .steward) → bit v 63 = true → bit v 62 = false → unitServes s 9 (64 * p.val + j.val) tenant = true →
    let s1 := (plainWrite .dmaCtl p j.val v).run s
    let r := if bit v 8 then descRun j.val tenant (fld v 17 16) (memBytes s (fld (rd s .dmaDesc p j.val) 49 0) 64)
      else regRun s1 p j.val tenant
    (bit v 8 = true → (let a := fld (rd s .dmaDesc p j.val) 49 0
      a % 64 = 0 ∧ regionOf (unalias s a) = .loft ∧ accessNew s p tenant a 64 false = .ok ∧ cohDead s (unalias s a) 64 = false ∧
      poisonIn s a 64 = none ∧ descOk (memBytes s a 64) = true)) →
    r.srcPart = partId s → dmaCheck s p r = none →
    ∃ t, exec (.dmaStart w p j v) s = .next t ∧ MemoriesKept s t ∧ dmaOf t p j.val = some { r with no := dmaNo s p j.val } ∧
      bit (rd t .dmaStatus p j.val) 60 = true)

/-- DMA_COMPLETE, DMA_ABORT and DMA_FAIL (R413, R414, R416, R417, Table 13.7): a local transfer that completes has moved its bytes, in the
order its swap mode gives, and nothing else, and its channel is DONE; one that is aborted, or whose access to a host or another part
fails, is over with its status recorded.
Where the spec leaves a point open, it follows the model's own reading: log entries 58, 77, 140 and 141. -/
def Obligations.TransfersEnd : Prop :=
  (∀ s p (j : Fin 64) remote r, Running s → dmaOf s p j.val = some r → r.issued = false → r.fail = none → r.count ≠ 0 → r.ref = none →
    r.srcHost = false → r.dstHost = false → r.srcPart = partId s → r.dstPart = partId s → (r.chain = false ∨ r.last = true) →
    (∀ o ∈ s.sys.fab.outst, o.why ≠ .dmaRead p j.val) → flashMay s p r.cls (unalias s r.src) = true → (r.barrier = false ∨ dmaInFlight s p j.val = false) →
    cohDead s (unalias s r.src) r.count = false → cohDead s (unalias s r.dst) r.count = false →
    cohHeld s (unalias s r.src) r.count false = [] → cohHeld s (unalias s r.dst) r.count true = [] → poisonIn s r.src r.count = none →
    ∃ t, exec (.dmaComplete p j remote) s = .next t ∧ dmaOf t p j.val = none ∧ bit (rd t .dmaStatus p j.val) 63 = true ∧
      bit (rd t .dmaStatus p j.val) 60 = false ∧ t.win = s.win ∧ t.cellar = s.cellar ∧
      (∀ i, i < r.count → Mem.read t.mem (unalias s r.dst + i) = (swapBytes r.swap (memBytes s r.src r.count)).getD i 0) ∧
      ∀ a, a < unalias s r.dst ∨ unalias s r.dst + r.count ≤ a → Mem.read t.mem a = Mem.read s.mem a) ∧
  (∀ s w p (j : Fin 64) v r, Running s → ctlWriteOk s w p R.dmaCtl.desc.page j.val = true → bit (rd s .dmaStatus p j.val) 60 = true →
    bit v 62 = true → dmaOf s p j.val = some r → r.fail = none → ∃ t, exec (.dmaAbort w p j v) s = .next t ∧
      if dmaBusy s p j.val then ∃ f, dmaOf t p j.val = some { r with fail := some f } ∧ f.status = stContextReset ∧
        bit (rd t .dmaStatus p j.val) 60 = true
      else dmaOf t p j.val = none ∧ bit (rd t .dmaStatus p j.val) 60 = false ∧ bit (rd t .dmaStatus p j.val) 62 = true ∧
        fld (rd t .dmaStatus p j.val) 47 32 = stContextReset) ∧
  (∀ s p (j : Fin 64) no status r f, dmaOf s p j.val = some r → r.fail = some f → dmaBusy s p j.val = false → r.ref = none → status ≠ stOk →
    let t := (dmaWriteBack p j.val no status).run s
    dmaOf t p j.val = none ∧ bit (rd t .dmaStatus p j.val) 60 = false ∧ bit (rd t .dmaStatus p j.val) 62 = true ∧
      fld (rd t .dmaStatus p j.val) 47 32 = f.status % 65536) ∧
  ∀ s p (j : Fin 64) status moved r, Running s → dmaOf s p j.val = some r → r.fail = none → (r.srcHost = true ∨ r.srcPart ≠ partId s ∨ r.dstHost = true ∨
      r.dstPart ≠ partId s) → ∃ t, exec (.dmaFail p j status moved) s = .next t ∧ dmaOf t p j.val = none ∧
      bit (rd t .dmaStatus p j.val) 60 = false ∧ bit (rd t .dmaStatus p j.val) 62 = true ∧
      fld (rd t .dmaStatus p j.val) 47 32 = status % 65536 ∧ fld (rd t .dmaMoved p j.val) 40 0 = min moved r.count % 2 ^ 41

/-! ### Stacks -/

/-- STACK_GATHER, STACK_ADD, STACK_WRITE, STACK_MOVE and STACK_ZERO (Table 11.3, R334, R366, R375, R376), where the access is allowed and no host is
in the way: the row goes to its place; the element is read, added and written; the bytes are written; the lines are moved; the rows
hold zeros without poison. No other byte of memory changes.
Where the spec leaves a point open, it follows the model's own reading: log entries 57, 58 and 62. -/
def Obligations.StackEnginesChangeTheirLines : Prop :=
  (∀ s (k : Fin 24) w a len dst, Running s → inStack k.val a len = true → len ≠ 0 → cohDead s a len = false →
    cohHeld s a len false = [] → cohHeld s dst len true = [] → access s w.partition (issuerT s w) a len false = .ok →
    poisonIn s a len = none → cohDead s (unalias s dst) len = false → access s w.partition (issuerT s w) dst len true = .ok →
    ∃ t, exec (.stackGather k w [a] len dst) s = .next t ∧ t.win = s.win ∧ t.cellar = s.cellar ∧
      t.mem = Mem.writeBytes s.mem (unalias s dst) (memBytes s a len)) ∧
  (∀ s (k : Fin 24) w a fp v, Running s → inStack k.val a 4 = true → a % 4 = 0 → cohDead s a 4 = false → cohHeld s a 4 true = [] →
    access s w.partition (issuerT s w) a 4 true = .ok → poisonIn s a 4 = none →
    let r := addElem fp false (opKey s.sys.free) (memLE s a 4) [v.toNat]
    ∃ u, exec (.stackAdd k w a fp [v]) s = .next ((Upd.seq [raiseFlags w.partition r.2, chargeWrite s (issuerT s w) a 4,
        stackLines k.val (units64 a 4)]).run u) ∧ u.mem = Mem.writeBytes s.mem a (natLE 4 r.1) ∧ u.win = s.win ∧ u.cellar = s.cellar) ∧
  (∀ s (k : Fin 24) w a data, Running s → inStack k.val a data.length = true → data ≠ [] → cohHeld s a data.length true = [] →
    cohDead s a data.length = false → access s w.partition (issuerT s w) a data.length true = .ok →
    ∃ t, exec (.stackWrite k w a data) s = .next t ∧ t.win = s.win ∧ t.cellar = s.cellar ∧ t.mem = Mem.writeBytes s.mem a data ∧
      ∀ l ∈ s.sys.poison, ¬ (a ≤ l ∧ l + 64 ≤ a + data.length) → l ∈ t.sys.poison) ∧
  (∀ s (k : Fin 24) w src dst n, Running s → inStack k.val src n = true → n ≠ 0 → cohDead s src n = false → cohDead s dst n = false →
    cohHeld s src n false = [] → cohHeld s dst n true = [] → regionOf dst = .loft → stkP (stackOf dst) = stkP k.val →
    access s w.partition (issuerT s w) src n false = .ok → access s w.partition (issuerT s w) dst n true = .ok →
    poisonIn s src n = none → ∃ t, exec (.stackMove k w src dst n) s = .next t ∧ t.win = s.win ∧ t.cellar = s.cellar ∧
      ∀ a, Mem.read t.mem a = if dst ≤ a ∧ a < dst + n then Mem.read s.mem (src + (a - dst)) else Mem.read s.mem a) ∧
  ∀ s (k : Fin 24) a rows, Running s → inStack k.val a (1024 * rows) = true → a % 1024 = 0 → rows ≠ 0 →
    ∃ t, exec (.stackZero k a rows) s = .next t ∧ t.win = s.win ∧ t.cellar = s.cellar ∧ RegsKept s t (fun _ _ _ => False) ∧
      (∀ b, Mem.read t.mem b = if a ≤ b ∧ b < a + 1024 * rows then 0 else Mem.read s.mem b) ∧
      ∀ l, l ∈ t.sys.poison ↔ l ∈ s.sys.poison ∧ ¬ (a ≤ l ∧ l < a + 1024 * rows)

/-- STACK_STARTUP, STACK_SELF_REFRESH_EXIT, STK_FILL, STK_TEST and STK_FILL_DONE (R356, R372 to R374, Table 11.5): a stack that trains and
passes its test is READY with zeros in it; one that does not is FAILED; a fill or test is begun on a READY stack no tenant uses, and its
end leaves zeros; anywhere else it sets CFG_ERR.
Where the spec leaves a point open, it follows the model's own reading: log entries 57 and 98. -/
def Obligations.StacksStartAndFill : Prop :=
  (∀ s (k : Fin 24) r, Running s → stackState s k.val = 0 → r.rate = none →
    ∃ t, exec (.stackStartup k r) s = .next t ∧ stackState t k.val = 5) ∧
  (∀ s (k : Fin 24) r rate, Running s → stackState s k.val = 0 → r.rate = some rate → (∀ row ∈ r.failingRows, stkRows ≤ row) →
    ∃ t, exec (.stackStartup k r) s = .next t ∧
      if r.unspared = true then stackState t k.val = 5
      else stackState t k.val = 3 ∧ fld (rd t .stkStatus (stkP k.val) (stkJ k.val)) 51 48 = rate.val ∧
        ∀ b, Mem.read t.mem b = if stkBase k.val ≤ b ∧ b < stkBase k.val + 0x1000000000 then 0 else Mem.read s.mem b) ∧
  (∀ s (k : Fin 24) rate, Running s → stackState s k.val = 4 → ∃ t, exec (.stackSelfRefreshExit k rate) s = .next t ∧ MemoriesKept s t ∧
    stackState t k.val = 3 ∧ fld (rd t .stkStatus (stkP k.val) (stkJ k.val)) 51 48 = rate.val) ∧
  (∀ s w (k : Fin 24) v, Running s → ctlWriteOk s w (stkP k.val) R.stkCtl.desc.page (stkJ k.val) = true → bit v 62 = true → bit v 63 = false →
    ∃ t, exec (.stkFill w k v) s = .next t ∧ MemoriesKept s t ∧
      if stackState s k.val = 3 ∧ stkInUse s k.val = false then stackState t k.val = 2 ∧ (stk t k.val).fill = some false
      else stackState t k.val = stackState s k.val ∧ (stk t k.val).fill = (stk s k.val).fill ∧
        bit (rd t .stkStatus (stkP k.val) (stkJ k.val)) 63 = true) ∧
  (∀ s w (k : Fin 24) v, Running s → ctlWriteOk s w (stkP k.val) R.stkCtl.desc.page (stkJ k.val) = true → bit v 63 = true →
    ∃ t, exec (.stkTest w k v) s = .next t ∧ MemoriesKept s t ∧
      if stackState s k.val = 3 ∧ stkInUse s k.val = false then stackState t k.val = 1 ∧ (stk t k.val).fill = some true
      else stackState t k.val = stackState s k.val ∧ (stk t k.val).fill = (stk s k.val).fill ∧
        bit (rd t .stkStatus (stkP k.val) (stkJ k.val)) 63 = true) ∧
  ∀ s (k : Fin 24) failed test, Running s → (stk s k.val).fill = some test → ∃ t, exec (.stkFillDone k failed) s = .next t ∧
    stackState t k.val = 3 ∧ (stk t k.val).fill = none ∧
    ∀ b, Mem.read t.mem b = if stkBase k.val ≤ b ∧ b < stkBase k.val + 0xFE0000000 then 0 else Mem.read s.mem b

/-- STACK_SCRUB, BANK_REFRESH and ROW_SPARE (R365, R368 to R370): the scrub goes on by SCRUB_RATE rows and finds only errors of those rows; the
refresh follows the hottest die; a row whose corrected errors have reached the threshold is spared, or kept with SPARE_OUT.
Where the spec leaves a point open, it follows the model's own reading: log entry 57. -/
def Obligations.StacksAreKept : Prop :=
  (∀ s (k : Fin 24) ce ue, Running s → stackState s k.val = 3 → fld (lv s .stkCtl (stkP k.val) (stkJ k.val)) 31 16 ≠ 0 →
    ∃ t, exec (.stackScrub k ce ue) s = .next t ∧
      (stk t k.val).scrub = ((stk s k.val).scrub + fld (lv s .stkCtl (stkP k.val) (stkJ k.val)) 31 16) % stkRows ∧
      (ue = [] → MemoriesKept s t ∧ t.sys.poison = s.sys.poison) ∧
      (ce = [] → ue = [] → RegsKept s t (fun _ _ _ => False))) ∧
  (∀ s (k : Fin 24) temp, Running s → stackState s k.val ≠ 4 → stackState s k.val ≠ 5 → ∃ t, exec (.bankRefresh k temp) s = .next t ∧
    MemoriesKept s t ∧ t.sys = s.sys ∧ fld (rd t .stkStatus (stkP k.val) (stkJ k.val)) 15 8 = min temp 255 ∧
    bit (rd t .stkStatus (stkP k.val) (stkJ k.val)) 44 = decide (85 < temp)) ∧
  ∀ s (k : Fin 24) row, Running s → stackState s k.val = 3 → fld (lv s .stkCtl (stkP k.val) (stkJ k.val)) 39 32 ≠ 0 →
    fld (lv s .stkCtl (stkP k.val) (stkJ k.val)) 39 32 ≤ (aget (stk s k.val).errs row).getD 0 → row ∉ (stk s k.val).kept →
    row ∉ (stk s k.val).spared → ∃ t, exec (.rowSpare k row) s = .next t ∧
      if sparesUsed (stk s k.val) (rowBank row) < 32 then row ∈ (stk t k.val).spared ∧ MemoriesKept s t
      else row ∈ (stk t k.val).kept ∧ bit (rd t .stkStatus (stkP k.val) (stkJ k.val)) 62 = true


/-! ### Flash -/

/-- FLASH_INGEST, FLASH_RELEASE, INGEST_COMMIT, FLASH_INFO, HEALTH_READ and FLASH_FORMAT (R389 to R391, R393, R404, R406): an ingest or release that
is not behind another and has room takes its bytes and its place and runs; its commit gives it the frame and ends the command; a format
leaves the channels without a unit or a byte.
Where the spec leaves a point open, it follows the model's own reading: log entry 59. -/
def Obligations.FlashIsIngestedReleasedAndFormatted : Prop :=
  (∀ s p c, Held s p 0x0B01 c →
    let i : Ingest := { ref := c.ref, release := false, tenant := c.tenant, dst := ingDst c, bytes := ingBytes c, hot := nbit (par c 24 1) 0,
                        data := Mem.slice s.mem (unalias s (par c 0 8)) (ingBytes c), commit := none }
    rangeFail s p c.tenant false (par c 0 8, ingBytes c) = none → cohHeld s (par c 0 8) (ingBytes c) false = [] →
    ingestBehind s p c = false → ingestPool s p i = none → ingestHeld s i = false →
    ∃ t, exec (.flashIngest p c.ref) s = .next t ∧ MemoriesKept s t ∧ (psys t p).ingests = (psys s p).ingests ++ [i] ∧
      cmdOf t p c.ref = some { c with phase := .running }) ∧
  (∀ s p c, Held s p 0x0B02 c →
    let i : Ingest := { ref := c.ref, release := true, tenant := c.tenant, dst := ingDst c, bytes := ingBytes c, hot := false, data := [],
                        commit := none }
    ingestBehind s p c = false → ingestPool s p i = none →
    ∃ t, exec (.flashRelease p c.ref) s = .next t ∧ MemoriesKept s t ∧ (psys t p).ingests = (psys s p).ingests ++ [i] ∧
      cmdOf t p c.ref = some { c with phase := .running }) ∧
  (∀ s p c i, Running s → cmdOf s p c.ref = some c → (psys s p).ingests.find? (·.ref == c.ref) = some i → i.commit = none →
    ∃ t, exec (.ingestCommit p c.ref) s = .next t ∧ Ended t p c ∧ t.cellar = s.cellar ∧
      (psys t p).ingests.find? (·.ref == c.ref) = some { i with commit := some (frameNow s) }) ∧
  (∀ s p c, Held s p 0x0B03 c →
    exec (.flashInfo p c.ref) s = .next ((postReply p c stOk 0 ((infoChans p c).flatMap (infoBytes s))).run s)) ∧
  (∀ s p c, Held s p 0x0B04 c → exec (.healthRead p c.ref) s =
    .next ((postReply p c stOk 0 (padTo 128 (healthBytes (par c 0 1) (chan s (par c 0 1)).log))).run s)) ∧
  ∀ s p c, Held s p 0x0B05 c → ∃ t, exec (.flashFormat p c.ref) s = .next t ∧ Ended t p c ∧
    ∀ k ∈ fmtChans p c, chanState t k = (if chanState s k = 4 then 4 else 2) ∧ (chan t k).units = [] ∧ (chan t k).w = par c 1 1 ∧
      ∀ a, quarter (flP k) + flJ k * 0x80000000000 ≤ a → a < quarter (flP k) + (flJ k + 1) * 0x80000000000 → Mem.read t.cellar a = 0

/-- FOLD, GARBAGE_COLLECTION, FLASH_SCRUB, FLASH_READ_DONE, BLOCK_RETIRE, HEALTH_LOG_COPY, ZQ_CALIBRATION, CHANNEL_STARTUP and FLASH_TARGET_TIMEOUT
(R378, R379, R381 to R384, R394, R398 to R400, R404, R405, Tables 12.2 and 12.3): the background work moves data without changing a byte of the window,
and what is found is counted in the log and in FL_ERR. What moves data yields to work of rows 1 to 4 of Table 12.9, and an expansion's read
is served when its channel comes to it (R397 to R399).
Where the spec leaves a point open, it follows the model's own reading: log entries 59, 122, 138 and 139. -/
def Obligations.FlashKeepsItself : Prop :=
  (∀ s (c : Fin 32) unit u, Running s → aget (chan s c.val).units unit = some u → gcHold s c.val = false → chanState s c.val = 2 →
    channelWork s c.val = false → u.coarse = true → u.slc ≠ 0 → ∃ t, exec (.fold c unit) s = .next t ∧ MemoriesKept s t ∧
      aget (chan t c.val).units unit = some { u with slc := 0 } ∧ (chan t c.val).log.programmed = (chan s c.val).log.programmed + u.slc) ∧
  (∀ s (c : Fin 32) unit page u, Running s → aget (chan s c.val).units unit = some u → gcHold s c.val = false → chanState s c.val = 2 →
    channelWork s c.val = false → ahas u.pages page = true → ∃ t, exec (.garbageCollection c unit page) s = .next t ∧ MemoriesKept s t ∧
      (∃ v, aget (chan t c.val).units unit = some v ∧ v.coarse = u.coarse ∧ ∀ g, ahas v.pages g = ahas u.pages g) ∧
      (chan t c.val).log.programmed = (chan s c.val).log.programmed + 16384) ∧
  (∀ s (c : Fin 32) unit page weak, channelWork s c.val = true → exec (.fold c unit) s = .next s ∧
    exec (.garbageCollection c unit page) s = .next s ∧ exec (.flashScrub c weak) s = .next s) ∧
  (∀ s (c : Fin 32) weak, Running s → chanState s c.val = 2 → channelWork s c.val = false →
    let l := mapOrder (chan s c.val)
    ∃ t, exec (.flashScrub c weak) s = .next t ∧ MemoriesKept s t ∧
      (chan t c.val).scrub = ((chan s c.val).scrub % max 1 l.length +
        min (fld (lv s .flCtl (flP c.val) (flJ c.val)) 31 16) l.length) % max 1 l.length) ∧
  (∀ s (c : Fin 32) reader a d u, Running s → regionOf a = .cellar → channelOf s a = c.val → chanUp s c.val = true →
    aget (chan s c.val).units (unitIdxOf s a) = some u → ahas u.pages (a % 0x400000 / 16384) = true →
    (readsFor s c.val reader a ≠ [] → ∃ x ∈ readsFor s c.val reader a, readTurn s (flP c.val) x.1 x.2 = true) →
    ∃ t, exec (.flashReadDone c reader a d) s = .next t ∧ (chan t c.val).log.readBytes = (chan s c.val).log.readBytes + 576 ∧
      (match d with
       | .hard => (chan t c.val).log.corrected = (chan s c.val).log.corrected + 1 ∧ MemoriesKept s t
       | .soft | .retry => (chan t c.val).log.soft = (chan s c.val).log.soft + 1 ∧ MemoriesKept s t
       | .failed _ => (chan t c.val).log.uncorr = (chan s c.val).log.uncorr + 1 ∧ a / 512 * 512 ∈ t.sys.poison ∧
           bit (rd t .flStatus (flP c.val) (flJ c.val)) 61 = true)) ∧
  (∀ s (c : Fin 32) f lost left, Running s → ∃ t, exec (.blockRetire c f lost left) s = .next t ∧ t.cellar = s.cellar ∧
    (chan t c.val).native = (chan s c.val).native - lost ∧ (chan t c.val).log.retired = (chan s c.val).log.retired + 1 ∧
    (chan t c.val).log.logFrame = frameNow s ∧ (chan t c.val).saved = (chan t c.val).log ∧
    fld (rd t .flStatus (flP c.val) (flJ c.val)) 23 16 = min left 100) ∧
  (∀ s (c : Fin 32), Running s → (chan s c.val).log.logFrame + 4194304 ≤ frameNow s → ∃ t, exec (.healthLogCopy c) s = .next t ∧
    MemoriesKept s t ∧ (chan t c.val).saved = { (chan s c.val).log with logFrame := frameNow s } ∧
    (chan t c.val).log = (chan t c.val).saved) ∧
  (∀ s (c : Fin 32), Running s → (chan s c.val).zq + 65536 ≤ frameNow s → ∃ t, exec (.zqCalibration c) s = .next t ∧
    MemoriesKept s t ∧ chan t c.val = { chan s c.val with zq := frameNow s }) ∧
  (∀ s (c : Fin 32) r, Running s → chanState s c.val ≤ 1 → ∃ t, exec (.channelStartup c r) s = .next t ∧
    (if keptTargets r = [] ∨ channelRate r = none then chanState t c.val = 4
     else if ((List.range 6).all fun i => stackState s (6 * (flP c.val).val + i) == 3 || stackState s (6 * (flP c.val).val + i) == 5) = false then
       chanState t c.val = 1
     else chanState t c.val = (if r.journal then 2 else 3) ∧ (chan t c.val).native = r.native ∧
       (chan t c.val).log.targets = keptMask r ∧ (∀ x, channelRate r = some x → fld (rd t .flStatus (flP c.val) (flJ c.val)) 51 40 = x.2 ∧
         fld (rd t .flStatus (flP c.val) (flJ c.val)) 55 52 = x.1) ∧
       (chan t c.val).units = (if r.journal then (chan s c.val).units else []))) ∧
  (∀ r x, x ∈ keptTargets r → x.1 < 8 ∧ x.2.profile = true ∧ x.2.pageBytes = 16384 ∧ 2048 ≤ x.2.spareBytes ∧
    (x.2.planes = 2 ∨ x.2.planes = 4) ∧ (x.2.bits = 3 ∨ x.2.bits = 4) ∧ x.2.slc = true ∧
    (∀ y ∈ keptTargets r, targetGeometry y.2 = targetGeometry x.2) ∧
    ∀ m, channelRate r = some m → m.2 ∈ x.2.rates ∧ m.2 ∈ r.trains ∧ m.2 ∈ [3600, 3200, 2400, 1600, 1200, 800] ∧
      ∀ h ∈ [3600, 3200, 2400, 1600, 1200, 800], m.2 < h → h ∈ r.trains → ∃ y ∈ keptTargets r, h ∉ y.2.rates) ∧
  (∀ s (m : FlashSense), chanState s m.chan.val = 2 →
    let t := (healthBell [m]).run s
    MemoriesKept s t ∧ (chan t m.chan.val).log = (chan s m.chan.val).log.measured (bellUs s) m ∧
    fld (rd t .flStatus (flP m.chan.val) (flJ m.chan.val)) 7 0 = min m.temp 255) ∧
  ∀ s (c : Fin 32) (target : Fin 8), Running s → nbit (chan s c.val).log.targets target.val = true →
    ∃ t, exec (.flashTargetTimeout c target false) s = .next t ∧
      (chan t c.val).log.targets = (chan s c.val).log.targets - 2 ^ target.val ∧
      bit (rd t .flStatus (flP c.val) (flJ c.val)) 60 = true ∧
      (∀ u ∈ (chan s c.val).units, ∀ g ∈ u.2.pages, g.2 = target.val → pageAddr s c.val u.1 g.1 ∈ t.sys.poison)

/-! ### The fabric -/

/-- PORT_TRAIN and LINK_LOSS (R423, R424), FLIT_RX and REPLAY_REQUEST (R426, R427), FLIT_SEND (R434, R448 to R450): an attempt to train ends UP with
what it found, or DOWN; a lost link is DOWN with DOWN_EV, its packets counted; a flit in order is taken and a bad one answered by a
request to replay; a flit that leaves holds at most 64 blocks, first packets first, no more begun than tokens last.
Where the spec leaves a point open, it follows the model's own reading: log entries 8, 79, 87 and 142. -/
def Obligations.LinksTrainAndCarryFlits : Prop :=
  (∀ s (k : Fin 12) r, Running s → bit (lv s .portCfg 0 k.val) 63 = true → portLent s k.val = false →
    fld (rd s .portStatus 0 k.val) 59 56 ≠ 5 → ∃ t, exec (.portTrain k r) s = .next t ∧ MemoriesKept s t ∧
      RegsKept s t (fun x _ i => i = k.val ∧ (x = .portStatus ∨ x = .portDelay)) ∧
      match r with
      | none => fld (rd t .portStatus 0 k.val) 59 56 = 0 ∧ t.sys = s.sys
      | some x =>
        if x.width4 = true ∧ bit (lv s .portCfg 0 k.val) 53 = false then fld (rd t .portStatus 0 k.val) 59 56 = 0 ∧ t.sys = s.sys
        else portOf t k.val = Port.reset ∧ fld (rd t .portStatus 0 k.val) 59 56 = 5 ∧
          bit (rd t .portStatus 0 k.val) 55 = (x.halfRate || bit (lv s .portCfg 0 k.val) 54) ∧
          bit (rd t .portStatus 0 k.val) 54 = x.width4 ∧ fld (rd t .portStatus 0 k.val) 51 48 = x.partnerPort % 16 ∧
          fld (rd t .portStatus 0 k.val) 39 20 = x.partnerPart % 2 ^ 20 ∧
          bit (rd t .portStatus 0 k.val) 62 = !(partnerOk s (fld (lv s .portCfg 0 k.val) 62 60) x) ∧
          (rd t .portDelay 0 k.val).toNat = x.delay % 2 ^ 32) ∧
  (∀ s (k : Fin 12), Running s → fld (rd s .portStatus 0 k.val) 59 56 = 5 → portLent s k.val = false →
    ∃ t, exec (.linkLoss k) s = .next t ∧ fld (rd t .portStatus 0 k.val) 59 56 = 0 ∧ bit (rd t .portStatus 0 k.val) 63 = true ∧
      portOf t k.val = Port.reset ∧
      fld (rd t .portErr 0 k.val) 15 0 = satAdd 16 (fld (rd s .portErr 0 k.val) 15 0) (portOf s k.val).tx.length ∧
      (psys t 0).faults.records.head?.map (·.cause) = some 0x0F) ∧
  (∀ s (k : Fin 12) crcOk seq l, Running s → fld (rd s .portStatus 0 k.val) 59 56 = 5 → portLent s k.val = false →
    (crcOk = true → seq = ((portOf s k.val).lastGood + 1) % 65536 → ∃ u,
      exec (.flitRx k crcOk seq l) s = .next ((Upd.each l (arrive k.val)).run u) ∧
      portOf u k.val = { portOf s k.val with lastGood := seq, awaitReplay := false, used := [] } ∧
      MemoriesKept s u ∧ RegsKept s u (fun _ _ _ => False)) ∧
    (crcOk = true → seq ≠ ((portOf s k.val).lastGood + 1) % 65536 → exec (.flitRx k crcOk seq l) s = .next s) ∧
    (crcOk = false → (portOf s k.val).awaitReplay = true → exec (.flitRx k crcOk seq l) s = .next s) ∧
    (crcOk = false → (portOf s k.val).awaitReplay = false → ∃ t, exec (.flitRx k crcOk seq l) s = .next t ∧
      portOf t k.val = { portOf s k.val with awaitReplay := true } ∧ MemoriesKept s t ∧
      fld (rd t .portErr 0 k.val) 31 16 = satAdd 16 (fld (rd s .portErr 0 k.val) 31 16) 1 ∧
      t.sys.out = .replayReq k.val (portOf s k.val).lastGood :: s.sys.out)) ∧
  (∀ s k pkt, packetOk pkt.body = false → ∃ t, (arrive k pkt).run s = t ∧ t.sys = s.sys ∧ MemoriesKept s t ∧
    fld (rd t .portErr 0 k) 15 0 = satAdd 16 (fld (rd s .portErr 0 k) 15 0) 1) ∧
  (∀ s k pkt, (∀ b, pkt.body ≠ .bell b) → packetOk pkt.body = true → bit (rd s .portStatus 0 k) 62 = false →
    fld (lv s .portCfg 0 k) 62 60 ≠ 0 → partId s ≠ 0xFFFFF →
    (pkt.dst = partId s → ((arrive k pkt).run s).sys.fab.rx = s.sys.fab.rx ++ [(k, pkt)]) ∧
    (pkt.dst ≠ partId s → pkt.hops < 127 → (portFor s pkt true).isSome = true →
      (arrive k pkt).run s = (enqueue pkt true (fld (lv s .portCfg 0 k) 62 60)).run s) ∧
    (pkt.dst ≠ partId s → (127 ≤ pkt.hops ∨ portFor s pkt true = none) → let t := (arrive k pkt).run s
      bit (rd t .fabStatus 0) 62 = true ∧ t.sys.fab.rx = s.sys.fab.rx ∧
      fld (rd t .portErr 0 k) 15 0 = satAdd 16 (fld (rd s .portErr 0 k) 15 0) 1)) ∧
  (∀ s (k : Fin 12) lastGood, Running s → fld (rd s .portStatus 0 k.val) 59 56 = 5 → portLent s k.val = false →
    let x := portOf s k.val
    let l := x.sent.reverse.dropWhile fun f => f.1 != (lastGood + 1) % 65536
    let n := if x.replaySeq = lastGood then x.replays + 1 else 1
    (l = [] → exec (.replayRequest k lastGood) s = .next s) ∧
    (l ≠ [] → n < 8 → ∃ t, exec (.replayRequest k lastGood) s = .next t ∧ MemoriesKept s t ∧
      portOf t k.val = { x with replays := n, replaySeq := lastGood } ∧
      t.sys.out = (l.map fun f => Out.flit k.val f.1 f.2).reverse ++ s.sys.out) ∧
    (l ≠ [] → 8 ≤ n → ∃ t, exec (.replayRequest k lastGood) s = .next t ∧ fld (rd t .portStatus 0 k.val) 59 56 = 0 ∧
      bit (rd t .portStatus 0 k.val) 63 = true)) ∧
  (∀ s (k : Fin 12), Running s → portUp s k.val = true →
    (classFor s k.val = none → exec (.flitSend k) s = .next s) ∧
    ((turnFor s k.val 0).isSome = true → (classFor s k.val).map (·.1) = some 0) ∧
    ∀ c wrr fwd v, classFor s k.val = some (c, wrr) → turnFor s k.val c = some (fwd, v) →
      let x := portOf s k.val
      let key := 8 * c + 2 * v + fwd.toNat
      let f := fillFlit (if fwd then none else portTokens s k.val c) 64 ((aget x.prog key).getD 0) (lane x c v fwd)
      ∃ t, exec (.flitSend k) s = .next t ∧ MemoriesKept s t ∧ t.sys.out = .flit k.val ((x.nextSeq + 1) % 65536) f.1 :: s.sys.out ∧
        (portOf t k.val).nextSeq = (x.nextSeq + 1) % 65536 ∧ (portOf t k.val).sent.head? = some ((x.nextSeq + 1) % 65536, f.1) ∧
        (∃ more, (portOf t k.val).tx = f.1.foldl (fun l p => l.erase (fwd, p)) x.tx ++ more ∧ (s.sys.fab.waiting = [] → more = [])) ∧
        aget (portOf t k.val).turn c = some fwd) ∧
  ∀ tok room prog l, let f := fillFlit tok room prog l
    f.1 <+: l ∧ (f.1.map packetBlocks).sum + f.2.1 ≤ room + prog ∧ ∀ m, tok = some m → f.2.2 ≤ m

/-- NOTICE (R513), MEM_RD and MEM_WR (R322, R429, R437), COMPL and REQUEST_REISSUE (R429, R456), CMD (R428), CREDIT and
CREDIT_RETURN_UNUSED (R438, R439): a packet delivered is taken and acted on. A request of a peer that lists the tenant, for memory it may
use, is performed and completed; one of a sender that does not is completed NOT_BOUND.
Where the spec leaves a point open, it follows the model's own reading: log entries 19, 34, 79 and 80. -/
def Obligations.PacketsAreActedOn : Prop :=
  (∀ s (k : Fin 12) pkt, Running s → (k.val, pkt) ∈ s.sys.fab.rx →
    let u : State := { s with sys := { s.sys with fab := { s.sys.fab with rx := s.sys.fab.rx.erase (k.val, pkt) } } }
    (∀ b, pkt.body = .notice b → exec (.notice k pkt) s = .next ((noticeToRing b).run u)) ∧
    (∀ h a n, pkt.body = .memRd h a n → (∀ i, peerOf s pkt.src = some i → peerLists s i pkt.ten = false) →
      exec (.memRd k pkt) s = .next ((complete pkt stNotBound 0 false []).run u)) ∧
    (∀ h a d, pkt.body = .memWr h a d → (∀ i, peerOf s pkt.src = some i → peerLists s i pkt.ten = false) →
      exec (.memWr k pkt) s = .next ((complete pkt stNotBound 0 false []).run u)) ∧
    (∀ a n i, pkt.body = .memRd false a n → peerOf s pkt.src = some i → peerLists s i pkt.ten = true → regionOf a ≠ .control →
      pkt.hostSrc = false → meterFor s ((ownerOf s (unalias s a)).getD 0) pkt.ten pkt.cls.val = none →
      peerAccess s pkt a n false = .ok → cohHeld s a n false = [] → s.sys.coh.waits = [] → poisonIn s a n = none →
      exec (.memRd k pkt) s = .next ((complete pkt stOk n false (memBytes s a n)).run ((chargeRead s pkt.ten a n).run u))) ∧
    (∀ a d i, pkt.body = .memWr false a d → peerOf s pkt.src = some i → peerLists s i pkt.ten = true → regionOf a ≠ .control →
      fanAt a = none → pkt.hostSrc = false → meterFor s ((ownerOf s (unalias s a)).getD 0) pkt.ten pkt.cls.val = none →
      peerAccess s pkt a d.length true = .ok → cohHeld s a d.length true = [] → s.sys.coh.waits = [] →
      ∃ v t, exec (.memWr k pkt) s = .next t ∧ t = (complete pkt stOk d.length false []).run v ∧
        t.mem = Mem.writeBytes s.mem (unalias s a) d ∧ t.win = s.win ∧ t.cellar = s.cellar) ∧
    (∀ st n data o, pkt.body = .compl st n data → s.sys.fab.outst.find? (fun o => o.tag == pkt.tag && o.dst == pkt.src) = some o →
      ∃ t, exec (.compl k pkt) s = .next t ∧
        if st = stRetry then t.sys.fab.outst = s.sys.fab.outst.map fun x => if x = o then { x with again := true, frame := frameNow s } else x
        else match o.why with
          | .reply _ _ _ | .credit _ _ => t = if st = stOk then (replyRest o.why).run ((outDone o).run u) else (writeLost o).run u
          | .dmaWrite p j no => t = (dmaWriteBack p j no st).run ((outDone o).run u)
          | .dmaRead p j => t = (dmaReadBack p j o.pkt st data).run ((outDone o).run u)
          | .hostWindow ld => ∀ h a m, o.pkt.body = .memRd h a m →
              t.sys.out = .hostData ld o.tag (decide (st ≠ stOk)) (if st = stOk then data else zeros m) :: s.sys.out) ∧
    (∀ bs i r, pkt.body = .cmd bs → peerOf s pkt.src = some i → fabricRing s pkt.dstPartition = some r →
      let p := pkt.dstPartition
      let base := (ringSlots (rd s .ringCfg p r)).1
      let n := (ringSlots (rd s .ringCfg p r)).2
      let w := (psys s p).landed.countP (·.ring == r)
      let turn := (aget (psys s p).ringNext r).getD 0 + w
      let slot := base + turn % n
      ∃ t, exec (.cmd k pkt) s = .next t ∧ t.mem = s.mem ∧ t.cellar = s.cellar ∧
        if w < n then t.win = Mem.writeBytes s.win (p.val * 0x400000 + slot * 0x2000) (bs.take 4160) ∧
          (psys t p).landed = (psys s p).landed ++ [⟨slot, r, frameNow s, turn, rd s .ringCfg p r, true, pkt.src, 0, pkt.ten⟩] ∧ RegsKept s t (fun _ _ _ => False)
        else t.win = s.win ∧ (psys t p).landed = (psys s p).landed ∧
          fld (rd t .portErr 0 k.val) 15 0 = satAdd 16 (fld (rd s .portErr 0 k.val) 15 0) 1) ∧
    (∀ c rq grant dp n i, pkt.body = .credit c rq grant dp n → peerOf s pkt.src = some i →
      (grant = false → ∃ v, exec (.credit k pkt) s = .next (serveAsks.run v) ∧ MemoriesKept s v ∧
        v.sys.fab.asks = s.sys.fab.asks ++ [⟨i, rq, c.val, dp.val, n⟩]) ∧
      (grant = true → s.sys.fab.held.any (heldFor pkt.src rq c.val dp.val) = false →
        exec (.credit k pkt) s = .next ((creditBack pkt.src rq c.val dp.val n).run u)) ∧
      (grant = true → s.sys.fab.held.any (heldFor pkt.src rq c.val dp.val) = true → n ≠ 0 → ∃ v,
        exec (.credit k pkt) s = .next ((sendHeld pkt.src i rq c.val dp.val).run v) ∧
        creditsHeld v i rq c.val dp.val = creditsHeld s i rq c.val dp.val + n))) ∧
  (∀ s pkt st n poison data j role b, partId s ≠ 0xFFFFF →
    let q := { mkPacket s pkt.cls.val pkt.src pkt.ten 0 (.compl st n data) with tag := pkt.tag, poison }
    portFor s q false = some j → j < 12 → nextBundle s pkt.src = some (role, b) → ∃ x rest,
      (portOf ((complete pkt st n poison data).run s) j).tx = (portOf s j).tx ++ (false, x) :: rest ∧
      x = { q with vl := laneAcross s q role j 0, hops := 1 }) ∧
  (∀ s b, bit (lv s .crierCfg 0) 5 = false →
    let a := unalias s (fld (lv s .crierRing 0) 49 0 + leAt b 0 8 % 2 ^ (fld (lv s .crierCfg 0) 4 0) * 64)
    (regionOf a = .loft ∨ regionOf a = .pantry) → rangeBound s 0 a 64 = true →
    ((noticeToRing b).run s).mem = Mem.writeBytes s.mem a b ∧
    fld (rd ((noticeToRing b).run s) .crierCount 0) 15 0 = satAdd 16 (fld (rd s .crierCount 0) 15 0) 1) ∧
  (∀ s tag, Running s → exec (.requestReissue tag) s = .next
    (match s.sys.fab.outst.find? fun o => o.tag == tag && o.again && decide (o.frame < frameNow s) with
      | some o => (Upd.seq [outMod o false, sendCredited o.pkt]).run s
      | none => s)) ∧
  ∀ s peer rq (cls dp : Fin 4) c, Running s → s.sys.fab.credits.find? (fun c => creditIs c peer rq cls.val dp.val) = some c → c.count ≠ 0 →
    if c.used + 64 ≤ frameNow s then
      let part := fld ((aget s.sys.fab.peers0Live peer).getD 0) 19 0
      ∃ v, exec (.creditReturnUnused peer rq cls dp) s =
        .next ((enqueue (mkPacket s cls.val part 0 dp.val (.credit cls rq true dp c.count)) false 0).run v) ∧
        creditsHeld v peer rq cls.val dp.val = 0 ∧ MemoriesKept s v
    else exec (.creditReturnUnused peer rq cls dp) s = .next s

/-! ### Hosts and coherence -/

/-- HOST_WINDOW_WRITE (R444, R487, R553), HOST_LINK_CHANGE, LD_ACTIVE_CHANGE (R476, Table 14.21), HOST_CXL_MEM_REQUEST (R353, R467) and
HOST_PERST_N (Table 20.2). A window access of an enabled logical device is performed as its tenant's on this part and carried to another;
without IDE where it is required it is discarded and counted; a memory request goes to the home of its line, and one outside every extent
gets poison.
Where the spec leaves a point open, it follows the model's own reading: log entries 33, 34, 35 and 92. -/
def Obligations.HostsAreServed : Prop :=
  (∀ s (ld : Fin 16) secure bar2 off len data, Running s → bit (rd s .hostCfg 0) 63 = true → fld (rd s .hostStatus 0) 63 60 = 2 →
    bit (rd s .hostStatus 0) ld.val = true →
    (bit (lv s .secCtl 0) 0 = false →
      let pos := if bar2 = true then off / 0x4000000 else off / 0x1000000
      let o := if bar2 = true then off % 0x4000000 else off / 0x400000 % 4 * 0x1000000 + 0x400000 + off % 0x400000
      let x := unit s 11 ld.val
      let me : Accessor := ⟨.host ld, if x.state = .bound then some x.tenant else none, partId s, 0, x.tenant⟩
      pos < 16 →
      (data ≠ [] → pos = partId s % 16 → exec (.hostWindowWrite ld secure bar2 off len data) s = .next ((ctlWrite me o data).run s)) ∧
      (data = [] → bar2 = true → pos = partId s % 16 → exec (.hostWindowWrite ld secure bar2 off len data) s =
        .next ((ctlRead me o len fun d => emit (.hostData ld.val 0 false d)).run s)) ∧
      (data = [] → bar2 = false → ∃ t bs, exec (.hostWindowWrite ld secure bar2 off len data) s = .next t ∧ MemoriesKept s t ∧
        RegsKept s t (fun _ _ _ => False) ∧ bs.length = len ∧ t.sys.out = .hostData ld.val 0 false bs :: s.sys.out) ∧
      (data ≠ [] → pos ≠ partId s % 16 → exec (.hostWindowWrite ld secure bar2 off len data) s =
        .next ((Upd.each (indexed (chunks 1024 data)) fun c =>
          windowSend ld.val pos (.memWr false (0x30000000000 + o + 1024 * c.1) c.2)).run s)) ∧
      (data = [] → bar2 = true → pos ≠ partId s % 16 → exec (.hostWindowWrite ld secure bar2 off len data) s =
        .next ((windowSend ld.val pos (.memRd false (0x30000000000 + o) len)).run s))) ∧
    (bit (lv s .secCtl 0) 0 = true → secure = false → ∃ t, exec (.hostWindowWrite ld secure bar2 off len data) s = .next t ∧
      MemoriesKept s t ∧ t.sys = s.sys ∧ RegsKept s t (fun r _ _ => r = .secStatus) ∧
      fld (rd t .secStatus 0) 47 32 = satAdd 16 (fld (rd s .secStatus 0) 47 32) 1)) ∧
  (∀ s ld pos b, (unit s 11 ld).state ≠ .bound → (windowSend ld pos b).run s = ctlDenied.run s) ∧
  (∀ s link (speed : Fin 3) w8, Running s → bit (rd s .hostCfg 0) 63 = true →
    ∃ t, exec (.hostLinkChange link speed w8) s = .next t ∧
      fld (rd t .hostStatus 0) 63 60 = (match link with | .down => 0 | .training => 1 | .l0 => 2) ∧
      fld (rd t .hostStatus 0) 59 58 = speed.val ∧ bit (rd t .hostStatus 0) 57 = w8 ∧
      (fld (rd s .hostStatus 0) 63 60 ≠ 2 → MemoriesKept s t ∧ t.sys = s.sys)) ∧
  (∀ s (ld : Fin 16) on, Running s → bit (rd s .hostCfg 0) 63 = true →
    (ld.val < fld (rd s .hostCfg 0) 36 32 → ∃ t, exec (.ldActiveChange ld on) s = .next t ∧ bit (rd t .hostStatus 0) ld.val = on ∧
      (on = true → MemoriesKept s t ∧ t.sys = s.sys)) ∧
    (fld (rd s .hostCfg 0) 36 32 ≤ ld.val → exec (.ldActiveChange ld on) s = .next s)) ∧
  (∀ s (ld : Fin 16) secure req dpa, Running s → bit (rd s .hostCfg 0) 63 = true → fld (rd s .hostStatus 0) 63 60 = 2 →
    bit (rd s .hostStatus 0) ld.val = true → bit (lv s .secCtl 0) 0 = false →
    (ownLine s ld.val dpa = none → farLine s ld.val dpa = none → ∃ t, exec (.hostCxlMemRequest ld secure req dpa) s = .next t ∧
      MemoriesKept s t ∧ bit (rd t .memErrStatus 0) 61 = true ∧
      ∀ mt, req = .memRd mt → t.sys.out = .hostData ld.val 0 true (zeros 64) :: s.sys.out) ∧
    (∀ x, ownLine s ld.val dpa = some x →
      (∀ mt, req = .memRd mt → exec (.hostCxlMemRequest ld secure req dpa) s =
        .next ((Upd.seq [cohRd x.dom x.agent 0 x.line mt, peerRetry]).run s)) ∧
      (∀ mt data, req = .memWr mt data → exec (.hostCxlMemRequest ld secure req dpa) s =
        .next ((Upd.seq [cohWr x.dom x.agent 0 x.line mt data, peerRetry]).run s)) ∧
      (req = .clnEvct → exec (.hostCxlMemRequest ld secure req dpa) s = .next ((Upd.seq [cohCln x.dom x.agent 0 x.line, peerRetry]).run s)) ∧
      (∀ mt, req = .snoopAnswer mt → exec (.hostCxlMemRequest ld secure req dpa) s =
        .next ((snoopAnswered x ld.val (.seq [cohRsp x.dom x.agent x.line mt, peerRetry])).run s))) ∧
    (∀ x, ownLine s ld.val dpa = none → farLine s ld.val dpa = some x → x.home ≠ partId s →
      (∀ mt, req = .memRd mt → exec (.hostCxlMemRequest ld secure req dpa) s = .next ((hostAsk x .hRd mt []).run s)) ∧
      (∀ mt data, req = .memWr mt data → exec (.hostCxlMemRequest ld secure req dpa) s = .next ((hostAsk x .hWr mt (padTo 64 data)).run s)) ∧
      (req = .clnEvct → exec (.hostCxlMemRequest ld secure req dpa) s = .next ((hostAsk x .hCln .invalid []).run s)))) ∧
  ∀ s level, exec (.hostPerstN level) s =
    .next (if bit (rd s .hostCfg 0) 63 = true then (pinMod fun x => { x with hostPerst := level }).run s else s)

/-- H_RD, H_WR, H_CLN, BI_RSP, FAIL at a home, H_DATA, H_CMP, BI_SNP at a bridge (Table 16.5, R467), BI_TIMEOUT (R470, R477). Where no
transaction is under way and nobody else holds the line: a read to own gives the bytes and makes the agent the owner; an owner's write
stores the line and gives it up; an eviction takes the holder off. An agent that has not answered in its time fails the domain.
Where the spec leaves a point open, it follows the model's own reading: log entries 53 and 145. -/
def Obligations.LinesAreKeptCoherent : Prop :=
  (∀ s (k : Fin 12) pkt mt a line b, Running s → (k.val, pkt) ∈ s.sys.fab.rx →
    let u : State := { s with sys := { s.sys with fab := { s.sys.fab with rx := s.sys.fab.rx.erase (k.val, pkt) } } }
    (∀ r d w, regionAt s line = some r → domOf s r.dom = some d → agentOf d a = some w → agHost w = true → agPart w = pkt.src →
      (pkt.body = .coh .hRd mt a line b → exec (.hRd k pkt) s = .next ((cohRd d a pkt.tag line mt).run u)) ∧
      (pkt.body = .coh .hWr mt a line b → exec (.hWr k pkt) s = .next ((Upd.seq [cohWr d a pkt.tag line mt b, peerRetry]).run u)) ∧
      (pkt.body = .coh .hCln mt a line b → exec (.hCln k pkt) s = .next ((Upd.seq [cohCln d a pkt.tag line, peerRetry]).run u)) ∧
      (pkt.body = .coh .biRsp mt a line b → exec (.biRsp k pkt) s = .next ((Upd.seq [cohRsp d a line mt, peerRetry]).run u))) ∧
    (∀ r d, regionAt s line = some r → domOf s r.dom = some d → d.failed = false → agentOf d a = none →
      pkt.body = .coh .hRd mt a line b → ∃ t, exec (.hRd k pkt) s = .next t ∧
        (domOf t d.id).map (fun x => (x.failed, x.cause)) = some (true, 4)) ∧
    (∀ d w, (s.sys.coh.doms.find? fun d => d.tenant == pkt.ten && (agentIdx d pkt.src).isSome &&
        (match agentOf d a with | some w => agHost w && agPart w == partId s | none => false)) = some d → agentOf d a = some w →
      (pkt.body = .coh .hData mt a line b → ∃ t, exec (.hData k pkt) s = .next t ∧
        t.sys.out = .hostData (agLd w) pkt.tag pkt.poison b :: s.sys.out ∧ MemoriesKept s t ∧ RegsKept s t fun _ _ _ => False) ∧
      (pkt.body = .coh .hCmp mt a line b → ∃ t, exec (.hCmp k pkt) s = .next t ∧
        t.sys.out = .hostData (agLd w) pkt.tag false [] :: s.sys.out ∧ MemoriesKept s t ∧ RegsKept s t fun _ _ _ => False) ∧
      (pkt.body = .coh .biSnp mt a line b → ∃ t, exec (.biSnp k pkt) s = .next t ∧
        t.sys.out = .hostSnoop (agLd w) line (mt == .shared) :: s.sys.out ∧
        t.sys.coh.asked = (pkt.src, a, line, agLd w) :: s.sys.coh.asked ∧ MemoriesKept s t ∧ RegsKept s t fun _ _ _ => False)) ∧
    (∀ d, pkt.body = .coh .fail mt a line b → domOf s (byteAt b 0) = some d → d.failed = false →
      ∃ t, exec (.fail k pkt) s = .next t ∧ (domOf t d.id).map (fun x => (x.failed, x.cause, x.agent, x.failFrame)) =
        some (if (d.agents.any fun w => w.map agPart == some pkt.src) = true then (true, 7, byteAt b 2, frameNow s)
          else (true, 4, 0xFF, frameNow s)))) ∧
  (∀ s r d a tag line, regionAt s line = some r → r.dom = d.id → domOf s d.id = some d → s.sys.coh.txns = [] →
    lineSt s line = none → dirUsed s (lineP line) < 4194304 → extAccess s r d a line 64 false = .ok →
    let t := (cohRd d a tag line .any).run s
    lineSt t line = some (.owned a) ∧ MemoriesKept s t ∧ t.sys.coh.txns = [] ∧
    ∀ w, agentOf d a = some w → agPart w = partId s → ∃ x,
      t.sys.out = .hostData (agLd w) tag x (memBytes s line 64) :: s.sys.out ∧ x = (poisonIn s line 64).isSome) ∧
  (∀ s r d a tag line data, regionAt s line = some r → r.dom = d.id → domOf s d.id = some d → s.sys.coh.txns = [] →
    lineSt s line = some (.owned a) → extAccess s r d a line 64 true = .ok →
    let t := (cohWr d a tag line .invalid data).run s
    lineSt t line = none ∧ t.mem = Mem.writeBytes s.mem (unalias s line) (padTo 64 data) ∧ t.win = s.win ∧ t.cellar = s.cellar ∧
    t.sys.coh.txns = []) ∧
  (∀ s d a tag line, s.sys.coh.txns = [] → a ∈ holdersOf (lineSt s line) → let t := (cohCln d a tag line).run s
    lineSt t line = without a (lineSt s line) ∧ MemoriesKept s t) ∧
  (∀ s line a n r d, Running s → ((s.sys.coh.txns.find? fun t => t.line == line && t.begun).bind fun t => t.snoops.find? fun n => n.agent == a)
      = some n → regionAt s line = some r → domOf s r.dom = some d → ∀ f, n.sent = some f →
    if frameNow s < f + fld (lv s .cohCtl (lineP line)) 7 0 then exec (.biTimeout line a) s = .next s
    else ∃ v, exec (.biTimeout line a) s = .next ((Upd.seq [snoopDone line a, snoopMore, cohRun, peerRetry]).run v) ∧
      (d.failed = false → (domOf v d.id).map (fun x => (x.failed, x.cause, x.agent, x.dead)) = some (true, 2, a, if a = 0xFF then [] else [a])))

/-- DOM_DEFINE, DOM_FAIL, DOM_ARM, DOM_ARM_COMPLETE, DOM_READ (R462, R476, R480, R481, Table 16.1), REGION_DEFINE and REGION_FREE (R463, R464): a
domain is defined with its agents for the next Bell; a re-arming zeroes the regions that ask for it, clears LOST, and is armed without the
dropped agents when it completes; a region takes an unused ID; one being freed waits for its last user.
Where the spec leaves a point open, it follows the model's own reading: log entries 50 and 52. -/
def Obligations.DomainsAndRegionsAreKept : Prop :=
  (∀ s p c, Held s p 0x0801 c → ∃ t, exec (.domDefine p c.ref) s = .next t ∧ Ended t p c ∧
    t.sys.coh.doms = s.sys.coh.doms ++ [⟨par c 0 1, par c 2 2, (domEntries c).map some, some (frameNow s + 1), false, 0, 0xFF, false, 0, [],
      none, 0, 0, 0⟩]) ∧
  (∀ s p c d, Held s p 0x0802 c → domOf s (par c 0 1) = some d → d.failed = false → ∃ t, exec (.domFail p c.ref) s = .next t ∧ Ended t p c ∧
    (domOf t (par c 0 1)).map (fun x => (x.failed, x.cause, x.agent, x.failFrame)) = some (true, 3, par c 1 1, frameNow s)) ∧
  (∀ s p c d, Held s p 0x0803 c → domOf s (par c 0 1) = some d → (∀ w ∈ (psys s p).walks, w.ref ≠ c.ref) →
    let rs := (armEntries c).filterMap fun e => (regOf s e.1).map (·, e.2 == 1)
    ∃ t, exec (.domArm p c.ref) s = .next t ∧ cmdOf t p c.ref = some { c with phase := .running } ∧ t.win = s.win ∧ t.cellar = s.cellar ∧
      domOf t (par c 0 1) = some { d with
        arming := some (p, c.ref)
        keep := par c 8 8
        armLost := (rs.map fun r => lostIn s r.1).sum
        armZeroed := ((rs.filter (·.2)).map fun r => r.1.bytes).sum } ∧
      (∀ a, Mem.read t.mem a = if (rs.any fun r => r.2 && decide (r.1.base ≤ a) && decide (a < r.1.base + r.1.bytes)) = true then 0
        else Mem.read s.mem a) ∧
      ∀ r ∈ rs, ∀ l, r.1.base ≤ l → l < r.1.base + r.1.bytes → (aget t.sys.coh.dir l).map (·.st) ≠ some .lost) ∧
  (∀ s id d p ref, Running s → domOf s id = some d → d.arming = some (p, ref) → ∃ t, exec (.domArmComplete id) s = .next t ∧
    domOf t id = some { d with
      agents := (indexed d.agents).map fun a => if nbit d.keep a.1 then a.2 else none
      failed := false
      dirCleared := false
      dead := []
      arming := none } ∧ cmdOf t p ref = none) ∧
  (∀ s p c d, Held s p 0x0804 c → domOf s (par c 0 1) = some d → ∃ b u, exec (.domRead p c.ref) s = .next ((postReply p c stOk 0 b).run u) ∧
    MemoriesKept s u ∧ RegsKept s u (fun _ _ _ => False) ∧ b.length = 32 ∧ byteAt b 0 = d.failed.toNat ∧ byteAt b 3 = d.dirCleared.toNat ∧
    leAt b 24 8 = ((domRegions s d.id).map (lostIn s)).sum % 2 ^ 64 ∧
    (d.failed = true → byteAt b 1 = d.cause % 256 ∧ byteAt b 2 = d.agent % 256 ∧ leAt b 8 6 = d.failFrame % 2 ^ 48)) ∧
  (∀ s p c, Held s p 0x0805 c → ∃ t id, exec (.regionDefine p c.ref) s = .next t ∧ Ended t p c ∧
    ((∃ i, i < 65536 ∧ regTaken s i = false) → id < 65536 ∧ regTaken s id = false) ∧
    t.sys.coh.regions = s.sys.coh.regions ++ [⟨id, p, par c 0 1, c.tenant, par c 8 8, par c 16 8, nbit (par c 1 1) 0, some (frameNow s + 1),
      none, false⟩]) ∧
  (∀ s p c r, Held s p 0x0806 c → regOf s (par c 0 2) = some r → (∀ w ∈ (psys s p).walks, w.ref ≠ c.ref) →
    ∃ t, exec (.regionFree p c.ref) s = .next t ∧ MemoriesKept s t ∧ RegsKept s t (fun _ _ _ => False) ∧
      regOf t (par c 0 2) = some { r with freeing := some (c.ref + 1) } ∧ cmdOf t p c.ref = some { c with phase := .running }) ∧
  ∀ s r n, r.opening = none → r.freeing.isSome = true → regOf s r.id = some r →
    if regionUsed s r = true then (regionBell n r).run s = s
    else regOf ((regionBell n r).run s) r.id = none ∧ MemoriesKept s ((dirDrop r fun _ => true).run s)

/-- EXT_ADD, EXT_RELEASE, DCD_ADD_RESPONSE, HOST_CAPACITY_RELEASE, EXTENT_DRAIN_END, REVOKE_WINDOW_END and EXT_READ (R472 to R475,
Table 16.6): an extent is added at a map epoch and offered to its host, which accepts or declines it; a release waits for the host to give
the capacity back and for what is in flight; a forced release frees it at once for 64 frames of REVOKED.
Where the spec leaves a point open, it follows the model's own reading: log entries 50, 51, 144 and 145. -/
def Obligations.ExtentsComeAndGo : Prop :=
  (∀ s p c, Held s p 0x0807 c → (∀ w ∈ (psys s p).walks, w.ref ≠ c.ref) → ∃ t e, exec (.extAdd p c.ref) s = .next t ∧
    ((∃ i, i < 65536 ∧ extOf s i = none) → e.id < 65536 ∧ extOf s e.id = none) ∧ t.sys.coh.exts = s.sys.coh.exts ++ [e] ∧
    (e.region, e.holder, e.rw, e.offset, e.bytes, e.dpa, e.released) =
      (par c 0 2, par c 2 1, par c 3 1 == 1, par c 8 8, par c 16 8, par c 24 8, false) ∧
    (∀ r, regOf s (par c 0 2) = some r → e.dom = r.dom ∧ e.base = r.base + par c 8 8) ∧
    if entryAudience s (extEntry s e) = [] then e.st = (if extHost s e = true then .offered else .active) ∧ Ended t p c ∧
      fld (rd t .bindStatus 0) 47 0 = frameNow s
    else e.st = .pending ∧ e.cmd = some (p, c.ref) ∧ MemoriesKept s t ∧
      t.sys.bind.keeping.length = s.sys.bind.keeping.length + 1 ∧ cmdOf t p c.ref = some { c with phase := .running }) ∧
  (∀ s p c e, Held s p 0x0808 c → extNow s (par c 0 2) = some e →
    (nbit (par c 2 1) 0 = false → (∀ w ∈ (psys s p).walks, w.ref ≠ c.ref) → ∃ t, exec (.extRelease p c.ref) s = .next t ∧ MemoriesKept s t ∧
      extOf t (par c 0 2) = some { e with st := if e.st = .offered then .leaving else .releasing, cmd := some (p, c.ref) } ∧
      cmdOf t p c.ref = some { c with phase := .running }) ∧
    (nbit (par c 2 1) 0 = true → ∃ t, exec (.extRelease p c.ref) s = .next t ∧ Ended t p c ∧
      extOf t (par c 0 2) = some { e with st := .revoked (frameNow s), cmd := none })) ∧
  (∀ s (ld : Fin 16) ext accept e r d w, Running s → extNow s ext = some e → extFacts s e = some (r, d, w) → agHost w = true →
    agLd w = ld.val → e.st = .offered → ∃ t, exec (.dcdAddResponse ld ext accept) s = .next t ∧ MemoriesKept s t ∧
      extOf t ext = some { e with st := if accept = true then .active else .leaving }) ∧
  (∀ s (ld : Fin 16) ext e r d w, Running s → extNow s ext = some e → extFacts s e = some (r, d, w) → agHost w = true →
    agLd w = ld.val → e.st = .releasing → ∃ t, exec (.hostCapacityRelease ld ext) s = .next t ∧ MemoriesKept s t ∧
      extOf t ext = some { e with released := true }) ∧
  (∀ s ext e r d w, Running s → extNow s ext = some e → extFacts s e = some (r, d, w) → e.st = .releasing →
    (agHost w = true → e.released = true) → s.sys.coh.txns = [] → s.sys.coh.waits = [] →
    (∀ x ∈ s.sys.coh.dir, extHolds r e x.1 = true → e.holder ∉ holdersOf (some x.2.st)) →
    ∃ t, exec (.extentDrainEnd ext) s = .next t ∧ MemoriesKept s t ∧ extOf t ext = some { e with st := .leaving } ∧
      t.sys.bind.keeping.length = s.sys.bind.keeping.length + 1) ∧
  (∀ s ext e f, Running s → extOf s ext = some e → e.st = .revoked f →
    if f + 64 ≤ frameNow s then ∃ t, exec (.revokeWindowEnd ext) s = .next t ∧ extOf t ext = none ∧
      (∀ id, id ≠ ext → extOf t id = extOf s id) ∧ MemoriesKept s t ∧ RegsKept s t (fun _ _ _ => False)
    else exec (.revokeWindowEnd ext) s = .next s) ∧
  ∀ s p c, Held s p 0x0809 c → ∃ b, exec (.extRead p c.ref) s = .next ((postReply p c stOk 0 b).run s) ∧ b.length = 32 ∧
    match extNow s (par c 0 2) with
    | none => b.drop 1 = zeros 31
    | some e => byteAt b 1 = e.holder % 256 ∧ byteAt b 2 = e.rw.toNat ∧ leAt b 4 2 = e.region % 2 ^ 16 ∧
      leAt b 8 8 = e.offset % 2 ^ 64 ∧ leAt b 16 8 = e.bytes % 2 ^ 64

/-! ### Binding and the map -/

/-- BIND, BIND_DRAIN_END, UNIT_SCRUB, BIND_EPOCH, BIND_READ and LEDGER_READ (R490 to R494, R499, Table 17.4): the units of a BIND drain from
its unbind epoch; a unit no command uses is scrubbed; the drain's end ends its last users; when every unit is scrubbed they enter BOUND
under the new tenant, or UNBOUND, and BIND posts.
Where the spec leaves a point open, it follows the model's own reading: log entries 56, 90, 143 and 146. -/
def Obligations.UnitsAreBound : Prop :=
  (∀ s p c, Held s p 0x0A01 c → ∃ u r, exec (.bind p c.ref) s = .next ((drainStep r).run u) ∧ rebindOf u p c.ref = some r ∧
    MemoriesKept s u ∧ fld (rd u .bindStatus 0) 47 0 = frameNow s ∧
    cmdOf u p c.ref = some { c with phase := .running, admFrame := frameNow s } ∧
    (rebindOf s p c.ref = none → r = ⟨p, c.ref, bindUnbind c, bindTenant c, bindUnits c, frameNow s, frameNow s + drainFrames s, false, 0⟩) ∧
    ∀ x ∈ bindUnits c, (x.1, x.2.1) ∉ s.fuse.disabled → (unit u x.1 x.2.1).state = .draining ∧ (unit u x.1 x.2.1).since = frameNow s) ∧
  (∀ s p r, Running s → rebindOf s p r.ref = some r →
    if r.drained = false ∧ r.drainEnd ≤ frameNow s then ∃ t, exec (.bindDrainEnd p r.ref) s = .next t ∧ t = (drainEnd r).run s ∧
      (rebindOf t p r.ref).map (·.drained) = some true
    else exec (.bindDrainEnd p r.ref) s = .next s) ∧
  (∀ s kind idx, Running s →
    if (unit s kind idx).state = .draining ∧ unitIdle s kind idx = true then
      ∃ t, exec (.unitScrub kind idx) s = .next t ∧ (unit t kind idx).state = .scrubbing ∧ (unit t kind idx).since = frameNow s ∧
        (kind = 3 ∨ kind = 8 → t.win = s.win ∧ t.cellar = s.cellar ∧ ∀ a, Mem.read t.mem a =
          if (unitRange s kind idx).1 ≤ a ∧ a < (unitRange s kind idx).1 + (unitRange s kind idx).2 then 0 else Mem.read s.mem a)
    else exec (.unitScrub kind idx) s = .next s) ∧
  (∀ s p r, Running s → rebindOf s p r.ref = some r →
    if allScrubbed s r = true then ∃ t, exec (.bindEpoch p r.ref) s = .next t ∧ rebindOf t p r.ref = none ∧ cmdOf t p r.ref = none ∧
      fld (rd t .bindCount 0) 63 32 = satAdd 32 (fld (rd s .bindCount 0) 63 32) 1 ∧ fld (rd t .bindStatus 0) 47 0 = frameNow s ∧
      ∀ x ∈ r.units, (unit t x.1 x.2.1).state = (if r.unbind = true then .unbound else .bound) ∧
        (unit t x.1 x.2.1).tenant = (if r.unbind = true then 0 else r.tenant) ∧ (unit t x.1 x.2.1).since = frameNow s ∧
        (x.1 = 10 → r.unbind = false → fld (rd t .ringCfg (toP (x.2.1 / 32)) (x.2.1 % 32)) 43 32 = r.tenant % 4096)
    else exec (.bindEpoch p r.ref) s = .next s) ∧
  (∀ s p c, Held s p 0x0A02 c → exec (.bindRead p c.ref) s = .next ((postReply p c stOk 0 ((readEntry c).indices.flatMap fun i =>
    let u := unit s (readEntry c).kind i
    natLE 2 u.tenant ++ natLE 1 (unitStateCode u.state) ++ zeros 1 ++ natLE 6 u.since ++ zeros 6)).run s)) ∧
  ∀ s p c, Held s p 0x0A03 c → exec (.ledgerRead p c.ref) s = .next ((postReply p c stOk 0 (natLE 6 (fld (rd s .ledgerSnap 0) 47 0) ++
    zeros 2 ++ (List.range (par c 2 2)).flatMap fun i => (List.range 16).flatMap fun j =>
      natLE 8 ((aget s.sys.bind.snapshot (16 * (par c 0 2 + i) + j)).getD 0))).run s)

/-- PREP, ACK, COMMIT, DEFER, ABORT, MAP_SETTLE and MAP_UNSETTLED (R495 to R498): a change is held from its PREP and acknowledged, committed at
its epoch, moved, dropped, or marked unsettled 64 frames after; the keeper commits one Bell ahead once every ACK is in.
Where the spec leaves a point open, it follows the model's own reading: log entry 49. -/
def Obligations.MapChangesAreAgreed : Prop :=
  (∀ s (k : Fin 12) pkt seq e es, Running s → (k.val, pkt) ∈ s.sys.fab.rx →
    (pkt.body = .map .prep seq e es → ∃ v, exec (.prep k pkt) s = .next ((mapSend pkt.src .ack seq 0 []).run v) ∧ MemoriesKept s v ∧
      heldOf v pkt.src seq = some ⟨pkt.src, seq, es, frameNow s, none, false, false⟩ ∧
      ∀ q n, (q, n) ≠ (pkt.src, seq) → heldOf v q n = heldOf s q n) ∧
    (pkt.body = .map .ack seq e es → ∃ t, exec (.ack k pkt) s = .next t ∧ MemoriesKept s t ∧ RegsKept s t (fun _ _ _ => False) ∧
      t.sys.bind.keeping = s.sys.bind.keeping.map fun x =>
        if x.seq = seq ∧ pkt.src ∈ x.audience ∧ pkt.src ∉ x.acks then { x with acks := x.acks ++ [pkt.src], lastAck := frameNow s } else x) ∧
    (∀ h, pkt.body = .map .commit seq e es → heldOf s pkt.src seq = some h →
      let h' := { h with epoch := some e, committed := true, unsettled := false }
      if e ≤ frameNow s then ∃ u, exec (.commit k pkt) s = .next ((heldApply h').run u) ∧ u.sys.bind = s.sys.bind ∧
        heldOf ((heldApply h').run u) pkt.src seq = none ∧ fld (rd ((heldApply h').run u) .bindStatus 0) 47 0 = e % 2 ^ 48
      else ∃ t, exec (.commit k pkt) s = .next t ∧ MemoriesKept s t ∧ heldOf t pkt.src seq = some h') ∧
    (∀ h, pkt.body = .map .defer seq e es → heldOf s pkt.src seq = some h → ∃ t, exec (.defer k pkt) s = .next t ∧ MemoriesKept s t ∧
      RegsKept s t (fun _ _ _ => False) ∧ heldOf t pkt.src seq = some { h with epoch := some e }) ∧
    (pkt.body = .map .abort seq e es → ∃ t, exec (.abort k pkt) s = .next t ∧ MemoriesKept s t ∧
      RegsKept s t (fun r _ _ => r = .mapPending) ∧ heldOf t pkt.src seq = none)) ∧
  (∀ s p c h, Held s p 0x0A04 c → heldOf s (par c 0 3) (par c 4 4) = some h → ∃ t, exec (.mapSettle p c.ref) s = .next t ∧ Ended t p c ∧
    heldOf t (par c 0 3) (par c 4 4) =
      if par c 8 1 = 1 then some { h with committed := true, unsettled := false, epoch := some (frameNow s + 1) } else none) ∧
  (∀ s keeper seq h, Running s → heldOf s keeper seq = some h →
    if h.committed = false ∧ (h.epoch.getD h.arrived) + 64 ≤ frameNow s then
      ∃ t, exec (.mapUnsettled keeper seq) s = .next t ∧ heldOf t keeper seq = some { h with unsettled := true } ∧ MemoriesKept s t ∧
        RegsKept s t (fun r _ _ => r = .mapPending)
    else exec (.mapUnsettled keeper seq) s = .next s) ∧
  ∀ s n fin fail k, k.driven = false → k.epoch = 0 →
    (k.audience.all (k.acks.contains ·) = true → ((keepBell n fin fail k).run s).sys.bind.keeping =
      s.sys.bind.keeping.map fun x => if x.seq = k.seq then { x with epoch := n + 1 } else x) ∧
    (k.audience.all (k.acks.contains ·) = false → k.defers < 8 → ((keepBell n fin fail k).run s).sys.bind.keeping =
      s.sys.bind.keeping.map fun x => if x.seq = k.seq then { x with defers := x.defers + 1 } else x) ∧
    (k.audience.all (k.acks.contains ·) = false → 8 ≤ k.defers → ∃ u, (keepBell n fin fail k).run s = (fail k).run u ∧
      u.sys.bind.keeping = s.sys.bind.keeping.filter (·.seq != k.seq))

/-! ### Faults, resets and dumps -/

/-- RESET (R503, R510), ENGINE_HANG (R504), SRAM_UNCORRECTABLE (Table 18.4), STEWARD_WATCHDOG (R505), RESET_ESCALATION
(R506): the record comes first, then the reset of the level; what an engine or partition reset ends leaves the store.
Where the spec leaves a point open, it follows the model's own reading: log entries 37 and 84. -/
def Obligations.FaultsAreRecordedAndReset : Prop :=
  (∀ s p c, Held s p 0x0902 c →
    let r := { faultBase 0x05 (par c 0 1) with detail := natLE 3 (if c.steward then c.srcPart else partId s) }
    let dump := nbit (par c 1 1) 0
    (par c 0 1 = 1 → exec (.reset p c.ref) s = .next ((contextReset p c).run s)) ∧
    (∀ k, par c 0 1 = 2 → engineOf (par c 2 1) = some k →
      exec (.reset p c.ref) s = .next ((postPlain p c stOk 0).run ((engineReset k (par c 4 8) r).run s))) ∧
    (par c 0 1 = 3 → let q := toP (par c 3 1)
      exec (.reset p c.ref) s = .next ((postPlain p c stOk 0).run
        ((partitionReset q r dump (if q = p then some c.ref else none)).run s))) ∧
    (par c 0 1 = 4 ∨ par c 0 1 = 5 → exec (.reset p c.ref) s = .next ((Upd.seq [fault 0 { r with partLevel := true },
      .when dump (dumpAll 0x05 (nextFaultRef s 0)), if par c 0 1 = 4 then warmReset else coldReset]).run s)) ∧
    (par c 0 1 = 6 → ∃ t, exec (.reset p c.ref) s = .next t ∧ cmdOf t p c.ref = some { c with phase := .running } ∧
      t.sys.pwr.cycle = some ⟨2, 1, some (p, c.ref)⟩ ∧ t.sys.out = .sideband 0x30 none (natLE 1 2) :: s.sys.out ∧ MemoriesKept s t)) ∧
  (∀ s k i op cycles, Running s →
    if engineExists k i = true ∧ k ≠ .stewardCore then
      exec (.engineHang k i op cycles) s = .next ((engineReset k i { faultBase 0x02 2 with detail := natLE 4 op ++ natLE 4 cycles }).run s)
    else exec (.engineHang k i op cycles) s = .next s) ∧
  (∀ s p macroNo off, Running s → let r := { faultBase 0x0B 0 with detail := natLE 4 macroNo ++ natLE 4 off }
    (∀ k i, engineExists k i = true → k ≠ .stewardCore →
      exec (.sramUncorrectable p macroNo off (some (k, i))) s = .next ((engineReset k i r).run s)) ∧
    exec (.sramUncorrectable p macroNo off none) s = .next ((partitionReset p r true none).run s)) ∧
  (∀ s (core : Fin 8) pl missed, Running s →
    let r := { faultBase 0x03 3 with engineKind := 9, engine := core.val, detail := natLE 1 core.val ++ natLE 1 missed }
    (missed < 2 → exec (.stewardWatchdog core pl missed) s = .next s) ∧
    (2 ≤ missed → (pl && core == 0) = false →
      exec (.stewardWatchdog core pl missed) s = .next ((partitionReset (toP (core.val / 2)) r true none).run s)) ∧
    (2 ≤ missed → (pl && core == 0) = true → exec (.stewardWatchdog core pl missed) s =
      .next ((partFatal (nextFaultRef s 0)).run ((fault 0 { r with level := 4, partLevel := true }).run s)))) ∧
  (∀ s p k i began, Running s → let r (level : Nat) := { faultBase 0x04 0 with detail := natLE 1 level ++ zeros 3 ++ natLE 4 began }
    (engineExists k i = true → k ≠ .stewardCore → exec (.resetEscalation 1 p k i began) s = .next ((engineReset k i (r 1)).run s)) ∧
    exec (.resetEscalation 2 p k i began) s = .next ((partitionReset p (r 2) true none).run s) ∧
    exec (.resetEscalation 3 p k i began) s = .next ((partFatal (nextFaultRef s 0)).run
      ((fault 0 { r 3 with level := 4, partLevel := true }).run s))) ∧
  (∀ s k i r, ∃ u, (engineReset k i r).run s = (Upd.seq [regCount .faultCount (engineP k i) 0 31 16 1,
      .each (engineUsers s k i).eraseDups (endUser stEngineReset (nextFaultRef s (engineP k i))),
      engineClear k i (nextFaultRef s (engineP k i))]).run u ∧
    (psys u (engineP k i)).faults.records.head?.map (fun x => (x.cause, x.level, x.engineKind, x.engine, x.frame)) =
      some (r.cause, 2, engineCode k, i, frameNow s)) ∧
  (∀ s p c st ref, ∀ x ∈ (psys ((endByReset p c st ref).run s) p).cmds, x.ref = c.ref → x.ring = 36) ∧
  ∀ s p r dump keep, let t := (partitionReset p r dump keep).run s
    (∀ i, i < 32 → bit (rd t .ringCfg p i) 63 = false ∧ rd t .ringConsumed p i = 0 ∧ rd t .ringStatus p i = 0 ∧ rd t .ringErrcount p i = 0) ∧
    (psys t p).text = TextSt.reset ∧ (psys t p).dma = [] ∧ (psys t p).mill.runs = [] ∧ (psys t p).landed = []

/-- FAULT_READ (R512), DUMP_READ and DUMP_CLEAR (R520), DUMP_MIRROR: N records from FIRST onward of the partition it names, a record no longer
held or of another tenant with its INDEX alone; the bytes of the dump or of its mirror; the dump released and the mirror kept. -/
def Obligations.FaultRecordsAndDumpsAreRead : Prop :=
  (∀ s p c, Held s p 0x0901 c → let q := toP (par c 0 4 / 2 ^ 30)
    exec (.faultRead p c.ref) s = .next ((postReply p c stOk 0 ((List.range (par c 4 2)).flatMap fun i =>
      let index := q.val * 2 ^ 30 + seqAfter (par c 0 4 % 2 ^ 30) i
      match (psys s q).faults.records.find? (·.index == index) with
      | some r => if c.tenant = 0 ∨ r.tenant = c.tenant then faultBytes r else natLE 4 index ++ zeros 124
      | none => natLE 4 index ++ zeros 124)).run s)) ∧
  (∀ s p d, Running s → (psys s p).faults.mirroring = true → (psys s p).faults.dump = some d →
    (∃ t, exec (.dumpMirror p false) s = .next t ∧ MemoriesKept s t ∧ (psys t p).faults = { (psys s p).faults with mirror := none } ∧
      bit (rd t .faultStatus p) 61 = false) ∧
    ∃ t, exec (.dumpMirror p true) s = .next t ∧ MemoriesKept s t ∧
      (psys t p).faults = { (psys s p).faults with mirror := some d, mirroring := false } ∧ bit (rd t .faultStatus p) 61 = true) ∧
  (∀ s p c, Held s p 0x0903 c → let q := toP (par c 0 1)
    exec (.dumpRead p c.ref) s = .next (match (if par c 1 1 = 0 then (psys s q).faults.dump else (psys s q).faults.mirror) with
      | some d => (postReply p c stOk 0 ((List.range (par c 4 4)).map fun i => dumpByte q d (par c 8 8 + i))).run s
      | none => (postReply p c stShort 0 []).run s)) ∧
  (∀ s p c, Held s p 0x0904 c → let q := toP (par c 0 1)
    ∃ t, exec (.dumpClear p c.ref) s = .next t ∧ Ended t p c ∧ (psys t q).faults.dump = none ∧
      (psys t q).faults.mirror = (psys s q).faults.mirror ∧ bit (rd t .faultStatus q) 63 = false)

/-- The part resets (Table 18.7), FIRMWARE_READY_TIMEOUT and BOOT_TIMEOUT (R507), SELF_TEST (R530):
a warm reset of a part without domains keeps the Loft and loses the Pantry; a cold one loses every memory but flash, and every register
is at its reset value but the nonce and FAULT_STATUS; the units that fail a self-test are DISABLED.
Where the spec leaves a point open, it follows the model's own reading: log entries 38 and 40. -/
def Obligations.PartResetsKeepWhatTheyMust : Prop :=
  (∀ s, s.sys.coh.doms = [] → let t := warmReset.run s
    (∀ a, Mem.read t.mem a = if inPantry a = true then 0 else Mem.read s.mem a) ∧ t.sys.pin.stopped = false ∧
    t.sys.pin.fatalLow = false ∧ (∀ p, (psys t p).cmds = [] ∧ (psys t p).faults.records = (psys s p).faults.records) ∧
    (∀ k : Fin 24, stackState s k.val ≠ 5 → stackState s k.val ≠ 0 → stackState t k.val = 4) ∧
    ∀ r p i, r.desc.page ≠ 0x09 → r.desc.page ≠ 0x11 → r ∉ [.faultStatus, .dbgNonce] →
      rd t r p i = r.desc.reset) ∧
  (∀ s, let t := coldReset.run s
    (∀ a, Mem.read t.mem a = 0) ∧ t.sys.pin.stopped = false ∧ t.sys.pin.fatalLow = false ∧ t.sys.sec.store = storeStart s.sys.sec ∧
    (∀ p, (psys t p).cmds = [] ∧ (psys t p).faults.records = [] ∧ (psys t p).faults.mirror = (psys s p).faults.mirror) ∧
    ∀ r p i, r ≠ .faultStatus → r ≠ .dbgNonce → rd t r p i = r.desc.reset) ∧
  (∀ s, Running s → exec .firmwareReadyTimeout s =
    .next (if s.sys.sec.cold = false ∧ s.sys.sec.ready = false then coldReset.run s else s)) ∧
  (∀ s, Running s → if s.sys.sec.cold = true ∧ s.sys.sec.ready = false then
      ∃ t, exec .bootTimeout s = .next t ∧ t.sys.pin.fatalLow = true ∧ t.sys.pwr.cycle = some ⟨1, 1, none⟩ ∧
        t.sys.out = .sideband 0x30 none (natLE 1 1) :: s.sys.out ∧ MemoriesKept s t ∧ RegsKept s t (fun _ _ _ => False)
    else exec .bootTimeout s = .next s) ∧
  ∀ s p c r, Held s p 0x0905 c → ∃ t, exec (.selfTest p c.ref r) s = .next t ∧ Ended t p c ∧
    (∀ x ∈ r.failed, unitExists x.1 x.2 = true → (unit t x.1 x.2).state = .disabled) ∧
    t.sys.pwr.tested = (s.sys.pwr.tested || decide (testResult r < 2))

/-! ### The security block -/

/-- BOOT_ROM, BOOT_LOADER, FIRMWARE_START, FIRMWARE_READY (R537 to R539, R543, Table 19.3), FW_STAGE, STAGING_DONE, ACTIVATE (R541, R542),
DBG_TOKEN_ARM (R550) and IDE_INTEGRITY_FAIL (R554): each stage verifies the images of the slot or goes to the other slot and then to
RECOVERY; the measurements are those of the images that boot; a staged bundle that verifies is STAGED, and activating it turns the ACTIVE
slot over.
Where the spec leaves a point open, it follows the model's own reading: log entries 42 and 66. -/
def Obligations.ImagesAreVerifiedAndBooted : Prop :=
  (∀ s, Running s → bootStage s = 0 → ∃ t, exec .bootRom s = .next t ∧ MemoriesKept s t ∧ RegsKept s t (fun r _ _ => r = .secStatus) ∧
    t.sys.sec.store = s.sys.sec.store ∧
    if imageOk s.fuse s.sys.sec (bootSlot s.sys.sec) 1 = true then bootStage t = 1 ∧ t.sys.sec.slot = bootSlot s.sys.sec
    else if s.sys.sec.second = true then bootStage t = 3 ∧ t.sys.pin.fatalLow = true
    else bootStage t = 0 ∧ bootSlot t.sys.sec = !(activeSlot s.sys.sec)) ∧
  (∀ s, Running s → bootStage s = 1 → s.sys.sec.booted = [] → let x := s.sys.sec
    if (imageOk s.fuse x x.slot 2 && imageOk s.fuse x x.slot 3) = false then exec .bootLoader s = .next (bootFailed.run s)
    else
    let opens := match (if x.cold then none else x.armed) with
      | some a => tokenOk (sub (imageHead x x.slot 1) 32 64) (memBytes s a.addr 264) a
      | none => false
    ∃ t, exec .bootLoader s = .next t ∧ MemoriesKept s t ∧ RegsKept s t (fun r _ _ => r = .secStatus) ∧ bootStage t = 1 ∧
      t.sys.sec.booted = [1, 2, 3].map (fun i => imageFacts (imageHead x x.slot i)) ∧ t.sys.sec.armed = none ∧
      bit (rd t .secStatus 0) 59 = (!s.fuse.debugLock || opens) ∧ bit (rd t .secStatus 0) 58 = x.second ∧
      bit (rd t .secStatus 0) 55 = x.slot ∧ fld (rd t .secStatus 0) 31 0 = (imageFacts (imageHead x x.slot 2)).svn % 2 ^ 32 ∧
      ∃ token, t.sys.sec.meas = measure s x.slot (!s.fuse.debugLock || opens) token ∧ t.sys.sec.token = token) ∧
  (∀ s, Running s → bootStage s = 1 → s.sys.sec.booted ≠ [] → ∃ t, exec .firmwareStart s = .next t ∧ bootStage t = 2 ∧ MemoriesKept s t ∧
    t.sys = s.sys ∧ RegsKept s t fun r _ _ => r = .secStatus) ∧
  (∀ s, Running s → bootStage s = 2 → s.sys.sec.ready = false → startedUp s = true → ∃ t, exec .firmwareReady s = .next t ∧
    t.sys.sec.ready = true ∧ t.sys.sec.notes = [] ∧ t.sys.sec.store =
      if raisedFloors s = floorsOf s then s.sys.sec.store else (ctlPut (activeSlot s.sys.sec) (raisedFloors s) s.sys.sec).store) ∧
  (∀ s w v, Running s → issuerTenant s w = some 0 → bit v 63 = true → bit v 62 = false → ∃ t, exec (.fwStage w v) s = .next t ∧ MemoriesKept s t ∧
    if bit (rd s .secStatus 0) 60 = true then t.sys = s.sys ∧ bit (rd t .secStatus 0) 63 = true ∧ RegsKept s t (fun r _ _ => r = .secStatus)
    else bit (rd t .secStatus 0) 60 = true ∧ bit (rd t .secStatus 0) 61 = false ∧
      t.sys.sec.staging = some (fld (rd s .fwStage 0) 49 0, fld v 24 0)) ∧
  (∀ s w v, Running s → issuerTenant s w = some 0 → bit v 62 = true → bit v 63 = false → ∃ t, exec (.activate w v) s = .next t ∧ MemoriesKept s t ∧
    if bit (rd s .secStatus 0) 60 = true ∨ bit (rd s .secStatus 0) 61 = false then t.sys = s.sys ∧ bit (rd t .secStatus 0) 63 = true
    else bit (rd t .secStatus 0) 61 = false ∧ t.sys.sec = ctlPut (!(activeSlot s.sys.sec)) (floorsOf s) s.sys.sec) ∧
  (∀ s a n, Running s → s.sys.sec.staging = some (a, n) → let slot := !(activeSlot s.sys.sec)
    let readable := decide (n ≤ 25165824) && regionOf a == .loft && rangeBound s 0 a n && (poisonIn s a n).isNone
    let y : SecSt := { s.sys.sec with
      staging := none
      store := if readable then Mem.copyFrom s.sys.sec.store (slotBase slot) s.mem a n else s.sys.sec.store }
    ∃ t, exec .stagingDone s = .next t ∧ t.sys.sec = y ∧ bit (rd t .secStatus 0) 60 = false ∧
      if (readable && [1, 2, 3].all (imageOk s.fuse y slot)) = true then bit (rd t .secStatus 0) 61 = true
      else bit (rd t .secStatus 0) 62 = true) ∧
  (∀ s w v, Running s → issuerTenant s w = some 0 → bit v 63 = true → ∃ t, exec (.dbgTokenArm w v) s = .next t ∧ MemoriesKept s t ∧
    t.sys.sec.armed = some ⟨(List.range 4).map fun i => rd s .dbgNonce 0 i, fld v 49 0⟩ ∧ RegsKept s t fun r _ _ => r = .dbgToken) ∧
  ∀ s (i : Fin 5), Running s → if (ideOf s i.val).state = .secure then
      ∃ t, exec (.ideIntegrityFail i) s = .next t ∧ ideOf t i.val = { ideOf s i.val with state := .insecure } ∧
        ∀ j : Fin 5, j ≠ i → ideOf t j.val = ideOf s j.val
    else exec (.ideIntegrityFail i) s = .next s

/-- The SPDM responder (R546 to R549, R552, Tables 19.4 and 19.5; the messages' layout is left to DSP0274, log entry 60): GET_VERSION,
GET_CAPABILITIES, NEGOTIATE_ALGORITHMS, GET_DIGESTS, GET_CERTIFICATE, CHALLENGE, GET_MEASUREMENTS, KEY_EXCHANGE, FINISH, KEY_UPDATE,
HEARTBEAT, END_SESSION, VENDOR_DEFINED_REQUEST, CHUNK_SEND, CHUNK_GET and a request it does not support: each answers on its transport and
leaves memory and registers alone. -/
def Obligations.SpdmRequestsAreAnswered : Prop :=
  ∀ s tr, transportUp s tr = true →
    let said (t : State) (r : SpdmResp) : Prop := t.sys.out = .spdm tr r :: s.sys.out ∧ MemoriesKept s t ∧ RegsKept s t (fun _ _ _ => False)
    let x := s.sys.sec
    (∀ msg, ∃ t, exec (.getVersion tr msg) s = .next t ∧ said t (.version 0x13) ∧ connOf t tr = .version) ∧
    (∀ code, ∃ t, exec (.spdmUnsupportedRequest tr code) s = .next t ∧ said t (.error .unsupportedRequest) ∧ connOf t tr = connOf s tr) ∧
    (∀ msg, connOf s tr ≠ .none → ∃ t, exec (.getCapabilities tr msg) s = .next t ∧ said t (.capabilities 16 4096 65536) ∧
      connOf t tr = .capabilities) ∧
    (∀ msg, connOf s tr = .capabilities ∨ connOf s tr = .ready → ∃ t, exec (.negotiateAlgorithms tr msg) s = .next t ∧
      if Config.spdmOffersOk msg = true then said t .algorithms ∧ connOf t tr = .ready
      else said t (.error .invalidRequest) ∧ connOf t tr = .none) ∧
    (connOf s tr ≠ .ready → ∀ msg id stream key go h n last, ∀ c ∈ [Instr.getDigests tr msg, .getCertificate tr msg, .challenge tr msg,
      .getMeasurements tr msg, .keyExchange tr msg, .finish tr id msg, .keyUpdate tr id msg, .heartbeat tr id msg, .endSession tr id msg,
      .vendorDefinedRequest tr id stream key go, .chunkSend tr h n last msg, .chunkGet tr h n],
      ∃ t, exec c s = .next t ∧ said t (.error .unexpectedRequest) ∧ t.sys.sec = x) ∧
    (∀ msg, connOf s tr = .ready → ∃ t, exec (.getDigests tr msg) s = .next t ∧ said t (.digests (Config.sm3 (certChain x))) ∧
      t.sys.sec = x) ∧
    (∀ msg, connOf s tr = .ready → let b := sub (certChain x) (Config.spdmPortion msg).1 (Config.spdmPortion msg).2
      ∃ t, exec (.getCertificate tr msg) s = .next t ∧
        if b.length ≤ 4096 then said t (.certificate b) ∧ t.sys.sec = x
        else ∃ h, said t (.large h) ∧ t.sys.sec.large.head? = some ⟨tr, h, 0, b⟩) ∧
    (∀ msg, connOf s tr = .ready → ∃ t v, exec (.challenge tr msg) s = .next t ∧ said t (.challengeAuth (aliasSign s msg v)) ∧
      t.sys.sec = x) ∧
    (∀ msg, connOf s tr = .ready → let bs := measBlocks s (Config.spdmMeasIndex msg)
      (bs.flatMap (·.2)).length ≤ 4096 → ∃ t v, exec (.getMeasurements tr msg) s = .next t ∧
        said t (.measurements bs (if Config.spdmSigned msg then aliasSign s msg v else [])) ∧ t.sys.sec = x) ∧
    (∀ msg, connOf s tr = .ready → ∃ t v, exec (.keyExchange tr msg) s = .next t ∧
      if x.sessions.countP (·.t == tr) < sessionLimit tr then
        said t (.keyExchangeRsp x.nextSession (aliasSign s msg v)) ∧ sessionOf t tr x.nextSession = some ⟨tr, x.nextSession, false, 0⟩
      else said t (.error .sessionLimit) ∧ t.sys.sec = x) ∧
    (∀ id msg y, connOf s tr = .ready → sessionOf s tr id = some y →
      (y.open' = false → ∃ t, exec (.finish tr id msg) s = .next t ∧ said t (.finishRsp id) ∧
        sessionOf t tr id = some { y with open' := true }) ∧
      (y.open' = true → ∃ t, exec (.keyUpdate tr id msg) s = .next t ∧ said t (.keyUpdateAck id) ∧
        sessionOf t tr id = some { y with updates := y.updates + 1 }) ∧
      (y.open' = true → ∃ t, exec (.heartbeat tr id msg) s = .next t ∧ said t (.heartbeatAck id) ∧ t.sys.sec = x) ∧
      (y.open' = true → ∃ t, exec (.endSession tr id msg) s = .next t ∧ said t (.endSessionAck id) ∧ sessionOf t tr id = none) ∧
      ∀ (i : Fin 5) key, y.open' = true → tr = .doe →
        (key.length = 32 → ∃ t, exec (.vendorDefinedRequest tr id i key false) s = .next t ∧ said t (.vendorDefined id i.val) ∧
          ideOf t i.val = ⟨.keyed, key⟩) ∧
        ((ideOf s i.val).state = .keyed → ∃ t, exec (.vendorDefinedRequest tr id i key true) s = .next t ∧
          said t (.vendorDefined id i.val) ∧ ideOf t i.val = { ideOf s i.val with state := .secure })) ∧
    (∀ h n last chunk, connOf s tr = .ready → let old := (x.chunks.find? fun c => c.t == tr).getD ⟨tr, h, 0, []⟩
      ∃ t, exec (.chunkSend tr h n last chunk) s = .next t ∧
        if old.handle = h ∧ old.next = n ∧ chunk.length ≤ 4096 ∧ old.data.length + chunk.length ≤ 65536 then
          said t (.chunkSendAck h n) ∧ t.sys.sec.chunks.find? (fun c => c.t == tr) =
            if last then none else some ⟨tr, h, n + 1, old.data ++ chunk⟩
        else said t (.error .invalidRequest) ∧ ∀ c ∈ t.sys.sec.chunks, c.t ≠ tr) ∧
    ∀ h c, connOf s tr = .ready → (x.large.find? fun c => c.t == tr && c.handle == h) = some c →
      ∃ t, exec (.chunkGet tr h c.next) s = .next t ∧
        said t (.chunkResponse h c.next (decide (c.data.length ≤ 4096 * (c.next + 1))) ((c.data.drop (4096 * c.next)).take 4096)) ∧
        (t.sys.sec.large.find? fun c => c.t == tr && c.handle == h) =
          if c.data.length ≤ 4096 * (c.next + 1) then none else some { c with next := c.next + 1 }

/-! ### Pins, power, sideband -/

/-- PWR_GOOD_RISE, PWR_GOOD_FALL (R560), COLD_RST_N, WARM_RST_N (R561), THERMAL_TRIP (R566), STACK_HOT_LIMIT (R567), JUNCTION_WARN (R562),
VDD_AUX_RISE (R558, R559), ENTER_REST, ENTER_DEEP, DEEP_DRAIN_END, ENTER_DARK, EXIT_TO_RUN and DEEP_EXIT_COMPLETE (R523, R568 to R572): a reset
pin held for 10 µs resets, one below 1 µs does not; in Deep the Loft is kept and the Pantry lost.
Where the spec leaves a point open, it follows the model's own reading: log entries 44, 47 and 147. -/
def Obligations.PinsAndPowerStates : Prop :=
  (∀ s high, if s.sys.pin.pwrGood = true then exec (.pwrGoodRise high) s = .next s
    else ∃ t, exec (.pwrGoodRise high) s = .next t ∧ t.sys.pin.pwrGood = true ∧ t.sys.pin.stopped = false ∧ bootStage t = 0 ∧
      t.sys.pin.coldRst = (if high = true then .high else .low) ∧ ∀ a, Mem.read t.mem a = 0) ∧
  (∀ s, if s.sys.pin.pwrGood = true then ∃ t, exec .pwrGoodFall s = .next t ∧ t.sys.pin.pwrGood = false ∧ t.sys.pin.stopped = true ∧
      (∀ a, Mem.read t.mem a = 0) ∧ ∀ r p i, r ≠ .faultStatus → rd t r p i = r.desc.reset
    else exec .pwrGoodFall s = .next s) ∧
  (∀ s low both, (s.sys.pin.pwrGood = false ∨ low < 1000 → exec (.coldRstN low both) s = .next s ∧ exec (.warmRstN low both) s = .next s) ∧
    (s.sys.pin.pwrGood = true → 10000 ≤ low →
      exec (.coldRstN low both) s = .next (coldReset.run ((pinMod fun x => { x with coldRst := .high }).run s)) ∧
      exec (.warmRstN low both) s = .next (if both = true then coldReset.run s else warmReset.run s))) ∧
  (∀ s junction, Running s → if fld (rd s .thermCfg 0) 23 16 ≤ junction then
      ∃ t, exec (.thermalTrip junction) s = .next t ∧ t.sys.pin.stopped = true ∧ t.sys.pin.fatalLow = true ∧ t.sys.pin.thermLow = true ∧
        t.sys.pwr.cycle = some ⟨4, 1, none⟩ ∧ t.sys.out.head? = some (.sideband 0x30 none (natLE 1 4)) ∧
        (psys t 0).faults.records.head?.map (·.cause) = some 0x13
    else exec (.thermalTrip junction) s = .next s) ∧
  (∀ s (k : Fin 24) temp, Running s → ∃ t, exec (.stackHotLimit k temp) s = .next t ∧
    fld (rd t .stkStatus (stkP k.val) (stkJ k.val)) 15 8 = min temp 255 ∧
    (k.val ∈ t.sys.pwr.hot ↔ 95 ≤ temp ∨ 90 ≤ temp ∧ k.val ∈ s.sys.pwr.hot) ∧ (k.val ∈ t.sys.pwr.hot → stackGrants t k.val ≤ 8)) ∧
  (∀ s junction below, let warn := fld (lv s .thermCfg 0) 7 0
    (warn ≤ junction → ∃ t, exec (.junctionWarn junction below) s = .next t ∧ t.sys.pin.thermLow = true ∧ bit (rd t .pkgStatus 0) 61 = true ∧
      MemoriesKept s t) ∧
    (below = true → junction + 3 < warn → ∃ t, exec (.junctionWarn junction below) s = .next t ∧ t.sys.pin.thermLow = false ∧
      bit (rd t .pkgStatus 0) 61 = false ∧ MemoriesKept s t) ∧
    (junction < warn → (below = false ∨ warn ≤ junction + 3) → exec (.junctionWarn junction below) s = .next s)) ∧
  (∀ s, s.sys.pin.auxUp = false → ∃ t, exec .vddAuxRise s = .next t ∧ t.sys.pin.auxUp = true ∧ t.sys.pin.i3c = none ∧
    sidebandAddr t = 0x30 + s.sys.pin.sbAddr ∧ MemoriesKept s t ∧ RegsKept s t fun _ _ _ => False) ∧
  (∀ s, Running s → s.sys.pwr.going = none → s.sys.pwr.want = some 1 → s.sys.pwr.state ≠ 2 → ∃ t, exec .enterRest s = .next t ∧
    t.sys.pwr = { s.sys.pwr with state := 1, want := none } ∧ fld (rd t .pkgStatus 0) 59 57 = 1 ∧ MemoriesKept s t) ∧
  (∀ s w, Running s → s.sys.pwr.going = none → s.sys.pwr.want = some w → (w = 2 ∨ w = 3) → s.sys.pwr.state ≠ 2 → ∃ u,
    exec .enterDeep s = .next ((Upd.each allP fun p => .seq [.read fun s => .each (activeHolders s p) fun c =>
      endEarly p c stContextReset { faultBase 0x11 1 with detail := natLE 1 2 }, walksLost p]).run u) ∧
    u.sys.pwr = { s.sys.pwr with going := some 2, want := none, dark := w == 3 } ∧ fld (rd u .pkgStatus 0) 59 57 = 3 ∧ MemoriesKept s u) ∧
  (∀ s, Running s → s.sys.pwr.going = some 2 → if drained s = true then ∃ t, exec .deepDrainEnd s = .next t ∧ t.sys.pwr.state = 2 ∧
      t.sys.pwr.going = none ∧ fld (rd t .pkgStatus 0) 59 57 = 2 ∧
      (∀ a, Mem.read t.mem a = if inPantry a = true then 0 else Mem.read s.mem a) ∧ t.win = s.win ∧ t.cellar = s.cellar ∧
      ∀ k : Fin 24, stackState s k.val = 3 → stackState t k.val = 4
    else exec .deepDrainEnd s = .next s) ∧
  (∀ s, Running s → s.sys.pwr.going = none → s.sys.pwr.state = 2 → (s.sys.pwr.dark = true ∨ s.sys.pwr.want = some 3) →
    s.sys.pwr.cycle = none → ∃ t, exec .enterDark s = .next t ∧ MemoriesKept s t ∧
      t.sys.pwr = { s.sys.pwr with dark := true, want := none, cycle := some ⟨3, 1, none⟩ } ∧
      t.sys.out = .sideband 0x30 none (natLE 1 3) :: s.sys.out) ∧
  (∀ s, Running s → s.sys.pwr.going = none →
    (s.sys.pwr.state = 1 → s.sys.pwr.want = some 0 → ∃ t, exec .exitToRun s = .next t ∧ MemoriesKept s t ∧
      t.sys.pwr = { s.sys.pwr with state := 0, want := none } ∧ fld (rd t .pkgStatus 0) 59 57 = 0) ∧
    (s.sys.pwr.state = 2 → (s.sys.pwr.want = some 0 ∨ bit (lv s .pwrCtl 0) 10 = true ∧ class0Landed s = true) →
      ∃ t, exec .exitToRun s = .next t ∧ MemoriesKept s t ∧ t.sys.pwr.going = some 0 ∧ t.sys.pwr.dark = false ∧
        fld (rd t .pkgStatus 0) 59 57 = 4)) ∧
  ∀ s, Running s → s.sys.pwr.going = some 0 → if (List.range 24).all (fun k => stackState s k != 4) = true then
      ∃ t, exec .deepExitComplete s = .next t ∧ MemoriesKept s t ∧ t.sys.pwr = { s.sys.pwr with state := 0, going := none } ∧
        fld (rd t .pkgStatus 0) 59 57 = 0
    else exec .deepExitComplete s = .next s

/-- The sideband and the debug port (R551, R558, R568, R576 to R580, Table 20.9): MCTP_CONTROL, SB_INFO, SB_VID, SB_CYCLE_ACK, SB_CYCLE_RETRY,
SB_IMAGE_WRITE, SB_IMAGE_DONE, SB_PSTATE, DEBUG_PORT_ACCESS and I3C_ADDRESS_ASSIGNMENT. What an MCTP control command other than 1, 2 and 6
answers is free; codes 1, 2 and 6 are the MCTP standard's and the debug instruction numbers the model's (PRESUMED).
Where the spec leaves a point open, it follows the model's own reading: log entries 44, 45 and 46. -/
def Obligations.TheSidebandAnswers : Prop :=
  (∀ s, s.sys.pin.auxUp = true →
    (∀ cmd arg, ∃ t v, exec (.mctpControl cmd arg) s = .next t ∧ MemoriesKept s t ∧ RegsKept s t (fun _ _ _ => False) ∧
      t.sys.out = .mctp cmd v :: s.sys.out ∧ (cmd = 1 → v = arg % 256 ∧ t.sys.pin.eid = arg % 256) ∧ (cmd = 2 → v = s.sys.pin.eid) ∧
      (cmd = 6 → v = Config.enterprise)) ∧
    (∀ tag, ∃ t, exec (.sbInfo tag) s = .next t ∧ MemoriesKept s t ∧ RegsKept s t (fun _ _ _ => False) ∧
      t.sys.out = .sideband 0x81 (some tag) (natLE 2 stOk ++ natLE 1 (bootStage s) ++ natLE 1 (fld (rd s .pkgStatus 0) 59 57) ++
        natLE 1 (fld (rd s .pkgStatus 0) 42 40) ++ natLE 1 (fld (rd s .pkgStatus 0) 31 24) ++ natLE 3 (partId s) ++
        natLE 1 s.sys.pin.fatalLow.toNat ++ natLE 4 (fld (rd s .faultStatus 0) 31 0) ++ natLE 2 (fld (rd s .pkgStatus 0) 23 12)) ::
        s.sys.out) ∧
    (∀ tag, ∃ t, exec (.sbVid tag) s = .next t ∧ MemoriesKept s t ∧ RegsKept s t (fun _ _ _ => False) ∧
      t.sys.out = .sideband 0x82 (some tag) (natLE 2 stOk ++ (List.range 4).flatMap fun i => natLE 2 (s.fuse.vid.getD i 0)) :: s.sys.out) ∧
    (∀ tag slot off data, ∃ t st, exec (.sbImageWrite tag slot off data) s = .next t ∧ MemoriesKept s t ∧
      RegsKept s t (fun _ _ _ => False) ∧ t.sys.out = .sideband 0xC0 (some tag) (natLE 2 st) :: s.sys.out ∧
      st = (if bootStage s ≠ 3 then stNotBound else if slot ≤ 1 ∧ data.length ≤ 4096 ∧ off + data.length ≤ 0x1800000 then stOk else stBadParam) ∧
      t.sys.sec.store = if st = stOk then Mem.writeBytes s.sys.sec.store (slotBase (slot == 1) + off) data else s.sys.sec.store) ∧
    (∀ tag slot, ∃ t st, exec (.sbImageDone tag slot) s = .next t ∧ MemoriesKept s t ∧ RegsKept s t (fun _ _ _ => False) ∧
      t.sys.out = .sideband 0xC1 (some tag) (natLE 2 st) :: s.sys.out ∧
      st = (if bootStage s ≠ 3 then stNotBound else if slot ≤ 1 then stOk else stBadParam) ∧
      t.sys.sec = if st = stOk then { s.sys.sec with imageDone := true } else s.sys.sec) ∧
    (∀ tag target, ∃ t st, exec (.sbPstate tag target) s = .next t ∧ MemoriesKept s t ∧ RegsKept s t (fun _ _ _ => False) ∧
      t.sys.out = .sideband 0xD0 (some tag) (natLE 2 st) :: s.sys.out ∧ st = (if target < 4 then stOk else stBadParam) ∧
      t.sys.pwr = if target < 4 then { s.sys.pwr with want := some target } else s.sys.pwr) ∧
    ∀ addr, ∃ t, exec (.i3cAddressAssignment addr) s = .next t ∧ MemoriesKept s t ∧ RegsKept s t (fun _ _ _ => False) ∧
      sidebandAddr t = addr % 128) ∧
  (∀ s tag accept x, s.sys.pwr.cycle = some x → ∃ t, exec (.sbCycleAck tag accept) s = .next t ∧ t.sys.pwr.cycle = none ∧
    (x.reason = 3 → accept = false → t.sys.pwr.dark = false) ∧
    ∀ p c, x.cmd = some (p, c.ref) → cmdOf s p c.ref = some c → Ended t p c ∧ ∃ u,
      t = (sbAnswer 0x31 tag stOk []).run ((postReply p c (if accept then stOk else stRetry) 0 []).run u)) ∧
  (∀ s x, s.sys.pwr.cycle = some x → ∃ t, exec .sbCycleRetry s = .next t ∧ MemoriesKept s t ∧ RegsKept s t (fun _ _ _ => False) ∧
    if x.sent < 9 then t.sys.pwr.cycle = some { x with sent := x.sent + 1 } ∧ t.sys.out = .sideband 0x30 none (natLE 1 x.reason) :: s.sys.out
    else t.sys.pwr.cycle = none ∧ t.sys.pin.fatalLow = true) ∧
  ∀ s ir data, ∃ t, exec (.debugPortAccess ir data) s = .next t ∧ MemoriesKept s t ∧ RegsKept s t (fun _ _ _ => False) ∧ t.sys.pin.debugIr = ir ∧
    t.sys.out = (if ir = 0 then [.debug ir Config.idcode] else if ir = 1 then [.debug ir data]
      else if debugOpen s = true then [.debug ir (Config.debugAnswer ir data)] else []) ++ s.sys.out

/-! ### Utertil mode -/

/-- UT_ENABLE (R583), UT_TAIL_WRITE, UT_PACKET_TAKE and UT_PAD (R586 to R589), STACK_SCAN, UT_SEARCH, UT_INSERT, UT_DELETE, UT_NOP and UT_CLEAR
(R592 to R596, Table 21.4): a packet the ring holds whole is accepted in order when its reply has room, a bad one stops the ring; a search answers the K
best of the live IDs once the Sorter has a register for it; an insert or delete that is sound commits whole; an entry applied sets its own
ID's state and no other's; accepted packets end when ENABLE's clearing takes effect (R4).
Where the spec leaves a point open, it follows the model's own reading: log entries 48, 93 and 116. -/
def Obligations.UtertilRingsAndTables : Prop :=
  (∀ s w p v, Running s → issuerTenant s w = some 0 →
    let old := rd s .utCtl p
    let held := bit old 63 && (fld v 43 32 != fld old 43 32 || fld v 15 0 != fld old 15 0 || bit v 56 != bit old 56)
    let ok := s.fuse.utertilAllow && utBaseOk s p (fld v 43 32) && s.sys.colls.all (·.id != fld v 15 0)
    ∃ t, exec (.utEnable w p v) s = .next t ∧ MemoriesKept s t ∧ t.sys = s.sys ∧ t.live = s.live ∧
      RegsKept s t (fun r q _ => q = p ∧ (r = .utCtl ∨ r = .utStatus)) ∧
      if held = true ∨ s.fuse.maxTenants ≤ fld v 43 32 ∨ (bit v 63 = true ∧ bit old 63 = false ∧ ok = false) then
        rd t .utCtl p = old ∧ bit (rd t .utStatus p) 63 = true
      else rd t .utCtl p = swWrite .utCtl old v ∧ rd t .utStatus p = rd s .utStatus p) ∧
  (∀ s w p v n, Running s → utOn s p = true → issuerTenant s w = some n → regionOf (utBaseOf s p) = .loft →
    access s w.partition n (utBaseOf s p) 8 true = .ok → ∃ t, exec (.utTailWrite w p v) s = .next t ∧
      t.mem = Mem.writeBytes s.mem (utBaseOf s p) (natBE 8 v.toNat) ∧ t.win = s.win ∧ t.cellar = s.cellar ∧ (psys t p).ut.awake = true) ∧
  (∀ s p, Running s → utOn s p = true → (psys s p).ut.stopped = false → (psys s p).ut.awake = true →
    (utNext s p = .idle → ∃ t, exec (.utPacketTake p) s = .next t ∧ MemoriesKept s t ∧ RegsKept s t (fun _ _ _ => False) ∧
      (psys t p).ut.awake = false ∧ (psys t p).cmds = (psys s p).cmds) ∧
    (utNext s p = .bad → ∃ t, exec (.utPacketTake p) s = .next t ∧ (psys t p).ut.stopped = true ∧ bit (rd t .utStatus p) 62 = true ∧
      (psys t p).cmds = (psys s p).cmds ∧ fld (rd t .utCount p) 31 16 = satAdd 16 (fld (rd s .utCount p) 31 16) 1) ∧
    ∀ h len, utNext s p = .packet h len → let body := (utPacket s p (8 * len)).drop 16
      let need := utNeed (byteAt h 2) (beNat (body.take 2))
      (byteAt h 2 ≠ 0 → utFits s p need = true → ∃ t, exec (.utPacketTake p) s = .next t ∧
        t.mem = Mem.writeBytes s.mem (unalias s (utBaseOf s p + 8)) (natBE 8 ((utHead s p + len) % 131072)) ∧ t.win = s.win ∧
        t.cellar = s.cellar ∧ (psys t p).cmds = (psys s p).cmds ++ [utCmd s p h body need] ∧
        fld (rd t .utCount p) 63 32 = satAdd 32 (fld (rd s .utCount p) 63 32) 1) ∧
      (byteAt h 2 ≠ 0 → utFits s p need = false → exec (.utPacketTake p) s = .next s) ∧
      (byteAt h 2 = 0 → ∃ t, exec (.utPad p) s = .next t ∧ (psys t p).cmds = (psys s p).cmds ∧
        t.mem = Mem.writeBytes s.mem (unalias s (utBaseOf s p + 8)) (natBE 8 ((utHead s p + len) % 131072)) ∧
        fld (rd t .utCount p) 63 32 = satAdd 32 (fld (rd s .utCount p) 63 32) 1)) ∧
  (∀ s p c, Held s p 0x0F01 c → c.params.length = 40 → rangeHolds s c.tenant (utBaseOf s p) 0x40000000 = true → 0 < utK c → utK c ≤ 100 →
    (registerLeft (psys s p) c.cls = false → exec (.utSearch p c.ref) s = .next s) ∧
    (registerLeft (psys s p) c.cls = true → utScanned s p c.ref = true → ∃ l, (psys s p).ut.scan = some (c.ref, l) ∧
      exec (.utSearch p c.ref) s = .next ((postReply p c (if l.length < utK c then stShort else stOk) 0
        (utSearchBody (utK c) (sortBy utBefore l))).run s)) ∧
    (registerLeft (psys s p) c.cls = true → utScanned s p c.ref = false → poisonIn s (utCodeAddr s p 0) (32 * utHigh s p) = none →
      let ids := (List.range (utHigh s p)).filter fun i => utIdState s p i == 1
      let row := ids.map fun i => (i, utDist s p (if utField c 18 1 = 0 then 1 else utField c 18 1) ((c.params.drop 8).take 32) i)
      ∃ u, MemoriesKept s u ∧ exec (.utSearch p c.ref) s = .next ((postReply p c (if ids.length < utK c then stShort else stOk) 0
        (utSearchBody (utK c) (sortBy utBefore row))).run u))) ∧
  (∀ s (k : Fin 24) p c, Held s p 0x0F01 c → c.params.length = 40 → rangeHolds s c.tenant (utBaseOf s p) 0x40000000 = true → 0 < utK c →
    utK c ≤ 100 → stackOf (utBaseOf s p) = k.val → utScanned s p c.ref = false →
    poisonIn s (utCodeAddr s p 0) (32 * utHigh s p) = none → ∃ t, exec (.stackScan k p c.ref) s = .next t ∧ MemoriesKept s t ∧
      cmdOf t p c.ref = some c ∧ (psys t p).ut.scan = some (c.ref, ((List.range (utHigh s p)).filter fun i => utIdState s p i == 1).map
        fun i => (i, utDist s p (if utField c 18 1 = 0 then 1 else utField c 18 1) ((c.params.drop 8).take 32) i))) ∧
  (∀ s p c, Held s p 0x0F02 c → rangeHolds s c.tenant (utBaseOf s p) 0x40000000 = true → let n := utField c 16 2
    n ≤ 100 → c.params.length = 8 + 40 * n → (∀ i, i < n → utInsertId c i ≠ 0xFFFFFF ∧ utIdState s p (utInsertId c i) ≠ 2) →
    (psys s p).committedN + n ≤ 4096 → ∃ t, exec (.utInsert p c.ref) s = .next t ∧ Ended t p c ∧
      (psys t p).committedN = (psys s p).committedN + n ∧
      (psys t p).ut.stage = (psys s p).ut.stage ++ [(frameNow s, (List.range n).map fun i =>
        ⟨utInsertId c i, 1, some (utField c (28 + 40 * i) 2, (c.params.drop (16 + 40 * i)).take 32)⟩)]) ∧
  (∀ s p c, Held s p 0x0F03 c → rangeHolds s c.tenant (utBaseOf s p) 0x40000000 = true → let n := utField c 16 2
    n ≤ 1018 → c.params.length + 16 = roundUp (24 + 4 * n) 8 → (∀ i, i < n → utDeleteId c i ≠ 0xFFFFFF) →
    (psys s p).committedN + n ≤ 4096 → ∃ t, exec (.utDelete p c.ref) s = .next t ∧ Ended t p c ∧
      (psys t p).committedN = (psys s p).committedN + n ∧
      (psys t p).ut.stage = (psys s p).ut.stage ++ [(frameNow s, (List.range n).map fun i => ⟨utDeleteId c i, 2, none⟩)]) ∧
  (∀ s p, bit (lv s .utCtl p) 63 = true → bit (rd s .utCtl p) 63 = false → let t := (utOffBell p).run s
    (∀ c ∈ (psys t p).cmds, c.ring ≠ 34) ∧ (psys t p).ut.held = [] ∧ MemoriesKept s t ∧ RegsKept s t (fun _ _ _ => False)) ∧
  (∀ s p c, Held s p 0x0F04 c → exec (.utNop p c.ref) s = .next ((postReply p c stOk 0 []).run s)) ∧
  (∀ s p c, Held s p 0x0F80 c → ∃ t, exec (.utClear p c.ref) s = .next t ∧ MemoriesKept s t ∧ RegsKept s t (fun _ _ _ => False) ∧
    (psys t p).ut.clearing = some c.ref ∧ cmdOf t p c.ref = some { c with phase := .running }) ∧
  ∀ s p x, regionOf (utBaseOf s p) = .loft → x.id < 2 ^ 24 → x.state < 4 → let t := (utApply p x).run s
    utIdState t p x.id = x.state ∧ ∀ i, i < 2 ^ 24 → i ≠ x.id → utIdState t p i = utIdState s p i
end

