-- ==== Sys2Proof/Laws/State.lean ====
section
/-!
SUPPORT. What each elementary change of Upd.lean does to each field of the state: one lemma per field per change.
-/

namespace Sys2Proof.Machine.Upd

@[simp] theorem sys_pending (f : Sys → Sys) (s : State) : ((sys f).run s).pending = s.pending := rfl
@[simp] theorem sys_fuse (f : Sys → Sys) (s : State) : ((sys f).run s).fuse = s.fuse := rfl
@[simp] theorem sys_mem (f : Sys → Sys) (s : State) : ((sys f).run s).mem = s.mem := rfl
@[simp] theorem sys_win (f : Sys → Sys) (s : State) : ((sys f).run s).win = s.win := rfl
@[simp] theorem sys_cellar (f : Sys → Sys) (s : State) : ((sys f).run s).cellar = s.cellar := rfl
@[simp] theorem sys_regs (f : Sys → Sys) (s : State) : ((sys f).run s).regs = s.regs := rfl
@[simp] theorem sys_live (f : Sys → Sys) (s : State) : ((sys f).run s).live = s.live := rfl
@[simp] theorem sys_sys (f : Sys → Sys) (s : State) : ((sys f).run s).sys = f s.sys := rfl

@[simp] theorem part_pending (p : Fin 4) (f : PSys → PSys) (s : State) : ((part p f).run s).pending = s.pending := rfl
@[simp] theorem part_fuse (p : Fin 4) (f : PSys → PSys) (s : State) : ((part p f).run s).fuse = s.fuse := rfl
@[simp] theorem part_mem (p : Fin 4) (f : PSys → PSys) (s : State) : ((part p f).run s).mem = s.mem := rfl
@[simp] theorem part_win (p : Fin 4) (f : PSys → PSys) (s : State) : ((part p f).run s).win = s.win := rfl
@[simp] theorem part_cellar (p : Fin 4) (f : PSys → PSys) (s : State) : ((part p f).run s).cellar = s.cellar := rfl
@[simp] theorem part_regs (p : Fin 4) (f : PSys → PSys) (s : State) : ((part p f).run s).regs = s.regs := rfl
@[simp] theorem part_live (p : Fin 4) (f : PSys → PSys) (s : State) : ((part p f).run s).live = s.live := rfl
@[simp] theorem part_sys (p : Fin 4) (f : PSys → PSys) (s : State) : ((part p f).run s).sys = { s.sys with part := updAt s.sys.part p f } := rfl

@[simp] theorem memWrite_pending (a : Nat) (bs : Bytes) (s : State) : ((memWrite a bs).run s).pending = s.pending := rfl
@[simp] theorem memWrite_fuse (a : Nat) (bs : Bytes) (s : State) : ((memWrite a bs).run s).fuse = s.fuse := rfl
@[simp] theorem memWrite_mem (a : Nat) (bs : Bytes) (s : State) : ((memWrite a bs).run s).mem = Mem.writeBytes s.mem a bs := rfl
@[simp] theorem memWrite_win (a : Nat) (bs : Bytes) (s : State) : ((memWrite a bs).run s).win = s.win := rfl
@[simp] theorem memWrite_cellar (a : Nat) (bs : Bytes) (s : State) : ((memWrite a bs).run s).cellar = s.cellar := rfl
@[simp] theorem memWrite_regs (a : Nat) (bs : Bytes) (s : State) : ((memWrite a bs).run s).regs = s.regs := rfl
@[simp] theorem memWrite_live (a : Nat) (bs : Bytes) (s : State) : ((memWrite a bs).run s).live = s.live := rfl
@[simp] theorem memWrite_sys (a : Nat) (bs : Bytes) (s : State) : ((memWrite a bs).run s).sys = s.sys := rfl

@[simp] theorem memZero_pending (a n : Nat) (s : State) : ((memZero a n).run s).pending = s.pending := rfl
@[simp] theorem memZero_fuse (a n : Nat) (s : State) : ((memZero a n).run s).fuse = s.fuse := rfl
@[simp] theorem memZero_mem (a n : Nat) (s : State) : ((memZero a n).run s).mem = Mem.zero s.mem a n := rfl
@[simp] theorem memZero_win (a n : Nat) (s : State) : ((memZero a n).run s).win = s.win := rfl
@[simp] theorem memZero_cellar (a n : Nat) (s : State) : ((memZero a n).run s).cellar = s.cellar := rfl
@[simp] theorem memZero_regs (a n : Nat) (s : State) : ((memZero a n).run s).regs = s.regs := rfl
@[simp] theorem memZero_live (a n : Nat) (s : State) : ((memZero a n).run s).live = s.live := rfl
@[simp] theorem memZero_sys (a n : Nat) (s : State) : ((memZero a n).run s).sys = s.sys := rfl

@[simp] theorem memCopy_pending (dst : Nat) (frm : State → Mem) (src n : Nat) (s : State) : ((memCopy dst frm src n).run s).pending = s.pending := rfl
@[simp] theorem memCopy_fuse (dst : Nat) (frm : State → Mem) (src n : Nat) (s : State) : ((memCopy dst frm src n).run s).fuse = s.fuse := rfl
@[simp] theorem memCopy_mem (dst : Nat) (frm : State → Mem) (src n : Nat) (s : State) : ((memCopy dst frm src n).run s).mem = Mem.copyFrom s.mem dst (frm s) src n := rfl
@[simp] theorem memCopy_win (dst : Nat) (frm : State → Mem) (src n : Nat) (s : State) : ((memCopy dst frm src n).run s).win = s.win := rfl
@[simp] theorem memCopy_cellar (dst : Nat) (frm : State → Mem) (src n : Nat) (s : State) : ((memCopy dst frm src n).run s).cellar = s.cellar := rfl
@[simp] theorem memCopy_regs (dst : Nat) (frm : State → Mem) (src n : Nat) (s : State) : ((memCopy dst frm src n).run s).regs = s.regs := rfl
@[simp] theorem memCopy_live (dst : Nat) (frm : State → Mem) (src n : Nat) (s : State) : ((memCopy dst frm src n).run s).live = s.live := rfl
@[simp] theorem memCopy_sys (dst : Nat) (frm : State → Mem) (src n : Nat) (s : State) : ((memCopy dst frm src n).run s).sys = s.sys := rfl

@[simp] theorem winWrite_pending (a : Nat) (bs : Bytes) (s : State) : ((winWrite a bs).run s).pending = s.pending := rfl
@[simp] theorem winWrite_fuse (a : Nat) (bs : Bytes) (s : State) : ((winWrite a bs).run s).fuse = s.fuse := rfl
@[simp] theorem winWrite_mem (a : Nat) (bs : Bytes) (s : State) : ((winWrite a bs).run s).mem = s.mem := rfl
@[simp] theorem winWrite_win (a : Nat) (bs : Bytes) (s : State) : ((winWrite a bs).run s).win = Mem.writeBytes s.win a bs := rfl
@[simp] theorem winWrite_cellar (a : Nat) (bs : Bytes) (s : State) : ((winWrite a bs).run s).cellar = s.cellar := rfl
@[simp] theorem winWrite_regs (a : Nat) (bs : Bytes) (s : State) : ((winWrite a bs).run s).regs = s.regs := rfl
@[simp] theorem winWrite_live (a : Nat) (bs : Bytes) (s : State) : ((winWrite a bs).run s).live = s.live := rfl
@[simp] theorem winWrite_sys (a : Nat) (bs : Bytes) (s : State) : ((winWrite a bs).run s).sys = s.sys := rfl

@[simp] theorem winZero_pending (a n : Nat) (s : State) : ((winZero a n).run s).pending = s.pending := rfl
@[simp] theorem winZero_fuse (a n : Nat) (s : State) : ((winZero a n).run s).fuse = s.fuse := rfl
@[simp] theorem winZero_mem (a n : Nat) (s : State) : ((winZero a n).run s).mem = s.mem := rfl
@[simp] theorem winZero_win (a n : Nat) (s : State) : ((winZero a n).run s).win = Mem.zero s.win a n := rfl
@[simp] theorem winZero_cellar (a n : Nat) (s : State) : ((winZero a n).run s).cellar = s.cellar := rfl
@[simp] theorem winZero_regs (a n : Nat) (s : State) : ((winZero a n).run s).regs = s.regs := rfl
@[simp] theorem winZero_live (a n : Nat) (s : State) : ((winZero a n).run s).live = s.live := rfl
@[simp] theorem winZero_sys (a n : Nat) (s : State) : ((winZero a n).run s).sys = s.sys := rfl

@[simp] theorem cellarCopy_pending (dst : Nat) (frm : State → Mem) (src n : Nat) (s : State) : ((cellarCopy dst frm src n).run s).pending = s.pending := rfl
@[simp] theorem cellarCopy_fuse (dst : Nat) (frm : State → Mem) (src n : Nat) (s : State) : ((cellarCopy dst frm src n).run s).fuse = s.fuse := rfl
@[simp] theorem cellarCopy_mem (dst : Nat) (frm : State → Mem) (src n : Nat) (s : State) : ((cellarCopy dst frm src n).run s).mem = s.mem := rfl
@[simp] theorem cellarCopy_win (dst : Nat) (frm : State → Mem) (src n : Nat) (s : State) : ((cellarCopy dst frm src n).run s).win = s.win := rfl
@[simp] theorem cellarCopy_cellar (dst : Nat) (frm : State → Mem) (src n : Nat) (s : State) : ((cellarCopy dst frm src n).run s).cellar = Mem.copyFrom s.cellar dst (frm s) src n := rfl
@[simp] theorem cellarCopy_regs (dst : Nat) (frm : State → Mem) (src n : Nat) (s : State) : ((cellarCopy dst frm src n).run s).regs = s.regs := rfl
@[simp] theorem cellarCopy_live (dst : Nat) (frm : State → Mem) (src n : Nat) (s : State) : ((cellarCopy dst frm src n).run s).live = s.live := rfl
@[simp] theorem cellarCopy_sys (dst : Nat) (frm : State → Mem) (src n : Nat) (s : State) : ((cellarCopy dst frm src n).run s).sys = s.sys := rfl

@[simp] theorem cellarZero_pending (a n : Nat) (s : State) : ((cellarZero a n).run s).pending = s.pending := rfl
@[simp] theorem cellarZero_fuse (a n : Nat) (s : State) : ((cellarZero a n).run s).fuse = s.fuse := rfl
@[simp] theorem cellarZero_mem (a n : Nat) (s : State) : ((cellarZero a n).run s).mem = s.mem := rfl
@[simp] theorem cellarZero_win (a n : Nat) (s : State) : ((cellarZero a n).run s).win = s.win := rfl
@[simp] theorem cellarZero_cellar (a n : Nat) (s : State) : ((cellarZero a n).run s).cellar = Mem.zero s.cellar a n := rfl
@[simp] theorem cellarZero_regs (a n : Nat) (s : State) : ((cellarZero a n).run s).regs = s.regs := rfl
@[simp] theorem cellarZero_live (a n : Nat) (s : State) : ((cellarZero a n).run s).live = s.live := rfl
@[simp] theorem cellarZero_sys (a n : Nat) (s : State) : ((cellarZero a n).run s).sys = s.sys := rfl

@[simp] theorem reg_pending (r : R) (p : Fin 4) (i : Nat) (v : Word) (s : State) : ((reg r p i v).run s).pending = s.pending := rfl
@[simp] theorem reg_fuse (r : R) (p : Fin 4) (i : Nat) (v : Word) (s : State) : ((reg r p i v).run s).fuse = s.fuse := rfl
@[simp] theorem reg_mem (r : R) (p : Fin 4) (i : Nat) (v : Word) (s : State) : ((reg r p i v).run s).mem = s.mem := rfl
@[simp] theorem reg_win (r : R) (p : Fin 4) (i : Nat) (v : Word) (s : State) : ((reg r p i v).run s).win = s.win := rfl
@[simp] theorem reg_cellar (r : R) (p : Fin 4) (i : Nat) (v : Word) (s : State) : ((reg r p i v).run s).cellar = s.cellar := rfl
@[simp] theorem reg_regs (r : R) (p : Fin 4) (i : Nat) (v : Word) (s : State) : ((reg r p i v).run s).regs = RegFile.put s.regs r p i v := rfl
@[simp] theorem reg_live (r : R) (p : Fin 4) (i : Nat) (v : Word) (s : State) : ((reg r p i v).run s).live = s.live := rfl
@[simp] theorem reg_sys (r : R) (p : Fin 4) (i : Nat) (v : Word) (s : State) : ((reg r p i v).run s).sys = s.sys := rfl

@[simp] theorem goLive_pending (r : R) (p : Fin 4) (i : Nat) (s : State) : ((goLive r p i).run s).pending = s.pending := rfl
@[simp] theorem goLive_fuse (r : R) (p : Fin 4) (i : Nat) (s : State) : ((goLive r p i).run s).fuse = s.fuse := rfl
@[simp] theorem goLive_mem (r : R) (p : Fin 4) (i : Nat) (s : State) : ((goLive r p i).run s).mem = s.mem := rfl
@[simp] theorem goLive_win (r : R) (p : Fin 4) (i : Nat) (s : State) : ((goLive r p i).run s).win = s.win := rfl
@[simp] theorem goLive_cellar (r : R) (p : Fin 4) (i : Nat) (s : State) : ((goLive r p i).run s).cellar = s.cellar := rfl
@[simp] theorem goLive_regs (r : R) (p : Fin 4) (i : Nat) (s : State) : ((goLive r p i).run s).regs = s.regs := rfl
@[simp] theorem goLive_live (r : R) (p : Fin 4) (i : Nat) (s : State) : ((goLive r p i).run s).live = RegFile.put s.live r p i (RegFile.get s.regs r p i) := rfl
@[simp] theorem goLive_sys (r : R) (p : Fin 4) (i : Nat) (s : State) : ((goLive r p i).run s).sys = s.sys := rfl

@[simp] theorem allLive_pending (s : State) : ((allLive).run s).pending = s.pending := rfl
@[simp] theorem allLive_fuse (s : State) : ((allLive).run s).fuse = s.fuse := rfl
@[simp] theorem allLive_mem (s : State) : ((allLive).run s).mem = s.mem := rfl
@[simp] theorem allLive_win (s : State) : ((allLive).run s).win = s.win := rfl
@[simp] theorem allLive_cellar (s : State) : ((allLive).run s).cellar = s.cellar := rfl
@[simp] theorem allLive_regs (s : State) : ((allLive).run s).regs = s.regs := rfl
@[simp] theorem allLive_live (s : State) : ((allLive).run s).live = s.regs := rfl
@[simp] theorem allLive_sys (s : State) : ((allLive).run s).sys = s.sys := rfl

@[simp] theorem regReset_pending (t : RegKey → Bool) (s : State) : ((regReset t).run s).pending = s.pending := rfl
@[simp] theorem regReset_fuse (t : RegKey → Bool) (s : State) : ((regReset t).run s).fuse = s.fuse := rfl
@[simp] theorem regReset_mem (t : RegKey → Bool) (s : State) : ((regReset t).run s).mem = s.mem := rfl
@[simp] theorem regReset_win (t : RegKey → Bool) (s : State) : ((regReset t).run s).win = s.win := rfl
@[simp] theorem regReset_cellar (t : RegKey → Bool) (s : State) : ((regReset t).run s).cellar = s.cellar := rfl
@[simp] theorem regReset_regs (t : RegKey → Bool) (s : State) : ((regReset t).run s).regs = s.regs.filter (fun c => !(t c.1)) := rfl
@[simp] theorem regReset_live (t : RegKey → Bool) (s : State) : ((regReset t).run s).live = s.live.filter (fun c => !(t c.1)) := rfl
@[simp] theorem regReset_sys (t : RegKey → Bool) (s : State) : ((regReset t).run s).sys = s.sys := rfl

@[simp] theorem memDrop_pending (t : Nat → Bool) (s : State) : ((memDrop t).run s).pending = s.pending := rfl
@[simp] theorem memDrop_fuse (t : Nat → Bool) (s : State) : ((memDrop t).run s).fuse = s.fuse := rfl
@[simp] theorem memDrop_mem (t : Nat → Bool) (s : State) : ((memDrop t).run s).mem = s.mem.filter (fun c => !(t c.1)) := rfl
@[simp] theorem memDrop_win (t : Nat → Bool) (s : State) : ((memDrop t).run s).win = s.win := rfl
@[simp] theorem memDrop_cellar (t : Nat → Bool) (s : State) : ((memDrop t).run s).cellar = s.cellar := rfl
@[simp] theorem memDrop_regs (t : Nat → Bool) (s : State) : ((memDrop t).run s).regs = s.regs := rfl
@[simp] theorem memDrop_live (t : Nat → Bool) (s : State) : ((memDrop t).run s).live = s.live := rfl
@[simp] theorem memDrop_sys (t : Nat → Bool) (s : State) : ((memDrop t).run s).sys = s.sys := rfl

end Sys2Proof.Machine.Upd
end

