-- ==== Sys2Proof/Laws/Frame.lean ====
section
/-!
SUPPORT. Frames: a view of the state that a change does not alter. One lemma per way of combining changes, so that the frame of
an operation follows from the frames of its parts.
-/

namespace Sys2Proof.Machine

variable {α β : Type}

/-- A table with one entry changed, read at an entry. -/
theorem updAt_get {n : Nat} (v : Vector α n) (i j : Fin n) (f : α → α) :
    (updAt v i f).get j = if i = j then f (v.get i) else v.get j := by
  have get (w : Vector α n) (k : Fin n) : w.get k = w[k.val] := rfl
  by_cases h : i = j
  · subst h; simp [updAt, get]
  · simp [updAt, get, h, Fin.val_ne_of_ne h]

@[simp] theorem updAt_get_same {n : Nat} (v : Vector α n) (i : Fin n) (f : α → α) : (updAt v i f).get i = f (v.get i) := by
  simp [updAt_get]

/-- A change leaves a view of the state as it was. -/
def Fixes (f : State → α) (u : Upd) : Prop := ∀ s, f (u.run s) = f s

namespace Fixes

theorem skip (f : State → α) : Fixes f .skip := fun _ => rfl

theorem andThen {f : State → α} {a b : Upd} (ha : Fixes f a) (hb : Fixes f b) : Fixes f (.andThen a b) :=
  fun s => (hb (a.run s)).trans (ha s)

theorem read {f : State → α} {g : State → Upd} (h : ∀ s, Fixes f (g s)) : Fixes f (.read g) := fun s => h s s

theorem seq {f : State → α} {l : List Upd} (h : ∀ u ∈ l, Fixes f u) : Fixes f (.seq l) := by
  induction l with
  | nil => exact skip f
  | cons a r ih =>
    cases r with
    | nil => exact h a (by simp)
    | cons b r => exact andThen (h a (by simp)) (ih fun u hu => h u (by simp [hu]))

theorem each {f : State → α} {l : List β} {g : β → Upd} (h : ∀ x ∈ l, Fixes f (g x)) : Fixes f (.each l g) := by
  induction l with
  | nil => exact skip f
  | cons x r ih => exact andThen (h x (by simp)) (ih fun y hy => h y (by simp [hy]))

theorem when {f : State → α} {c : Bool} {a : Upd} (h : Fixes f a) : Fixes f (.when c a) := by
  cases c
  · exact skip f
  · exact h

theorem ite {f : State → α} {c : Prop} [Decidable c] {a b : Upd} (ha : Fixes f a) (hb : Fixes f b) :
    Fixes f (if c then a else b) := by split <;> assumption

/-- A view of a fixed view is fixed. -/
theorem map {f : State → α} {u : Upd} (h : Fixes f u) (g : α → β) : Fixes (fun s => g (f s)) u :=
  fun s => congrArg g (h s)

/-- A change of the subsystems' data that leaves a view of them leaves it in the state. -/
theorem sys {g : Sys → α} {f : Sys → Sys} (h : ∀ y, g (f y) = g y) : Fixes (fun s => g s.sys) (.sys f) := fun s => h s.sys

/-- A change of one partition's data leaves a view of every partition's data that it leaves there. -/
theorem part {g : PSys → α} {p : Fin 4} {f : PSys → PSys} (h : ∀ y, g (f y) = g y) (q : Fin 4) :
    Fixes (fun s => g (s.sys.part.get q)) (.part p f) := by
  intro s
  simp only [Upd.part_sys, updAt_get]
  split
  · rename_i hq; subst hq; exact h _
  · rfl

end Fixes

end Sys2Proof.Machine
end

