-- ==== Sys2Proof/Laws/Reply.lean ====
section
/-!
SUPPORT. What posting a reply may change, said once: the command leaves the store; then the replies of the Utertil ring, the
writes on their way to fan-out records, the Ledger's running counters, the fabric, what leaves the part, the memory of the reply,
and the counts of rings, tallies and Utertil may change. Everything else is as it was.
-/

namespace Sys2Proof.Machine

/-- One partition's data but for what delivering a reply may change. -/
def PSys.noReply (y : PSys) : PSys := { y with shareWrites := [], ut := UtSt.reset }

/-- The part's data but for the partitions' and what a reply may change. -/
def Sys.noReply (y : Sys) : Sys :=
  { y with part := Vector.replicate 4 PSys.reset, bind := { y.bind with ledger := [] }, fab := FabricSt.reset, out := [],
           poison := [], linesRem := [] }

/-- The registers that a reply may change. -/
def replyRegs : List R := [.ringStatus, .ringErrcount, .stkWork, .tally, .utCount]

/-- All of the state but what a reply may change. -/
structure KeptView where
  sys : Sys
  part : Fin 4 → PSys
  win : Mem
  cellar : Mem
  fuse : Fuses
  pending : List Instr
  reg : R → Fin 4 → Nat → Word
  live : R → Fin 4 → Nat → Word

/-- That view of a state. -/
def kept (s : State) : KeptView :=
  { sys := s.sys.noReply, part := fun q => (psys s q).noReply, win := s.win, cellar := s.cellar, fuse := s.fuse,
    pending := s.pending, reg := fun r p i => if r ∈ replyRegs then 0 else rd s r p i,
    live := fun r p i => if r ∈ replyRegs then 0 else lv s r p i }

theorem psys_part (s : State) (p q : Fin 4) (f : PSys → PSys) :
    psys ((Upd.part p f).run s) q = if p = q then f (psys s q) else psys s q := by
  simp only [psys, Upd.part_sys, updAt_get]
  split
  · rename_i h; subst h; rfl
  · rfl

theorem kept_sys {f : Sys → Sys} (h : ∀ y, (f y).noReply = y.noReply) (hp : ∀ y, (f y).part = y.part) : Fixes kept (.sys f) := by
  intro s
  simp only [kept, Upd.sys_sys, h, psys, hp]
  rfl

theorem kept_part {p : Fin 4} {f : PSys → PSys} (h : ∀ y, (f y).noReply = y.noReply) : Fixes kept (.part p f) := by
  intro s
  have hp (q : Fin 4) : (psys ((Upd.part p f).run s) q).noReply = (psys s q).noReply := by
    rw [psys_part]; split
    · exact h _
    · rfl
  simp only [kept, hp]
  rfl

theorem kept_reg {r : R} (h : r ∈ replyRegs) (p : Fin 4) (i : Nat) (v : Word) : Fixes kept (.reg r p i v) := by
  intro s
  have hr (r' : R) (q : Fin 4) (j : Nat) : (if r' ∈ replyRegs then 0 else rd ((Upd.reg r p i v).run s) r' q j)
      = if r' ∈ replyRegs then 0 else rd s r' q j := by
    split
    · rfl
    · rename_i hn
      exact RegFile.get_put_other _ _ fun e => hn (by have : r' = r := congrArg RegKey.r e; rw [this]; exact h)
  simp only [kept, hr]
  rfl

theorem kept_goLive {r : R} (h : r ∈ replyRegs) (p : Fin 4) (i : Nat) : Fixes kept (.goLive r p i) := by
  intro s
  have hr (r' : R) (q : Fin 4) (j : Nat) : (if r' ∈ replyRegs then 0 else lv ((Upd.goLive r p i).run s) r' q j)
      = if r' ∈ replyRegs then 0 else lv s r' q j := by
    split
    · rfl
    · rename_i hn
      exact RegFile.get_put_other _ _ fun e => hn (by have : r' = r := congrArg RegKey.r e; rw [this]; exact h)
  simp only [kept, hr]
  rfl

theorem kept_memWrite (a : Nat) (bs : Bytes) : Fixes kept (.memWrite a bs) := fun _ => rfl

theorem kept_regMod {r : R} (h : r ∈ replyRegs) (p : Fin 4) (i : Nat) (f : Word → Word) : Fixes kept (regMod r p i f) :=
  .read fun _ => kept_reg h _ _ _

theorem kept_regCount {r : R} (h : r ∈ replyRegs) (p : Fin 4) (i hi lo n : Nat) : Fixes kept (regCount r p i hi lo n) :=
  kept_regMod h _ _ _

theorem kept_emit (o : Out) : Fixes kept (emit o) := kept_sys (fun _ => rfl) fun _ => rfl

theorem kept_ledger (t i n : Nat) : Fixes kept (ledger t i n) := by
  unfold ledger
  split
  · exact .skip _
  · exact kept_sys (fun _ => rfl) fun _ => rfl

theorem kept_utTouch (a n : Nat) : Fixes kept (utTouch a n) :=
  .read fun _ => .each fun _ _ => kept_part fun _ => rfl

theorem kept_memPut (a : Nat) (bs : Bytes) : Fixes kept (memPut a bs) := by
  refine .read fun s => .seq fun u hu => ?_
  simp only [List.mem_cons, List.not_mem_nil, or_false] at hu
  rcases hu with rfl | rfl | rfl
  · exact kept_memWrite _ _
  · exact kept_utTouch _ _
  · exact .when (kept_sys (fun _ => rfl) fun _ => rfl)

theorem kept_stackLines (k n : Nat) : Fixes kept (stackLines k n) := by
  refine .read fun s => .when (.seq fun u hu => ?_)
  simp only [List.mem_cons, List.not_mem_nil, or_false] at hu
  rcases hu with rfl | rfl
  · exact kept_sys (fun _ => rfl) fun _ => rfl
  · exact kept_regCount (by decide) _ _ _ _ _

theorem kept_memStore (a : Nat) (bs : Bytes) : Fixes kept (memStore a bs) := by
  refine .seq fun u hu => ?_
  simp only [List.mem_cons, List.not_mem_nil, or_false] at hu
  rcases hu with rfl | rfl
  · exact kept_memPut _ _
  · exact .read fun _ => .when (kept_stackLines _ _)

theorem kept_chargeWrite (s : State) (t a n : Nat) : Fixes kept (chargeWrite s t a n) := .ite (kept_ledger _ _ _) (.skip _)

theorem kept_enqueue (pkt : Packet) (fwd : Bool) (r : Nat) : Fixes kept (enqueue pkt fwd r) := by
  refine .read fun s => ?_
  split
  · refine .seq fun u hu => ?_
    simp only [List.mem_cons, List.not_mem_nil, or_false] at hu
    rcases hu with rfl | rfl
    · exact kept_sys (fun _ => rfl) fun _ => rfl
    · exact .when (kept_ledger _ _ _)
  · exact .skip _

theorem kept_sentNow (pkt : Packet) : Fixes kept (sentNow pkt) := .read fun _ => kept_sys (fun _ => rfl) fun _ => rfl

theorem kept_sendOwn (pkt : Packet) : Fixes kept (sendOwn pkt) := by
  refine .read fun s => ?_
  split
  · exact .skip _
  · dsimp only
    split
    · exact kept_sys (fun _ => rfl) fun _ => rfl
    · refine .seq fun u hu => ?_
      simp only [List.mem_cons, List.not_mem_nil, or_false] at hu
      rcases hu with rfl | rfl
      · exact kept_sentNow _
      · exact kept_enqueue _ _ _

theorem kept_sendCredited (pkt : Packet) : Fixes kept (sendCredited pkt) := by
  refine .read fun s => ?_
  split
  · dsimp only
    split
    · refine .seq fun u hu => ?_
      simp only [List.mem_cons, List.not_mem_nil, or_false] at hu
      rcases hu with rfl | rfl
      · exact kept_sys (fun _ => rfl) fun _ => rfl
      · exact kept_sendOwn _
    · refine .seq fun u hu => ?_
      simp only [List.mem_cons, List.not_mem_nil, or_false] at hu
      rcases hu with rfl | rfl
      · exact kept_sys (fun _ => rfl) fun _ => rfl
      · exact kept_enqueue _ _ _
  · exact kept_sendOwn _

theorem kept_request (pkt : Packet) (why : Why) : Fixes kept (request pkt why) := by
  refine .read fun s => .seq fun u hu => ?_
  simp only [List.mem_cons, List.not_mem_nil, or_false] at hu
  rcases hu with rfl | rfl
  · exact kept_sys (fun _ => rfl) fun _ => rfl
  · exact kept_sendCredited _

theorem kept_hostWriteUp (t a : Nat) (d : Bytes) : Fixes kept (hostWriteUp t a d) := by
  refine .read fun s => ?_
  split
  · refine .seq fun u hu => ?_
    simp only [List.mem_cons, List.not_mem_nil, or_false] at hu
    rcases hu with rfl | rfl
    · exact kept_emit _
    · exact kept_ledger _ _ _
  · exact .skip _

theorem kept_replyLost (p : Fin 4) (ring : Nat) : Fixes kept (replyLost p ring) := by
  refine .when (.seq fun u hu => ?_)
  simp only [List.mem_cons, List.not_mem_nil, or_false] at hu
  rcases hu with rfl | rfl
  · exact kept_regMod (by decide) _ _ _
  · exact kept_regCount (by decide) _ _ _ _ _

theorem kept_remoteWrite (cls dst ten : Nat) (host : Bool) (addr : Nat) (bs : Bytes) (why : Why) :
    Fixes kept (remoteWrite cls dst ten host addr bs why) := .each fun _ _ => .read fun _ => kept_request _ _

theorem kept_deliver (p : Fin 4) (c : Cmd) (r : Bytes) : Fixes kept (deliver p c r) := by
  refine .read fun s => ?_
  split
  · exact kept_emit _
  · split
    · split
      · exact kept_part fun _ => rfl
      · split
        · refine .seq fun u hu => ?_
          simp only [List.mem_cons, List.not_mem_nil, or_false] at hu
          rcases hu with rfl | rfl
          · exact kept_memStore _ _
          · exact kept_chargeWrite _ _ _ _
        · exact kept_replyLost _ _
    · split
      · split
        · exact .each fun _ _ => kept_hostWriteUp _ _ _
        · exact kept_replyLost _ _
      · dsimp only
        split
        · refine .seq fun u hu => ?_
          simp only [List.mem_cons, List.not_mem_nil, or_false] at hu
          rcases hu with rfl | rfl
          · exact .each fun _ _ => kept_remoteWrite _ _ _ _ _ _ _
          · exact kept_sys (fun _ => rfl) fun _ => rfl
        · exact kept_replyLost _ _

theorem kept_utWriteReply (p : Fin 4) (r : Bytes) : Fixes kept (utWriteReply p r) := by
  refine .read fun s => .seq fun u hu => ?_
  simp only [List.mem_cons, List.not_mem_nil, or_false] at hu
  rcases hu with rfl | rfl | rfl | rfl | rfl
  · exact .when (kept_memStore _ _)
  all_goals exact kept_memStore _ _

theorem kept_utFlush (p : Fin 4) : Fixes kept (utFlush p) := by
  refine .read fun s => .seq fun u hu => ?_
  simp only [List.mem_cons, List.not_mem_nil, or_false] at hu
  rcases hu with rfl | rfl
  · exact kept_part fun _ => rfl
  · exact .each fun _ _ => kept_utWriteReply _ _

theorem kept_utReply (p : Fin 4) (c : Cmd) (status detail : Nat) (body : Bytes) : Fixes kept (utReply p c status detail body) := by
  refine .seq fun u hu => ?_
  simp only [List.mem_cons, List.not_mem_nil, or_false] at hu
  rcases hu with rfl | rfl | rfl
  · exact kept_part fun _ => rfl
  · exact .when (kept_regCount (by decide) _ _ _ _ _)
  · exact kept_utFlush _

theorem kept_tallyInc (p : Fin 4) (t : Nat) : Fixes kept (tallyInc p t) := by
  refine .seq fun u hu => ?_
  simp only [List.mem_cons, List.not_mem_nil, or_false] at hu
  rcases hu with rfl | rfl
  · exact kept_regMod (by decide) _ _ _
  · exact kept_goLive (by decide) _ _

/-- A partition's data once a command has left its store. -/
def PSys.posted (y : PSys) (c : Cmd) (effect : Nat) : PSys :=
  { y with cmds := y.cmds.filter (·.ref != c.ref)
           ringEffect := if effect = 0 then y.ringEffect else (c.ring, c.ref, effect) :: y.ringEffect }

/-- What posting a status does: the command leaves the store, and nothing else changes in the view. -/
theorem kept_postReply (p : Fin 4) (c : Cmd) (status detail : Nat) (body : Bytes) (ref effect : Nat) (s : State) :
    kept ((postReply p c status detail body ref effect).run s) = kept ((Upd.part p fun y => y.posted c effect).run s) := by
  have rest : Fixes kept (.seq [
      .when (status == stRetry) (ledger c.tenant 2 1),
      if c.ring = 34 then utReply p c status detail body
      else .when (!(nbit c.flags 2 && status == stOk)) (deliver p c (replyBytes s p c status detail ref body)),
      .when (nbit c.flags 3 && unitHolds s 10 (32 * p.val + c.tally % 4096 / 128) c.tenant) (tallyInc p (c.tally % 4096))]) := by
    refine .seq fun u hu => ?_
    simp only [List.mem_cons, List.not_mem_nil, or_false] at hu
    rcases hu with rfl | rfl | rfl
    · exact .when (kept_ledger _ _ _)
    · split
      · exact kept_utReply _ _ _ _ _
      · exact .when (kept_deliver _ _ _)
    · exact .when (kept_tallyInc _ _)
  exact rest _

/-- A posted command is no longer in the store. -/
theorem postReply_gone (p : Fin 4) (c : Cmd) (status detail : Nat) (body : Bytes) (ref effect : Nat) (s : State) :
    cmdOf ((postReply p c status detail body ref effect).run s) p c.ref = none := by
  have h := congrArg (fun v : KeptView => (v.part p).cmds) (kept_postReply p c status detail body ref effect s)
  have h' : (psys ((postReply p c status detail body ref effect).run s) p).cmds = (psys s p).cmds.filter (·.ref != c.ref) := by
    simpa [kept, PSys.noReply, psys_part, PSys.posted] using h
  simp only [cmdOf, h', List.find?_eq_none, List.mem_filter]
  rintro d ⟨-, hd⟩
  simpa using hd

/-- A view of the subsystems' data that a reply cannot change is as before. -/
theorem postReply_sys {α : Type} (g : Sys → α) (hg : ∀ y, g y.noReply = g y) (p : Fin 4) (c : Cmd) (status detail : Nat)
    (body : Bytes) (ref effect : Nat) (s : State) :
    g ((postReply p c status detail body ref effect).run s).sys = g s.sys := by
  have h : g ((postReply p c status detail body ref effect).run s).sys.noReply = g s.sys.noReply :=
    congrArg (fun v : KeptView => g v.sys) (kept_postReply p c status detail body ref effect s)
  exact (hg _).symm.trans (h.trans (hg _))

/-- A view of one partition's data that a reply cannot change, its command store included, is that of the data once the command
has left the store. -/
theorem postReply_part {α : Type} (g : PSys → α) (hg : ∀ y, g y.noReply = g y) (p : Fin 4) (c : Cmd) (status detail : Nat)
    (body : Bytes) (ref effect : Nat) (s : State) (q : Fin 4) :
    g (psys ((postReply p c status detail body ref effect).run s) q)
      = g (if p = q then (psys s q).posted c effect else psys s q) := by
  have h : g (psys ((postReply p c status detail body ref effect).run s) q).noReply
      = g (psys ((Upd.part p fun y => y.posted c effect).run s) q).noReply :=
    congrArg (fun v : KeptView => g (v.part q)) (kept_postReply p c status detail body ref effect s)
  refine ((hg _).symm.trans (h.trans (hg _))).trans (congrArg g ?_)
  exact psys_part s p q fun y => y.posted c effect

/-- Another command of the store stays. -/
theorem postReply_others (p : Fin 4) (c : Cmd) (status detail : Nat) (body : Bytes) (ref effect : Nat) (s : State) (q : Fin 4)
    (r : Nat) (h : q = p → r ≠ c.ref) :
    cmdOf ((postReply p c status detail body ref effect).run s) q r = cmdOf s q r := by
  have hc := postReply_part (fun y => y.cmds.find? (·.ref == r)) (fun _ => rfl) p c status detail body ref effect s q
  refine hc.trans ?_
  split
  · rename_i hq
    subst hq
    simp only [PSys.posted, List.find?_filter, cmdOf]
    congr 1
    funext d
    by_cases hd : d.ref = r
    · simp [hd, h rfl]
    · simp [hd]
  · rfl

/-- A register that a reply does not count in is as before. -/
theorem postReply_rd (p : Fin 4) (c : Cmd) (status detail : Nat) (body : Bytes) (ref effect : Nat) (s : State) {r : R}
    (h : r ∉ replyRegs) (q : Fin 4) (i : Nat) : rd ((postReply p c status detail body ref effect).run s) r q i = rd s r q i := by
  have e := congrArg (fun v : KeptView => v.reg r q i) (kept_postReply p c status detail body ref effect s)
  have e' : rd ((postReply p c status detail body ref effect).run s) r q i
      = rd ((Upd.part p fun y => y.posted c effect).run s) r q i := by simpa [kept, h] using e
  exact e'

end Sys2Proof.Machine
end

