-- ==== Sys2Proof/Laws/Commands.lean ====
section
/-!
SUPPORT. What running an operation on a command of the store comes to: one lemma for the shared check, and the elementary
changes of the store.
-/

namespace Sys2Proof.Machine

open Sys2Proof.Safety

/-- An admitted command of the operation's opcode is acted on. -/
theorem withCmd_run {s : State} {p : Fin 4} {op : Nat} {c : Cmd} (h : Held s p op c) (f : Cmd → Upd) :
    (withCmd p c.ref op f).run s = (f c).run s := by
  simp [withCmd, h.here, h.opcode, h.phase]

/-- A main-rail command acts while the clocks run. -/
theorem go_run {s : State} (h : Running s) (u : Upd) : Upd.go u s = .next (u.run s) := by
  simp [Upd.go_eq, show s.sys.pin.stopped = false from h]

/-- An admitted command of the operation's opcode: the outcome of its event. -/
theorem withCmd_go {s : State} {p : Fin 4} {op : Nat} {c : Cmd} (h : Held s p op c) (f : Cmd → Upd) :
    Upd.go (withCmd p c.ref op f) s = .next ((f c).run s) := by
  rw [go_run h.running, withCmd_run h]

theorem postPlain_gone (p : Fin 4) (c : Cmd) (status detail : Nat) (s : State) :
    Ended ((postPlain p c status detail).run s) p c := postReply_gone p c status detail [] 0 0 s

theorem postReply_ended (p : Fin 4) (c : Cmd) (status detail : Nat) (body : Bytes) (ref effect : Nat) (s : State) :
    Ended ((postReply p c status detail body ref effect).run s) p c := postReply_gone p c status detail body ref effect s

end Sys2Proof.Machine
end

