-- ==== Sys2Proof/Laws/Fields.lean ====
section
/-!
SUPPORT. Bit fields of registers: what a field or a bit reads after a field or a bit has been set.
-/

namespace Sys2Proof.Machine

/-- A bit of a mask. -/
theorem maskOf_bit (hi lo j : Nat) (h : lo ≤ hi) (hj : j < 64) : (maskOf hi lo).getLsbD j = decide (lo ≤ j ∧ j ≤ hi) := by
  simp only [maskOf, BitVec.getLsbD_ofNat, hj, decide_true, Bool.true_and]
  rw [Nat.testBit_mul_two_pow]
  by_cases hl : lo ≤ j
  · simp [hl, Nat.testBit_two_pow_sub_one]; omega
  · simp [hl]

/-- A bit of a register with a field set. -/
theorem setFld_bit (w : Word) (hi lo v j : Nat) (h : lo ≤ hi) (hj : j < 64) :
    (setFld w hi lo v).getLsbD j = if lo ≤ j ∧ j ≤ hi then v.testBit (j - lo) else w.getLsbD j := by
  simp only [setFld, BitVec.getLsbD_or, BitVec.getLsbD_and, BitVec.getLsbD_not, maskOf_bit hi lo j h hj,
    BitVec.getLsbD_ofNat, Nat.testBit_mul_two_pow, hj]
  by_cases hm : lo ≤ j ∧ j ≤ hi
  · simp [hm]
  · simp [hm]

/-- A bit of a register with one bit set. -/
theorem bit_setBit (w : Word) (n j : Nat) (b : Bool) (hj : j < 64) :
    bit (setBit w n b) j = if n = j then b else bit w j := by
  unfold bit setBit
  rw [setFld_bit _ _ _ _ _ (Nat.le_refl n) hj]
  by_cases hn : n = j
  · subst hn; cases b <;> simp
  · have : ¬(n ≤ j ∧ j ≤ n) := by omega
    simp [hn, this]

/-- A bit of a register with a field set. -/
theorem bit_setFld (w : Word) (hi lo v j : Nat) (h : lo ≤ hi) (hj : j < 64) :
    bit (setFld w hi lo v) j = if lo ≤ j ∧ j ≤ hi then v.testBit (j - lo) else bit w j := setFld_bit w hi lo v j h hj

/-- A field's bits are the register's. -/
theorem fld_testBit (w : Word) (hi lo j : Nat) : (fld w hi lo).testBit j = (decide (j < hi - lo + 1) && w.getLsbD (lo + j)) := by
  simp [fld, Nat.testBit_mod_two_pow, Nat.testBit_div_two_pow, BitVec.testBit_toNat, Nat.add_comm]

/-- Two registers that agree on a field's bits have the same field. -/
theorem fld_congr {w x : Word} {hi lo : Nat} (h : ∀ j, lo ≤ j → j ≤ hi → w.getLsbD j = x.getLsbD j) (hl : lo ≤ hi) :
    fld w hi lo = fld x hi lo := by
  apply Nat.eq_of_testBit_eq
  intro j
  rw [fld_testBit, fld_testBit]
  by_cases hj : j < hi - lo + 1
  · simp [hj, h (lo + j) (by omega) (by omega)]
  · simp [hj]

/-- A field just set. -/
theorem fld_setFld_same (w : Word) (hi lo v : Nat) (hl : lo ≤ hi) (hh : hi < 64) :
    fld (setFld w hi lo v) hi lo = v % 2 ^ (hi - lo + 1) := by
  apply Nat.eq_of_testBit_eq
  intro j
  rw [fld_testBit, Nat.testBit_mod_two_pow]
  by_cases hj : j < hi - lo + 1
  · rw [setFld_bit _ _ _ _ _ hl (by omega)]
    have : lo ≤ lo + j ∧ lo + j ≤ hi := by omega
    simp [hj, this]
  · simp [hj]

/-- A field apart from the one set. -/
theorem fld_setFld_other (w : Word) (hi lo v a b : Nat) (hl : lo ≤ hi) (hb : b ≤ a) (ha : a < 64) (h : a < lo ∨ hi < b) :
    fld (setFld w hi lo v) a b = fld w a b := by
  refine fld_congr (fun j h1 h2 => ?_) hb
  rw [setFld_bit _ _ _ _ _ hl (by omega)]
  have : ¬(lo ≤ j ∧ j ≤ hi) := by omega
  simp [this]

/-- A field that a mask keeps. -/
theorem fld_and (w m : Word) (hi lo : Nat) (hl : lo ≤ hi) (h : ∀ j, lo ≤ j → j ≤ hi → m.getLsbD j = true) :
    fld (w &&& m) hi lo = fld w hi lo :=
  fld_congr (fun j h1 h2 => by simp [h j h1 h2]) hl

theorem bit_and (w m : Word) (j : Nat) : bit (w &&& m) j = (bit w j && bit m j) := by simp [bit]

end Sys2Proof.Machine
end

