-- ==== Sys2Proof/Laws/Registers.lean ====
section
/-!
SUPPORT. Registers: what a register reads after a register, or anything else, has changed.
-/

namespace Sys2Proof.Machine

theorem regKey_r {r r' : R} {p p' : Fin 4} {i i' : Nat} (h : r' ≠ r) : regKey r' p' i' ≠ regKey r p i :=
  fun e => h (congrArg RegKey.r e)

theorem regKey_i {r r' : R} {p p' : Fin 4} {i i' : Nat} (h : i' ≠ i) : regKey r' p' i' ≠ regKey r p i :=
  fun e => h (congrArg RegKey.i e)

theorem rd_reg_same (s : State) (r : R) (p : Fin 4) (i : Nat) (v : Word) :
    rd ((Upd.reg r p i v).run s) r p i = v &&& r.defined := RegFile.get_put_same _ _ _ _ _

theorem rd_reg_other (s : State) {r r' : R} {p p' : Fin 4} {i i' : Nat} (v : Word) (h : regKey r' p' i' ≠ regKey r p i) :
    rd ((Upd.reg r p i v).run s) r' p' i' = rd s r' p' i' := RegFile.get_put_other _ _ h

theorem lv_goLive_same (s : State) (r : R) (p : Fin 4) (i : Nat) :
    lv ((Upd.goLive r p i).run s) r p i = rd s r p i &&& r.defined := RegFile.get_put_same _ _ _ _ _

theorem lv_goLive_other (s : State) {r r' : R} {p p' : Fin 4} {i i' : Nat} (h : regKey r' p' i' ≠ regKey r p i) :
    lv ((Upd.goLive r p i).run s) r' p' i' = lv s r' p' i' := RegFile.get_put_other _ _ h

@[simp] theorem rd_goLive (s : State) (r r' : R) (p p' : Fin 4) (i i' : Nat) :
    rd ((Upd.goLive r p i).run s) r' p' i' = rd s r' p' i' := rfl
@[simp] theorem rd_allLive (s : State) (r : R) (p : Fin 4) (i : Nat) : rd (Upd.allLive.run s) r p i = rd s r p i := rfl
@[simp] theorem lv_allLive (s : State) (r : R) (p : Fin 4) (i : Nat) : lv (Upd.allLive.run s) r p i = rd s r p i := rfl
@[simp] theorem rd_sys (s : State) (f : Sys → Sys) (r : R) (p : Fin 4) (i : Nat) : rd ((Upd.sys f).run s) r p i = rd s r p i := rfl
@[simp] theorem lv_sys (s : State) (f : Sys → Sys) (r : R) (p : Fin 4) (i : Nat) : lv ((Upd.sys f).run s) r p i = lv s r p i := rfl
@[simp] theorem rd_part (s : State) (q : Fin 4) (f : PSys → PSys) (r : R) (p : Fin 4) (i : Nat) :
    rd ((Upd.part q f).run s) r p i = rd s r p i := rfl
@[simp] theorem lv_part (s : State) (q : Fin 4) (f : PSys → PSys) (r : R) (p : Fin 4) (i : Nat) :
    lv ((Upd.part q f).run s) r p i = lv s r p i := rfl
@[simp] theorem lv_reg (s : State) (r r' : R) (p p' : Fin 4) (i i' : Nat) (v : Word) :
    lv ((Upd.reg r p i v).run s) r' p' i' = lv s r' p' i' := rfl
@[simp] theorem rd_memWrite (s : State) (a : Nat) (bs : Bytes) (r : R) (p : Fin 4) (i : Nat) :
    rd ((Upd.memWrite a bs).run s) r p i = rd s r p i := rfl
@[simp] theorem rd_winWrite (s : State) (a : Nat) (bs : Bytes) (r : R) (p : Fin 4) (i : Nat) :
    rd ((Upd.winWrite a bs).run s) r p i = rd s r p i := rfl

@[simp] theorem regMod_run (r : R) (p : Fin 4) (i : Nat) (f : Word → Word) (s : State) :
    (regMod r p i f).run s = (Upd.reg r p i (f (rd s r p i))).run s := rfl

@[simp] theorem regNow_run (r : R) (p : Fin 4) (i : Nat) (f : Word → Word) (s : State) :
    (regNow r p i f).run s = (Upd.goLive r p i).run ((Upd.reg r p i (f (rd s r p i))).run s) := rfl

@[simp] theorem regCount_run (r : R) (p : Fin 4) (i hi lo n : Nat) (s : State) :
    (regCount r p i hi lo n).run s
      = (Upd.reg r p i (setFld (rd s r p i) hi lo (satAdd (hi - lo + 1) (fld (rd s r p i) hi lo) n))).run s := rfl

@[simp] theorem regSetBit_run (r : R) (p : Fin 4) (i b : Nat) (s : State) :
    (regSetBit r p i b).run s = (Upd.reg r p i (setBit (rd s r p i) b true)).run s := rfl

/-- What a software write makes of a register has no reserved bit set. -/
theorem swWrite_defined (r : R) (old v : Word) : swWrite r old v &&& r.defined = swWrite r old v := by
  have key (a b g d e : Word) : ((a &&& b) ||| (g &&& d) ||| (g &&& e &&& ~~~a)) &&& (b ||| e ||| d)
      = (a &&& b) ||| (g &&& d) ||| (g &&& e &&& ~~~a) := by
    ext i hi
    simp only [BitVec.getElem_and, BitVec.getElem_or, BitVec.getElem_not]
    generalize a[i] = x1, b[i] = x2, g[i] = x3, d[i] = x4, e[i] = x5
    revert x1 x2 x3 x4 x5
    decide
  exact key v r.desc.rw old r.desc.ro r.desc.w1c

end Sys2Proof.Machine
end

