-- ==== Sys2Proof/Tests/Slice0.lean ====
section
/-!
SUPPORT. The author's own tests: ill-formed commands that `Instr.wf` refuses, single commands on small states with results from the
spec's tables, and, for every obligation with hypotheses, a state and operands that meet them.
-/

namespace Sys2Proof.Tests

open Sys2Proof Sys2Proof.Machine Sys2Proof.Safety

/- One test after another: each is evaluated in the kernel, and many at once would need a thread each. -/
set_option Elab.async false

/-! ### Small states -/

/-- The part after reset with its ID assigned. -/
def s0 : State := State.reset

/-- A state with partition 0's data changed. -/
def part0 (s : State) (f : PSys → PSys) : State := { s with sys := { s.sys with part := updAt s.sys.part 0 f } }

/-- A state with the part-level data changed. -/
def sys0 (s : State) (f : Sys → Sys) : State := { s with sys := f s.sys }

/-- A state with one register, of partition 0 or of the part, at a value. -/
def reg0 (s : State) (r : R) (i : Nat) (v : Word) : State :=
  { s with regs := RegFile.put s.regs r 0 i v, live := RegFile.put s.live r 0 i v }

/-- A command in the store, admitted, of tenant 0, from ring 0. -/
def cmd0 (op : Nat) (params : Bytes) : Cmd :=
  { ref := 5, ring := 0, tenant := 0, steward := false, srcPart := 0, srcPartition := 0, opcode := op, flags := 0, cls := 1,
    timeout := 100, seq := 9, replyAddr := 0x1000, replyHost := false, replyPart := 0xFFFFF, bodyMax := 4096, tally := 0,
    params, ext := [], ignored := 0, accFrame := 0, admFrame := 1, phase := .admitted, pieces := [], slots := [], desc := [],
    thresh := 0, aux := 0, aux2 := 0, sbTag := 0 }

/-- A state whose partition 0 holds commands. -/
def store (s : State) (l : List Cmd) : State := part0 s fun x => { x with cmds := l }

/-- A command in the store of a running part is held. -/
theorem held_store (s : State) (c : Cmd) (l : List Cmd) (op : Nat) (hs : s.sys.pin.stopped = false) (ho : c.opcode = op)
    (hp : c.phase = .admitted) : Held (store s (c :: l)) 0 op c := by
  refine ⟨hs, ?_, ho, hp⟩
  show (psys ((Upd.part 0 _).run s) 0).cmds.find? _ = _
  rw [psys_part, if_pos rfl]
  simp

/-- A unit bound to tenant 0, of partition 0. -/
def unitOf (kind idx : Nat) : Nat × BUnit := (kind * 1048576 + idx, ⟨.bound, 0, 0, 0⟩)

/-- The part after reset with units of partition 0 bound to tenant 0 (two Mills, a walk block, the first grains of stack 0, flash set 0,
a lane group, the text unit, a Pantry way, a DMA channel), and stack 0 and channel 0 READY. -/
def sM : State :=
  reg0 (reg0 (sys0 s0 fun y => { y with bind := { y.bind with units := [unitOf 1 0, unitOf 1 1, unitOf 2 0, unitOf 3 0, unitOf 3 1,
    unitOf 4 0, unitOf 5 0, unitOf 6 0, unitOf 8 0, unitOf 9 0] } }) .stkStatus 0 0x30001000200000) .flStatus 0 (2 <<< 56)

/-- The fabric manager's firmware. -/
def w0 : Issuer := ⟨.steward, 0, 0⟩

theorem safe_s0 : Safe s0 := by constructor <;> decide

/-! ### A state and operands for the hypotheses of every obligation -/

theorem witness_EveryStepKeepsSafety : ∃ s t, Safe s ∧ step s = .next t := ⟨s0, s0, safe_s0, rfl⟩

theorem witness_StepTakesTheFrontCommand : s0.pending = [] := rfl

/-- A state whose main rails have no clock. -/
def sStop : State := sys0 s0 fun y => { y with pin := { y.pin with stopped := true } }

theorem witness_CommandsNeverStopTheMachine : sStop.sys.pin.stopped = true := rfl

theorem witness_RefusedControlWritesChangeNothing :
    Running s0 ∧ ∀ o ∈ [0, 0x3FFFF8, 0x50000, 0x800000, 0x3FF0000], regionOf (0x30000000000 + o) = .control ∧
      (let a := 0x30000000000 + o
       let o := (a - 0x30000000000) % 0x1000000
       ¬ (0x40 ≤ o / 0x10000 ∧ o / 0x10000 < 0x80) ∧
       tenantMayWrite s0 (issuerTenant s0 ⟨.drover, 0, 5⟩) (toP ((a - 0x30000000000) / 0x1000000)) (o / 0x10000)
         (pageBlock (o / 0x10000) (o % 0x10000)) = false) := ⟨rfl, by decide +kernel⟩

theorem witness_RegisterRowsTakeTheirWrites :
    Running s0 ∧ issuerTenant s0 w0 = some 0 ∧ (∀ n ∈ [4, 256], 4 ≤ fld (.ofNat 64 n) 8 0 ∧ fld (.ofNat 64 n) 8 0 ≤ 256) ∧
    (∀ n ∈ [0, 3, 257], ¬ (4 ≤ fld (.ofNat 64 n) 8 0 ∧ fld (.ofNat 64 n) 8 0 ≤ 256)) ∧
    bit (rd (reg0 s0 .frameCtl 0 0x1000010) .frameCtl 0) 24 = true ∧ bit (0x8000000000000000 : Word) 63 = true ∧
    (∀ n ∈ [1, 0x7F7FFFFF], fld (.ofNat 64 n) 31 0 ≠ 0 ∧ bit (.ofNat 64 n) 31 = false ∧ f32Finite (fld (.ofNat 64 n) 31 0) = true) ∧
    (∀ n ∈ [0x100000000, 0x1000000000], s0.fuse.hostAllow = true ∧ 1 ≤ fld (.ofNat 64 n) 36 32 ∧ fld (.ofNat 64 n) 36 32 ≤ 16 ∧
      bit (.ofNat 64 n) 63 = bit (rd s0 .hostCfg 0) 63) ∧
    (∀ x ∈ [(0x50000, R.millCtl, 0), (0x60000, R.batchThresh, 0), (0x67FF8, R.batchThresh, 4095), (0xA01C0, R.flCtl, 7),
        (0x140000, R.crierDest, 0), (0x140008, R.crierRing, 0)],
      regionOf (0x30000000000 + x.1) = .control ∧ 1 ≤ x.1 / 0x10000 ∧ x.1 / 0x10000 ≤ 0x18 ∧ x.1 % 8 = 0 ∧
        regAt x.1 = some (x.2.1, x.2.2) ∧ x.2.1 ∈ [R.millCtl, .batchThresh, .flCtl, .crierDest, .crierRing]) ∧
    (∀ o ∈ [0x10004, 0x18FFF9], regionOf (0x30000000000 + o) = .control ∧ 1 ≤ o / 0x10000 ∧ o / 0x10000 ≤ 0x18 ∧ o % 8 ≠ 0) :=
  ⟨rfl, by decide +kernel⟩

/-- A Bell source, and a part that is none and has a Bell announced by another on port 3. -/
def sSource : State := reg0 s0 .frameCtl 0 0x1000010
def bell1 : BellInfo := ⟨1, 16, 0, 0, 0x10, 1, 256000⟩
def sPort : State := reg0 (reg0 s0 .portStatus 3 (5 <<< 56)) .portCfg 3 0x8200000000000000

def sHold : State := reg0 s0 .frameStatus 0 0x20000

theorem witness_BellStepsCountFrames :
    (Running sSource ∧ isSource sSource = true) ∧ (Running sHold ∧ isSource sHold = false ∧ inHoldover sHold = true) ∧
    (Running s0 ∧ isSource s0 = false ∧ bellFromPin s0 = false ∧ announcer s0 1 = none) :=
  ⟨⟨rfl, by decide +kernel⟩, ⟨rfl, by decide +kernel⟩, rfl, by decide +kernel⟩

/-- Port 3 receives Bell packets on the Bell source, on a part that takes its Bells from the pins, and on one that follows the packet's
source, a higher one, or a lower one. -/
def sBell (kind : Nat) : State :=
  let s := if kind = 0 then reg0 sPort .frameCtl 0 0x1000010 else if kind = 1 then reg0 sPort .bellpinCfg 0 0x4000000000000000 else sPort
  sys0 s fun y => { y with bell := { y.bell with source := if kind = 3 then some 0x11 else if kind = 4 then some 0xF else none } }

theorem bells : ∀ kind ∈ [0, 1, 2, 3, 4], let s := sBell kind
    Running s ∧ fld (rd s .portStatus 0 3) 59 56 = 5 ∧ bit (lv s .portCfg 0 3) 57 = true ∧ portLent s 3 = false ∧
    fld (rd s .portDelay 0 3) 31 0 < bell1.due ∧ isSource s = (kind == 0) ∧ bellFromPin s = (kind == 1) ∧
    (kind = 2 → s.sys.bell.source.getD bell1.source = bell1.source) ∧ (kind = 3 → bell1.source < s.sys.bell.source.getD bell1.source) ∧
    (kind = 4 → s.sys.bell.source.getD bell1.source < bell1.source) := by
  intro kind h
  simp only [List.mem_cons, List.not_mem_nil, or_false] at h
  rcases h with rfl | rfl | rfl | rfl | rfl <;> exact ⟨rfl, by decide +kernel⟩

theorem witness_BellSourcesAreHeard :
    (Running s0 ∧ isSource s0 = false ∧ inHoldover s0 = false) ∧
    (Running sSource ∧ isSource sSource = true) ∧ (Running sHold ∧ inHoldover sHold = true) ∧
    (∀ kind ∈ [0, 1, 2, 3, 4], let s := sBell kind
      Running s ∧ fld (rd s .portStatus 0 3) 59 56 = 5 ∧ bit (lv s .portCfg 0 3) 57 = true ∧ portLent s 3 = false ∧
      fld (rd s .portDelay 0 3) 31 0 < bell1.due ∧ isSource s = (kind == 0) ∧ bellFromPin s = (kind == 1) ∧
      (kind = 2 → s.sys.bell.source.getD bell1.source = bell1.source) ∧ (kind = 3 → bell1.source < s.sys.bell.source.getD bell1.source) ∧
      (kind = 4 → s.sys.bell.source.getD bell1.source < bell1.source)) ∧
    (Running s0 ∧ fld (rd s0 .portStatus 0 3) 59 56 ≠ 5) ∧ (Running sPort ∧ fld (rd sPort .portStatus 0 3) 59 56 = 5 ∧
      ({ bell1 with due := 0 }).due ≤ fld (rd sPort .portDelay 0 3) 31 0) ∧
    (∃ s, Running s ∧ bit (lv s .bellpinCfg 0) 62 = true ∧ bit (lv s .frameCtl 0) 24 = false) ∧
    ∃ s, Running s ∧ bit (lv s .bellpinCfg 0) 63 = true :=
  ⟨⟨rfl, by decide +kernel⟩, ⟨rfl, by decide +kernel⟩, ⟨rfl, by decide +kernel⟩, bells, ⟨rfl, by decide +kernel⟩, ⟨rfl, by decide +kernel⟩,
    ⟨reg0 s0 .bellpinCfg 0 0x4000000000000000, rfl, by decide +kernel⟩, reg0 s0 .bellpinCfg 0 0x8000000000000000, rfl, by decide +kernel⟩

/-- Ring 1 of partition 0, LOCAL, slots 8 to 15, enabled; its slot 8 sealed. -/
def sRing : State := reg0 s0 .ringCfg 1 0x8000000000080003
def land (slot : Nat) : Landed := ⟨slot, 1, 0, slot - 8, 0x8000000000080003, false, 0, 0, 0⟩
def sLanded : State := part0 sRing fun x => { x with landed := [land 8] }

theorem witness_SlotWritesLand :
    Running sLanded ∧ (∀ slot ∈ [8, 15], slotOwner sLanded 0 (slot * 0x2000 / 0x2000) = some 1) ∧
    (∃ n, issuerTenant sLanded w0 = some n ∧ (n = 0 ∨ unitServes sLanded 10 1 n = true)) ∧
    (bit (rd sLanded .ringCfg 0 1) 63 && ringTakes (rd sLanded .ringCfg 0 1) w0.agent) = true ∧
    (psys sLanded 0).landed.any (·.slot == 15) = false ∧ (psys sLanded 0).landed.any (·.slot == 8) = true ∧
    (let s := reg0 s0 .ringCfg 1 0x8800000000080003
     slotOwner s 0 8 = some 1 ∧ (bit (rd s .ringCfg 0 1) 63 && ringTakes (rd s .ringCfg 0 1) (.port 3)) = true) ∧
    (let s := reg0 s0 .ringCfg 1 0x80003
     slotOwner s 0 8 = some 1 ∧ (bit (rd s .ringCfg 0 1) 63 && ringTakes (rd s .ringCfg 0 1) w0.agent) = false ∧
       (psys s 0).landed.any (·.slot == 8) = false) :=
  ⟨rfl, by decide +kernel, ⟨0, by decide +kernel⟩, by decide +kernel⟩

theorem witness_RingsAreEnabledAndDisabled :
    Running sRing ∧ issuerTenant sRing w0 = some 0 ∧ (∀ n ∈ [0, 0xFFF00000000], fld (.ofNat 64 n) 43 32 < sRing.fuse.maxTenants) ∧
    bit (rd sRing .ringCfg 0 1) 63 = true ∧ bit (rd s0 .ringCfg 0 1) 63 = false ∧
    ringRefused sM 0 1 (ringCfgValue (rd sM .ringCfg 0 1) true 0x8800000000000003 &&& R.ringCfg.desc.rw) = false ∧
    ringRefused sM 0 1 (ringCfgValue (rd sM .ringCfg 0 1) true 0x8000000000000002 &&& R.ringCfg.desc.rw) = true :=
  ⟨rfl, by decide +kernel⟩

/-- A share of 64 bytes from partition 1. -/
def share1 : ShareIn := ⟨zeros 64, 0, 1, 0⟩

theorem witness_PacketsAreAccepted :
    (Running sLanded ∧ (1 : Fin 33).val < 32 ∧ accepting sLanded 0 = true ∧ nextLanded sLanded 0 1 = some (land 8)) ∧
    (∃ s, Running s ∧ accepting s 0 = true ∧ (psys s 0).shareIn = [share1]) ∧
    (headerBad (zeros 64) = true ∧ (cmd0 0 []).ring < 32) ∧
    ((∀ n ∈ [64, 4160], 64 ≤ (zeros n).length ∧ (zeros n).length ≤ 4160) ∧ s0.sys.pin.auxUp = true ∧ bootStage s0 ≠ 3 ∧ sbHeld s0 < 4 ∧
      accepting s0 0 = true) :=
  ⟨⟨rfl, by decide +kernel⟩, ⟨part0 s0 fun x => { x with shareIn := [share1] }, rfl, by decide +kernel, by decide +kernel⟩,
    by decide +kernel, by simp [zeros], by decide +kernel⟩

/-- A reply awaited since frame 0, in frame 64. -/
def late : Outst := ⟨3, .reply 0 1 5, 0, 0x10, ⟨1, 0, 0, 0x10, 0, 0, 0, 3, 0, false, false, .memWr false 0 [0]⟩, false⟩
def sLate : State := reg0 (sys0 s0 fun y => { y with fab := { y.fab with outst := [late] } }) .frameCount 0 64

theorem witness_CountsAndRepliesAreDelivered :
    (∃ s, Running s ∧ unreported s 0 1 ≠ 0 ∧ fld (rd s .ringCreditDest 0 1) 19 0 = partId s ∧ bit (rd s .ringCreditDest 0 1) 23 = false ∧
      creditAddrOk s 0 (rd s .ringCreditAddr 0 1).toNat = true) ∧
    (∃ s, Running s ∧ unreported s 0 1 ≠ 0 ∧ fld (rd s .ringCreditDest 0 1) 19 0 = partId s ∧ bit (rd s .ringCreditDest 0 1) 23 = false ∧
      creditAddrOk s 0 (rd s .ringCreditAddr 0 1).toNat = false) ∧
    (Running sLate ∧ sLate.sys.fab.outst.find? (·.tag == late.tag) = some late ∧ late.why = .reply 0 1 5 ∧
      late.frame + 64 ≤ frameNow sLate ∧ late.again = false ∧ sLate.sys.fab.held.contains late.pkt = false ∧
      sLate.sys.fab.waiting.contains late.pkt = false) :=
  ⟨⟨reg0 (reg0 (reg0 sM .ringConsumed 1 1) .ringCreditDest 1 0xFFFFF) .ringCreditAddr 1 0x1000, rfl, by decide +kernel⟩,
    ⟨reg0 (reg0 (reg0 s0 .ringConsumed 1 1) .ringCreditDest 1 0xFFFFF) .ringCreditAddr 1 0x1000, rfl, by decide +kernel⟩,
    rfl, by decide +kernel⟩

theorem witness_RepliesAreWritten :
    ((cmd0 0x0101 []).ring < 32 ∧ (nbit (cmd0 0x0101 []).flags 2 && stOk == stOk) = false ∧ (cmd0 0x0101 []).replyHost = false ∧
      (cmd0 0x0101 []).replyPart = partId sM ∧ (cmd0 0x0101 []).steward = false ∧ replyAddrOk sM false 0 0x1000 (32 + 0) = true ∧
      replyAddrOk sM false 0 0x1000 (32 + 4096) = true) ∧
    nbit { cmd0 0x0101 [] with flags := 4 }.flags 2 = true := by decide +kernel

theorem witness_PlainCommandsEndAndAreEnded :
    (∃ s c, Held s 0 0x0101 c) ∧ (∃ s c, Held s 0 0x0102 c ∧ c.ring < 32) ∧
    (∃ s c d, Held s 0 0x0103 c ∧ (psys s 0).cmds.find? (fun d => d.ring == c.ring && d.seq == par c 0 8 && d.ref != c.ref) = some d) ∧
    (∃ s c, Held s 0 0x0103 c ∧ (psys s 0).cmds.find? (fun d => d.ring == c.ring && d.seq == par c 0 8 && d.ref != c.ref) = none) ∧
    ∀ n ∈ [100, 101], ∃ s c, Running s ∧ cmdOf s 0 c.ref = some c ∧ c.ring < 35 ∧ frameNow s = n ∧ c.accFrame + c.timeout + 1 = 101 := by
  refine ⟨⟨_, _, held_store s0 (cmd0 0x0101 []) [] _ rfl rfl rfl⟩, ⟨_, _, held_store s0 (cmd0 0x0102 []) [] _ rfl rfl rfl, by decide⟩,
    ⟨_, _, { cmd0 0x0101 [] with ref := 2, seq := 3 },
      held_store s0 (cmd0 0x0103 (natLE 8 3)) [{ cmd0 0x0101 [] with ref := 2, seq := 3 }] _ rfl rfl rfl, by decide +kernel⟩,
    ⟨_, _, held_store s0 (cmd0 0x0103 (natLE 8 3)) [] _ rfl rfl rfl, by decide +kernel⟩, ?_⟩
  intro n hn
  refine ⟨reg0 (store s0 [cmd0 0x0101 []]) .frameCount 0 (BitVec.ofNat 64 n), cmd0 0x0101 [], rfl, ?_⟩
  revert n; decide +kernel

/-- A collection 7 of tenant 0 with one shard: degree 4, beam 4, 32-byte codes; defined, open, or closing. -/
def desc7 : Bytes := natLE 2 7 ++ [0, 4, 0, 0] ++ natLE 2 0 ++ [0, 1] ++ natLE 2 4 ++ natLE 2 0 ++ natLE 2 16 ++ zeros 8 ++ natLE 2 1 ++ zeros 6
def coll7 (state : Nat) : Coll := ⟨7, 0, desc7, none, [(0, 0xFFFFF)], [], state, none⟩

/-- A record of shard 0 in the Loft: four slots, codes at 0x2000, tags at 0x3000, nodes at 0x4000. -/
def rec7 : Bytes := natLE 2 7 ++ natLE 2 0 ++ [0, 1, 0, 0] ++ natLE 8 0 ++ natLE 8 4 ++ natLE 8 0x4000 ++ zeros 32 ++ natLE 8 0x2000 ++
  zeros 40 ++ natLE 8 0x3000 ++ zeros 40
def shard7 : Shard := newShard 7 0 rec7

/-- Collection 7 in a state, its shard held by partition 0, nodes 1 and 2 live with generation 3. -/
def sI (state : Nat) : State :=
  { part0 (sys0 sM fun y => { y with colls := [coll7 state] }) fun x => { x with shards := [shard7] } with
    mem := [(0x3002, 3), (0x3003, 1), (0x3004, 3), (0x3005, 1)] }

theorem witness_CollectionsAreDefinedServedAndClosed :
    (∃ s c, Held s 0 0x0201 c ∧ collOf s (par c 0 2) = none) ∧
    (∀ st ∈ [0, 1], ∃ s c x, Held s 0 0x0202 c ∧ collOf s (par c 0 2) = some x ∧ x.state = st ∧ 0 < par c 4 2) ∧
    (∃ s c x, Held s 0 0x0204 c ∧ collOf s (par c 0 2) = some x ∧ x.state = 0 ∧ x.opening = none) ∧
    (∀ st ∈ [0, 1], ∃ s c x, Held s 0 0x0205 c ∧ collOf s (par c 0 2) = some x ∧ x.state = st) ∧
    (∃ s c x, Held s 0 0x0206 c ∧ collOf s (par c 0 2) = some x) ∧
    (∃ s x, Running s ∧ collOf s 7 = some x ∧ x.state = 2 ∧ collUsed s 7 = false) ∧
    (∃ s c x, Held s 0 0x0207 c ∧ collOf s (par c 0 2) = some x) ∧
    (∃ s c x, Held s 0 0x0203 c ∧ collOf s (par c 0 2) = some x ∧ x.state = 0) ∧
    ∃ s c x, Held s 0 0x0203 c ∧ collOf s (par c 0 2) = some x ∧ x.state = 1 := by
  refine ⟨⟨_, _, held_store s0 (cmd0 0x0201 desc7) [] _ rfl rfl rfl, by decide +kernel⟩, ?_,
    ⟨_, _, coll7 0, held_store (sI 0) (cmd0 0x0204 (natLE 2 7)) [] _ rfl rfl rfl, by decide +kernel⟩, ?_,
    ⟨_, _, coll7 1, held_store (sI 1) (cmd0 0x0206 (natLE 2 7)) [] _ rfl rfl rfl, by decide +kernel⟩,
    ⟨sI 2, coll7 2, rfl, by decide +kernel⟩,
    ⟨_, _, coll7 1, held_store (sI 1) (cmd0 0x0207 (natLE 2 7)) [] _ rfl rfl rfl, by decide +kernel⟩,
    ⟨_, _, coll7 0, held_store (sI 0) (cmd0 0x0203 rec7) [] _ rfl rfl rfl, by decide +kernel⟩,
    ⟨_, _, coll7 1, held_store (sI 1) (cmd0 0x0203 rec7) [] _ rfl rfl rfl, by decide +kernel⟩⟩
  · intro st h
    refine ⟨_, _, coll7 st, held_store (sI st) (cmd0 0x0202 (natLE 2 7 ++ natLE 2 0 ++ natLE 2 1)) [] _ rfl rfl rfl, ?_⟩
    revert st; decide +kernel
  · intro st h
    refine ⟨_, _, coll7 st, held_store (sI st) (cmd0 0x0205 (natLE 2 7)) [] _ rfl rfl rfl, ?_⟩
    revert st; decide +kernel

/-- An expansion of node 1 in flight, its neighbour list on the queue of stack 0's Sieve cluster. -/
def fly (pend : List (Nat × Nat × Nat)) (results : List (Nat × Nat × Bool)) : Flight := ⟨1, 1, [(0, false)], pend, results, 0, 0⟩

/-- A walk of command 5 on shard 0 of collection 7. -/
def walk7 : Walk :=
  { id := 4, why := .search, ref := 5, state := .active, spot := .drover, started := true, cls := 1, tenant := 0, coll := 7, shard := 0, rcd := rec7,
    shelf := 0, width := 1, beam := 4, maxExpand := 16, maxFrames := 2, entryBeam := 0, batchWin := 0, pageWin := 0, hub := false,
    seeds := [], query := zeros 32, queue := [⟨2, 7, false, false⟩], filter := [], flight := [fly [(1, 3, 0)] []], layer := none, stop := 0,
    accFrame := 0, admFrame := 1, slots := [], expansions := 0, compared := 0, suppressed := 0, stale := 0, transit := 0, parks := 0,
    degree := 4, codeBytes := 32, refine := false, refineDepth := 4, refineFmt := 0, refineGroup := 32, refineDim := 32, metric := 0, k := 1,
    payload := false, qrefine := [] }

/-- The walk at work in a frame. -/
def sW (frame : Nat) (w : Walk) : State := reg0 (part0 (sI 1) fun x => { x with walks := [w] }) .frameCount 0 (.ofNat 64 frame)

/-- A share that has reported. -/
def piece7 (done : Bool) : Piece :=
  { unit := 0, part := 0xFFFFF, partition := 0, loc := true, record := 0, slot := 0, nslots := 1, seq := 0, sent := true, entries := [],
    area := [], done := if done then some ⟨stOk, 0, 0, []⟩ else none }

/-- A search whose one piece ended with a status. -/
def search7 (op status : Nat) : Cmd :=
  { cmd0 op (natLE 2 7) with pieces := [{ piece7 true with done := some ⟨status, 0, 0, zeros 64⟩ }] }

theorem witness_SearchesWalkTheirShards :
    (∀ op ∈ [0x0301, 0x0302, 0x0303], ∃ s c, Held s 0 op c ∧ (∀ w ∈ (psys s 0).walks, w.ref ≠ c.ref) ∧ c.pieces = []) ∧
    (∃ s c w, Held s 0 0x0301 c ∧ ((psys s 0).walks.filter fun w => w.ref == c.ref && w.state == .active && !w.started &&
        !(w.why == .search && drainPending s 0 w.coll w.shard)) = [w] ∧ w.why = .search ∧ walkOf s 0 w.id = some w) ∧
    (∃ s c x, Held s 0 0x0301 c ∧ (∀ w ∈ (psys s 0).walks, w.ref ≠ c.ref) ∧ c.pieces ≠ [] ∧ allDone c = true ∧
      (c.search.partialOk && 0x0301 != 0x0303) = false ∧ worstPiece c = some x) ∧
    (∀ op ∈ [0x0301, 0x0303], ∃ s c, Held s 0 op c ∧ (∀ w ∈ (psys s 0).walks, w.ref ≠ c.ref) ∧ c.pieces ≠ [] ∧ allDone c = true ∧
      worstPiece c = none ∧ (op = 0x0303 ∨ mergeable ((c.pieces.filterMap (·.done)).map fun d => blockIn d.body) = true)) := by
  refine ⟨?_, ⟨_, _, { walk7 with started := false, flight := [], ref := 5 },
      held_store (sW 1 { walk7 with started := false, flight := [] }) (cmd0 0x0301 (natLE 2 7)) [] _ rfl rfl rfl, by decide +kernel⟩,
    ⟨_, _, { piece7 true with done := some ⟨stContextReset, 0, 0, zeros 64⟩ },
      held_store (sI 1) (search7 0x0301 stContextReset) [] _ rfl rfl rfl, by decide +kernel⟩, ?_⟩
  · intro op h
    refine ⟨_, _, held_store (sI 1) (cmd0 op (natLE 2 7)) [] _ rfl rfl rfl, ?_, rfl⟩
    revert op; decide +kernel
  · intro op h
    refine ⟨_, _, held_store (sI 1) (search7 op stOk) [] _ rfl rfl rfl, ?_⟩
    revert op; decide +kernel

theorem witness_CandidateQueuesKeepTheNearest :
    let q : List Cand := [⟨1, 5, false, false⟩, ⟨2, 7, true, false⟩]
    ∀ beam ∈ [2, 3], q.length ≤ beam ∧ q.Pairwise (fun a b => candBefore a b = true) ∧ (q.map (·.node)).Nodup ∧
      1 ∈ q.map (·.node) ∧ 3 ∉ q.map (·.node) ∧ q.getLast? = some ⟨2, 7, true, false⟩ := by decide +kernel

/-- Walks of a shard in the Cellar: the first waits for a channel that the second, of a lower class, is served by first. -/
def rec8 : Bytes := (rec7.set 4 1).set 29 2
def flyC : Flight := ⟨1, 1, [(32, false)], [(1, 3, 0)], [], 0, 1⟩
def walkLate : Walk := { walk7 with rcd := rec8, cls := 2, flight := [flyC] }
def walkSoon : Walk := { walk7 with id := 6, ref := 6, rcd := rec8, cls := 1, flight := [flyC] }

theorem witness_ComparisonsJoinTheirFlight :
    (∃ s w e x d tomb, Running s ∧ walkOf s 0 4 = some w ∧ flightOf w 1 = some e ∧ w.flight.find? (·.no == 1) = some e ∧
      readTurn s 0 w e = true ∧ e.pages = 0 ∧ (e.pend.filter fun x => true && e.placed s w x.1 && grantTurn s 0 w e x.1) = [x] ∧
      comparePair s w.tenant w.rcdNow w.degree w.codeBytes w.query e.node x.1 x.2.1 x.2.2 = .ok d tomb) ∧
    (∃ s w e, walkOf s 0 4 = some w ∧ w.flight.find? (·.no == 1) = some e ∧ readTurn s 0 w e = false) ∧
    (∃ s w e, siteOf s w e.node 1 = .stack 0 ∧ w.batchWin = 0 ∧
      (∃ x ∈ grantAsks s 0 0, x.1.1 < w.cls ∧ x.2 = codeAddr w.rcdNow w.codeBytes 1 / 1024 % 64) ∧
      walkOf s 0 4 = some w ∧ w.flight.find? (·.no == 1) = some e ∧ readTurn s 0 w e = true ∧ e.pages = 0 ∧ e.pend ≠ [] ∧
      ∀ x ∈ e.pend, true = true → grantTurn s 0 w e x.1 = false) ∧
    ∃ s w e, walkOf s 0 4 = some w ∧ w.flight.find? (·.no == 1) = some e ∧ shaperTokens s 0 w.cls = some 0 ∧ e.pages ≠ 0 :=
  ⟨⟨sW 1 walk7, walk7, fly [(1, 3, 0)] [], (1, 3, 0), 0, false, rfl, by decide +kernel⟩,
    ⟨part0 (sW 1 walkLate) fun x => { x with walks := [walkLate, walkSoon] }, walkLate, flyC, by decide +kernel⟩,
    ⟨part0 (sW 1 walk7) fun x => { x with walks := [{ walk7 with cls := 2 }, { walk7 with id := 6, ref := 6, cls := 1 }] },
      { walk7 with cls := 2 }, fly [(1, 3, 0)] [], by decide +kernel⟩,
    ⟨reg0 (sW 1 { walkLate with cls := 3 }) .partShape3 0 0x8000002000002000, { walkLate with cls := 3 }, flyC, by decide +kernel⟩⟩

/-- The walk with its results in. -/
def walkDone : Walk := { walk7 with flight := [fly [] [(1, 0, false)]] }

theorem witness_WalksReturnAndEnd :
    (Running (sW 1 walkDone) ∧ walkOf (sW 1 walkDone) 0 4 = some walkDone ∧ walkDone.state = .active ∧
      flightOf walkDone 1 = some (fly [] [(1, 0, false)]) ∧ walkDone.flight.find? (·.no == 1) = some (fly [] [(1, 0, false)]) ∧ (fly [] [(1, 0, false)]).pages = 0) ∧
    (∀ r ∈ [true, false], let w := { walk7 with refine := r }
      Running (sW 3 w) ∧ walkOf (sW 3 w) 0 4 = some w ∧ w.maxFrames ≠ 0 ∧ (w.state = .active ∨ w.state = .parked) ∧ w.started = true ∧
      w.layer = none ∧ w.why = .search ∧ w.admFrame + w.maxFrames ≤ frameNow (sW 3 w) ∧
      (w.refine = true ∨ (w.queue.filter (!·.transit)) ≠ [])) ∧
    (Running (sW 2 walk7) ∧ walkOf (sW 2 walk7) 0 4 = some walk7 ∧ frameNow (sW 2 walk7) < walk7.admFrame + walk7.maxFrames) := by
  refine ⟨⟨rfl, by decide +kernel⟩, ?_, rfl, by decide +kernel⟩
  intro r hr
  refine ⟨rfl, ?_⟩
  revert r; decide +kernel

/-- A walk ready to be refined, and a selection with a row of two entries. -/
def walkFin : Walk := { walk7 with refine := true, state := .finishing, refineFmt := 1, rcd := rec7 }
def entry1 : Entry := ⟨1, 1, 3, 7, 0, none⟩
def entry2 : Entry := ⟨2, 2, 3, 7, 0, none⟩
def sel7 (held : Bool) : Selection := ⟨9, 4, 1, false, 1, false, [entry1, entry2], [], held, [false]⟩
def sSel (l : List Selection) : State := part0 (sW 1 walk7) fun x => { x with sels := l }

theorem witness_RowsAreRefinedAndSelected :
    (∃ s w, walkOf s 0 4 = some w ∧ w.refine = true ∧ w.state = .finishing ∧ w.why = .search ∧ (psys s 0).sels.any (·.walk == 4) = false ∧
      let n := refineBytesOf w
      let cands := (w.queue.filter (!·.transit)).take w.refineDepth
      let good := cands.filter fun c => (poisonIn s (refineAddr w.rcd n c.node) n).isNone
      good ≠ [] ∧ ∀ c ∈ good, cellHolds s w.tenant (unalias s (refineAddr w.rcd n c.node)) = true) ∧
    (∃ s x, Running s ∧ selOf s 0 9 = some x ∧ registerFree (psys s 0) x = false) ∧
    (∃ s x, Running s ∧ selOf s 0 9 = some x ∧ x.placed = []) ∧
    (∃ s x, Running s ∧ selOf s 0 9 = some x ∧ registerFree (psys s 0) x = true ∧ x.placed ≠ [] ∧ takeOut x.row [entry1] = some [entry2] ∧
      takeOut x.row [entry2, entry1] = some [] ∧ walkOf s 0 x.walk = some walk7) ∧
    (List.replicate 32 entry1).length ≤ 32 :=
  ⟨⟨sW 1 walkFin, walkFin, by decide +kernel⟩,
    ⟨sSel (sel7 false :: (List.range 4).map fun i => { sel7 true with id := 20 + i }), sel7 false, rfl, by decide +kernel⟩,
    ⟨sSel [{ sel7 false with placed := [] }], { sel7 false with placed := [] }, rfl, by decide +kernel⟩,
    ⟨sSel [sel7 false], sel7 false, rfl, by decide +kernel⟩, by decide⟩

/-- A search whose share another part (ID 0x20) performs, its reply awaited in slot 0 of record 0. -/
def pieceOut : Piece := { piece7 false with part := 0x20, partition := 1, loc := false, seq := 8 }
def cmdOut : Cmd := { cmd0 0x0301 (natLE 2 7) with pieces := [pieceOut] }

theorem witness_SharesReturn :
    (∀ data ∈ [natLE 2 stOk ++ zeros 6 ++ natLE 8 8 ++ zeros 16, zeros 1], ∃ s c x x' d, Running s ∧ 0x20 ≠ partId s ∧
      pieceAt (psys s 0) 0x20 1 0 0 data.length = some (c, x) ∧
      (data.length = 1 ∨ landReply x (0 * 0x20000 + 0 - (x.record * 0x20000 + x.slot * 8192)) data = (x', d, false) ∧ d.isSome = true)) ∧
    (∃ x' , landReply pieceOut 8 [1] = (x', none, false)) ∧
    (Running s0 ∧ 0x20 ≠ partId s0 ∧ pieceAt (psys s0 0) 0x20 1 0 0 8 = none) ∧
    (∀ op ∈ [0x0303, 0x0404, 0x0606], ∀ n ∈ [9, 10], ∃ s c, Running s ∧ cmdOf s 0 c.ref = some c ∧ c.opcode = op ∧ deadlineOf c = 10 ∧
      frameNow s = n) ∧
    ∀ n ∈ [99, 100], ∃ s c, Running s ∧ cmdOf s 0 c.ref = some c ∧ partialDue s c = decide (100 ≤ n) := by
  refine ⟨?_, ⟨_, rfl⟩, ⟨rfl, by decide +kernel⟩, ?_, ?_⟩
  · intro d h
    simp only [List.mem_cons, List.not_mem_nil, or_false] at h
    rcases h with rfl | rfl
    · exact ⟨store (sI 1) [cmdOut], cmdOut, pieceOut, (landReply pieceOut 0 (natLE 2 stOk ++ zeros 6 ++ natLE 8 8 ++ zeros 16)).1,
        (landReply pieceOut 0 (natLE 2 stOk ++ zeros 6 ++ natLE 8 8 ++ zeros 16)).2.1, rfl, by decide +kernel, by decide +kernel, by decide +kernel⟩
    · exact ⟨store (sI 1) [cmdOut], cmdOut, pieceOut, pieceOut, none, rfl, by decide +kernel⟩
  · intro op ho n h
    refine ⟨reg0 (store (sI 1) [cmd0 op (natLE 6 10)]) .frameCount 0 (.ofNat 64 n), cmd0 op (natLE 6 10), rfl, ?_⟩
    revert op n; decide +kernel
  · intro n h
    let c : Cmd := { cmd0 0x0301 (natLE 2 7 ++ [0, 0, 4]) with phase := .running }
    refine ⟨reg0 (store (sI 1) [c]) .frameCount 0 (.ofNat 64 n), c, rfl, ?_⟩
    revert n; decide +kernel

/-- A share of a DELETE of node 1, not yet staged, or staged; its shard's commit has room where the entries counted leave it. -/
def ent1 (ready : Bool) : UpdEntry := ⟨stOk, 1, 3, 0, [], [], [], ready, [], 0⟩
def share7 (ready : Bool) : UpdShare := ⟨5, .command, 7, 0, 0x0402, 0, 0, 0, false, 0, [ent1 ready], ready, 0xFFFFF, 0, 9, [], 0, 0⟩
def sU (ready : Bool) (n : Nat) : State := part0 (sI 1) fun x => { x with shares := [share7 ready], committedN := n }

theorem witness_UpdatesStageTheirShares :
    (∃ s c, Held s 0 0x0401 c) ∧ (∃ s c, Held s 0 0x0402 c) ∧ (∃ s c, Held s 0 0x0403 c) ∧ (∃ s c, Held s 0 0x0404 c) ∧
    (∃ s c, cmdOf s 0 c.ref = some c ∧ (∀ w ∈ (psys s 0).walks, w.ref ≠ c.ref) ∧
      (∀ x ∈ (psys s 0).shares, x.ref = c.ref → x.entries.all (·.ready) = true) ∧ allDone c = true) ∧
    (shardOf (sU false 0) 0 7 0 = some shard7 ∧ shareOf (sU false 0) 0 5 7 0 = some (share7 false) ∧
      (share7 false).entries[0]? = some (ent1 false) ∧ (ent1 false).ready = false) :=
  ⟨⟨_, _, held_store (sI 1) (cmd0 0x0401 (natLE 2 7)) [] _ rfl rfl rfl⟩, ⟨_, _, held_store (sI 1) (cmd0 0x0402 (natLE 2 7)) [] _ rfl rfl rfl⟩,
    ⟨_, _, held_store (sI 1) (cmd0 0x0403 (natLE 2 7)) [] _ rfl rfl rfl⟩, ⟨_, _, held_store (sI 1) (cmd0 0x0404 (natLE 2 7)) [] _ rfl rfl rfl⟩,
    ⟨store (sU true 0) [cmd0 0x0402 []], cmd0 0x0402 [], by decide +kernel⟩, by decide +kernel⟩

/-- A Daybook record that takes more than n bytes and may not be overwritten, and a drained share before a Daybook of records. -/
def bigDay (n : Nat) : DayRec := { dayIn [] with entries := zeros n, durable := false }
def sDrain (l : List DayRec) : State :=
  part0 (sU true 0) fun x => { x with shares := [{ share7 true with kind := .drained }], faults := { x.faults with day := l } }

theorem day_of_sDrain (l : List DayRec) : (psys (sDrain l) 0).faults.day = l := rfl

theorem share_of_sDrain (l : List DayRec) :
    Running (sDrain l) ∧ (psys (sDrain l) 0).shares.find? (fun x => x.ref == 5 && x.shard == 0 && x.judged) =
      some { share7 true with kind := .drained } ∧ shardOf (sDrain l) 0 7 0 = some shard7 := ⟨rfl, rfl, rfl⟩

theorem bigDay_len (n : Nat) : n < dayLen (bigDay n) := by
  unfold bigDay
  show n < roundUp (64 + (dayIn []).results.length + (zeros n).length) 64
  rw [zeros, List.length_replicate]
  unfold roundUp ceilDiv
  omega

theorem bigDay_free (n : Nat) : dayFree (bigDay n) = false := rfl

theorem dayFits_of_big (d : DayRec) (n : Nat) (hl : dayCapacity < dayLen d) (hf : dayFree d = false) : dayFits (sDrain [d]) 0 n = false := by
  unfold dayFits
  rw [day_of_sDrain]
  simp only [List.filter, hf, Bool.not_false, List.map, List.sum_cons, List.sum_nil, decide_eq_false_iff_not]
  omega

theorem witness_SharesCommitWhole :
    (∀ n ∈ [4095, 4096], Running (sU true n) ∧
      (psys (sU true n) 0).shares.find? (fun x => x.ref == 5 && x.shard == 0 && x.judged) = some (share7 true) ∧
      shardOf (sU true n) 0 7 0 = some shard7 ∧ (share7 true).kind ≠ .drained ∧
      ((share7 true).entries.length + (psys (sU true n) 0).committedN ≤ 4096 ↔ n = 4095)) ∧
    (∀ l, Running (sDrain l) ∧ (psys (sDrain l) 0).shares.find? (fun x => x.ref == 5 && x.shard == 0 && x.judged) =
      some { share7 true with kind := .drained } ∧ shardOf (sDrain l) 0 7 0 = some shard7) ∧
    (share7 true).entries.countP (·.status == stOk) ≠ 0 ∧
    dayFits (sDrain []) 0 (dayLen (shareRecord (sDrain []) 0 { share7 true with kind := .drained } 0 (zeros 16))) = true ∧
    (∀ n, dayFits (sDrain [bigDay dayCapacity]) 0 n = false) ∧
    (∃ x : UpdShare, x.entries[0]? = some (ent1 true)) ∧
    ∃ s, Running s ∧ ∀ x ∈ (psys s 0).shares, x.ref = 5 → x.shard = 0 → x.judged = false := by
  refine ⟨?_, share_of_sDrain, by decide, by decide +kernel,
    fun n => dayFits_of_big _ n (bigDay_len _) (bigDay_free _), ⟨share7 true, rfl⟩, sU false 0, rfl, by decide +kernel⟩
  intro n h
  refine ⟨rfl, ?_⟩
  revert n; decide +kernel

/-- A line of the Loft poisoned. -/
def poison0 (s : State) (l : Nat) : State := sys0 s fun y => { y with poison := [l] }

theorem witness_CommitsAndNodesAreRead :
    (∃ s c, Held s 0 0x040B c) ∧ (∃ s c h, Held s 0 0x0409 c ∧ shardOf s 0 (par c 0 2) (wordShard (par c 8 8)) = some h ∧
      poisonIn s (nodeAddr rec7 4 32 1) 32 = none ∧ poisonIn s (tagAddr rec7 32 1) 2 = none ∧ graphOf s h h.shelf = graphOf s shard7 0 ∧
      wordNode (par c 8 8) = 1 ∧ (graphOf s shard7 0).rcd = rec7 ∧ (graphOf s shard7 0).deg = 4 ∧ (graphOf s shard7 0).codeBytes = 32) ∧
    ∃ s c h l, Held s 0 0x0409 c ∧ shardOf s 0 (par c 0 2) (wordShard (par c 8 8)) = some h ∧
      (let g := graphOf s h h.shelf
       poisonIn s (nodeAddr g.rcd g.deg g.codeBytes (wordNode (par c 8 8))) 32 = some l) :=
  ⟨⟨_, _, held_store s0 (cmd0 0x040B []) [] _ rfl rfl rfl⟩,
    ⟨_, _, shard7, held_store (sI 1) (cmd0 0x0409 (natLE 2 7 ++ zeros 6 ++ natLE 8 1)) [] _ rfl rfl rfl, by decide +kernel⟩,
    ⟨_, _, shard7, nodeAddr rec7 4 32 1 / 64 * 64,
      held_store (poison0 (sI 1) (nodeAddr rec7 4 32 1 / 64 * 64)) (cmd0 0x0409 (natLE 2 7 ++ zeros 6 ++ natLE 8 1)) [] _ rfl rfl rfl,
      by decide +kernel⟩⟩

/-- Collection 7 with a repair list, or its shard changed. -/
def sR (l : List RepairItem) (h : Shard) : State := part0 (sI 1) fun x => { x with repair := l, shards := [h] }

theorem witness_ShardsAreRepairedAndScanned :
    (∃ s c h, Held s 0 0x0405 c ∧ namedShard s 0 c = some h ∧ h.shelfState = .none ∧ eligible s 0 h = []) ∧
    (∃ s c h, Held s 0 0x0405 c ∧ namedShard s 0 c = some h ∧ h.shelfState = .none ∧ eligible s 0 h = [3]) ∧
    (∃ s c h, Held s 0 0x040A c ∧ namedShard s 0 c = some h) ∧
    (∀ n ∈ [0, 4096], ∃ s h gr, Running s ∧ (psys s 0).repair = [.stale 7 0 false 1 2 3] ∧ shardOf s 0 7 0 = some h ∧
      repairGraph s h false = some gr ∧ (repairRoom s 0 = 0 ↔ n = 4096)) ∧
    (∃ s h x gr slots, Running s ∧ (psys s 0).repair = [.relink 7 0 false 1] ∧ shardOf s 0 7 0 = some h ∧ collOf s 7 = some x ∧
      repairGraph s h false = some gr ∧ rPlacement gr.rcd ≠ 1 ∧
      (tagOf s gr.rcd gr.codeBytes 1).live = true ∧ (tagOf s gr.rcd gr.codeBytes 1).tomb = false ∧
      takeSlots s 0 x.tenant (slotsFor (dBeam x.desc) (dCodeBytes x.desc)) = some slots) ∧
    (∃ s h, Running s ∧ shardOf s 0 7 0 = some h ∧ rPlacement h.cur ≠ 1) := by
  refine ⟨⟨_, _, shard7, held_store (sI 1) (cmd0 0x0405 (natLE 2 7)) [] _ rfl rfl rfl, by decide +kernel⟩,
    ⟨_, _, { shard7 with sweeps := 1, lastSweepBegan := 2, lastSweepEnded := 3, tombs := [(3, 1)] },
      held_store (sR [] { shard7 with sweeps := 1, lastSweepBegan := 2, lastSweepEnded := 3, tombs := [(3, 1)] }) (cmd0 0x0405 (natLE 2 7)) []
        _ rfl rfl rfl, by decide +kernel⟩,
    ⟨_, _, shard7, held_store (sI 1) (cmd0 0x040A (natLE 2 7)) [] _ rfl rfl rfl, by decide +kernel⟩,
    ?_, ⟨sR [.relink 7 0 false 1] shard7, shard7, coll7 1, graphOf (sR [] shard7) shard7 0, [0], rfl, by decide +kernel⟩,
    ⟨sR [] shard7, shard7, rfl, by decide +kernel⟩⟩
  intro n h
  refine ⟨part0 (sR [.stale 7 0 false 1 2 3] shard7) fun x => { x with committedN := n }, shard7, graphOf (sR [] shard7) shard7 0, rfl, ?_⟩
  revert n; decide +kernel

/-- The shard with a next shelf, in a shelf state. -/
def shardS (st : ShelfState) (delta : List Delta) : Shard :=
  { shard7 with next := some rec7, shelfState := st, mode := 1, startFrame := 0, delta, shelf := 1 }
def sS (st : ShelfState) (delta : List Delta) : State := sR [] (shardS st delta)

theorem witness_ShelvesAreBuiltAndSwapped :
    (∃ s c h, Held s 0 0x0406 c ∧ shardAny s 0 (par c 0 2) (par c 2 2) = some h) ∧
    (∀ n ∈ [0, 4], ∀ may ∈ [true, false], ∃ s h x r, Running s ∧ shardAny s 0 7 0 = some h ∧ collOf s 7 = some x ∧ h.next = some r ∧
      h.shelfState = .building ∧ h.mode = 1 ∧ h.startFrame ≤ frameNow s ∧ rPlacement r ≠ 1 ∧ h.copyPos = n ∧ rCap r = 4 ∧
      shelfMay s 0 = may) ∧
    (∃ s h r, Running s ∧ shardAny s 0 7 0 = some h ∧ h.shelfState = .replaying ∧ h.next = some r ∧ h.delta = []) ∧
    (∀ st ∈ [ShelfState.aborted, .mirrored], ∃ s c h, Held s 0 0x0407 c ∧ namedShelf s 0 c = some h ∧ h.shelfState = st) ∧
    (∃ s c h, shardAny s 0 (par c 0 2) (par c 2 2) = some h ∧ h.shelfState = .building) ∧
    (∃ s h x, Running s ∧ shardOf s 0 7 0 = some h ∧ h.shelfState = .retiring ∧
      (∀ w ∈ (psys s 0).walks, w.coll = 7 → w.shard = 0 → w.shelf % 2 = h.shelf) ∧ swapsOf s 0 h true = [x]) := by
  let swap : Cmd := { cmd0 0x0407 (natLE 2 7) with phase := .running, aux := 1 }
  refine ⟨⟨_, _, shard7, held_store (sI 1) (cmd0 0x0406 (natLE 2 7)) [] _ rfl rfl rfl, by decide +kernel⟩, ?_,
    ⟨sS .replaying [], shardS .replaying [], rec7, rfl, by decide +kernel⟩, ?_,
    ⟨sS .building [], cmd0 0x0407 (natLE 2 7), shardS .building [], by decide +kernel⟩,
    ⟨store (sS .retiring []) [swap], shardS .retiring [], swap, rfl, by decide +kernel⟩⟩
  · intro n hn may hm
    refine ⟨part0 (sR [] { shardS .building [] with copyPos := n }) fun x =>
      { x with walks := if may then [] else List.replicate 4096 { walk7 with state := .queued } },
      { shardS .building [] with copyPos := n }, coll7 1, rec7, rfl, ?_⟩
    revert n may; decide +kernel
  · intro st h
    refine ⟨_, _, shardS st [], held_store (sS st []) (cmd0 0x0407 (natLE 2 7)) [] _ rfl rfl rfl, ?_⟩
    revert st; decide +kernel

/-- An entry of command 6 parked, whose share at the new home has not reported. -/
def entry5 : Parked := ⟨0, 6, 0, 0x0402, 1, 3, 0, 0, [], [], []⟩
def late5 : Piece := { piece7 false with unit := 2 ^ 32 }

/-- A migration of shard 0 of collection 7 that cuts over in frame 4. -/
def mig7 (checked cutDone : Bool) : Migration := ⟨5, 0, 7, 0, 0, 0, 0x20, 0, 4, 0, false, checked, cutDone, [], 0, 0, []⟩
def sMig (m : Migration) (frame : Nat) : State :=
  reg0 (part0 (sI 1) fun x => { x with migs := [m], cmds := [cmd0 0x0408 [], { cmd0 0x0402 [] with ref := 6, pieces := [late5] }] })
    .frameCount 0 (.ofNat 64 frame)

theorem witness_UnitsMigrate :
    (∃ s c, Held s 0 0x0408 c) ∧ (∃ s c, Held s 0 0x0908 c) ∧
    (∀ ready ∈ [true, false], ∀ n ∈ [0, 8], let m := { mig7 false false with moves := n }
      Running (sMig m 2) ∧ migAt (sMig m 2) 0 5 = some m ∧ m.checked = false ∧ m.cut ≤ frameNow (sMig m 2) + 2 ∧
      (ready && homeReady (sMig m 2) m && (match migKeep (sMig m 2) 0 5 with | some k => k.audience.all (k.acks.contains ·) | none => true))
        = ready) ∧
    (Running (sMig (mig7 true false) 4) ∧ migAt (sMig (mig7 true false) 4) 0 5 = some (mig7 true false) ∧ (mig7 true false).checked = true ∧
      (mig7 true false).cutDone = false ∧ (mig7 true false).cut ≤ frameNow (sMig (mig7 true false) 4)) ∧
    (∀ l ∈ [[], [entry5]], let m := { mig7 true true with parked := l }
      Running (sMig m 6) ∧ migAt (sMig m 6) 0 5 = some m ∧ m.cutDone = true ∧ m.cut + 2 ≤ frameNow (sMig m 6) ∧ m.kind = 0 ∧
      m.rejoin = false ∧ parkedOpen (sMig m 6) 0 m = !l.isEmpty) ∧
    ∀ n ∈ [1, 3, 5], ∃ m, Running (sMig m n) ∧ migAt (sMig m n) 0 5 = some m ∧
      (if n = 1 then frameNow (sMig m n) + 2 < m.cut else if n = 3 then frameNow (sMig m n) < m.cut else frameNow (sMig m n) < m.cut + 2) := by
  refine ⟨⟨_, _, held_store (sI 1) (cmd0 0x0408 []) [] _ rfl rfl rfl⟩, ⟨_, _, held_store (sI 1) (cmd0 0x0908 []) [] _ rfl rfl rfl⟩, ?_,
    ⟨rfl, by decide +kernel⟩, ?_, ?_⟩
  · intro r hr n hn
    refine ⟨rfl, ?_⟩
    revert r n; decide +kernel
  · intro l hl
    refine ⟨rfl, ?_⟩
    revert l; decide +kernel
  · intro n hn
    refine ⟨mig7 false false, rfl, ?_⟩
    revert n; decide +kernel

theorem witness_DaybookKeepsRecords :
    (∃ s c, Held s 0 0x0906 c ∧ dayLen (dayIn c.params) ≤ dayCapacity) ∧
    (∃ s c, Running s ∧ c ∈ (psys s 0).cmds ∧ c.opcode = 0x0906 ∧ c.ring ≠ 35 ∧ c.phase = .running) ∧ ∃ s c, Held s 0 0x0907 c :=
  ⟨⟨_, _, held_store (sI 1) (cmd0 0x0906 (zeros 64)) [] _ rfl rfl rfl, by decide +kernel⟩,
    ⟨store s0 [{ cmd0 0x0906 [] with phase := .running }], { cmd0 0x0906 [] with phase := .running }, rfl, by decide +kernel⟩,
    ⟨_, _, held_store (sI 1) (cmd0 0x0907 []) [] _ rfl rfl rfl⟩⟩

/-! #### Programs -/

/-- A plain tensor: FP32 (0xD), INT32 (0xE) or binary (1), of d1 rows of d0 elements, in the run (role 3) or in memory. -/
def tens (id fmt d0 d1 role data : Nat) : Tensor := ⟨id, fmt, false, 0, 32, role, 0, [d0, d1, 1, 1], data, 0, 0, 0, 0⟩

/-- The values of a tensor of a run: one matrix of rows of codes. -/
def vals (rows : List (List Nat)) : TVal := ⟨rows.length, rows.map fun l => ⟨l, [], []⟩, 0⟩

/-- An object of these tensors and operations, loaded as handle 1 on Mill 0. -/
def obj1 (ts : List Tensor) (os : List VOp) : VObj := ⟨1, 0, 0x8000, 4096, [0], ts, os, [], [], false⟩

/-- Run 5 of it, with the intermediate tensors written so far. -/
def run1 (inter : List (Nat × TVal)) : VRun := ⟨5, 5, 1, 0, 2, [], 0, [], inter, [], 0, 0, 0, [], none, 32, [], none, [], []⟩

/-- Units as in `sM` and tallies 0 to 127 of partition 0. -/
def sT : State := sys0 sM fun y => { y with bind := { y.bind with units := unitOf 10 0 :: y.bind.units } }

/-- The command's run held. -/
def sP (o : VObj) (r : VRun) : State :=
  part0 sT fun x => { x with cmds := [{ cmd0 0x0503 [] with phase := .running }], mill := { x.mill with objs := [o], runs := [r] } }

/-- The only operation of a program, on tensors 1 and 2 into tensor 3. -/
def opOn (vop sub aux dir : Nat) (ts : List Tensor) (inter : List (Nat × TVal)) : OpIn :=
  let v : VOp := ⟨vop, sub, 1, 2, 3, aux, dir⟩
  ⟨sP (obj1 ts [v]) (run1 inter), 0, { cmd0 0x0503 [] with phase := .running }, obj1 ts [v], run1 inter, v, 0⟩

theorem performs_of (x : OpIn) (vop : Nat) (h0 : Running x.s) (h : runOf x.s x.p x.r.id = some x.r ∧ objOf x.s x.p x.r.handle = some x.o ∧
    cmdOf x.s x.p x.r.ref = some x.c ∧ x.o.ops[x.r.op]? = some x.v ∧ x.v.vop = vop ∧ x.r.waiting = none ∧
    (x.v.onQueue = true → (psys x.s x.p).mill.accepts x.o x.r.id = true) ∧ x.key = opKey x.s.sys.free ∧
    ∀ a ∈ opReads x, rangeFail x.s x.p x.r.tenant false a = none ∧ cohHeld x.s a.1 a.2 false = []) : Performs x vop :=
  ⟨h0, h.1, h.2.1, h.2.2.1, h.2.2.2.1, h.2.2.2.2.1, h.2.2.2.2.2.1, h.2.2.2.2.2.2.1, h.2.2.2.2.2.2.2.1, h.2.2.2.2.2.2.2.2⟩

/-- Two FP32 tensors of two rows of two, and an FP32 output in the run. -/
def three : List Tensor := [tens 1 0xD 2 2 3 0, tens 2 0xD 2 2 3 0, tens 3 0xD 2 2 3 0]
def ins : List (Nat × TVal) := [(1, vals [[0x3F800000, 0x40000000], [0, 0x3F800000]]), (2, vals [[0x3F800000, 0], [0, 0x3F800000]])]
def xThree (vop sub : Nat) : OpIn := opOn vop sub 1 0 three ins

theorem witness_ArrayProductsRun :
    let x := xThree 0x01 0
    let y := xThree 0x02 0
    let a := tens 1 0xD 2 2 3 0
    let b := tens 2 0xD 2 2 3 0
    let tn := tens 3 0xD 2 2 3 0
    (Performs x 0x01 ∧ x.t x.v.a = some a ∧ x.t x.v.b = some b ∧ x.t x.v.out = some tn ∧
      (let m : List MatPair := [⟨(x.val a).rows.map (TRow.operand a (x.val a).st []), stationary b (x.val b) (x.val b).rows (sideOf x.o x.r b), [], .none⟩]
       let pr := productRows tn x.key (x.val a).per (exactInts a b tn) m
       (∃ k, ∀ q ∈ m, ∀ row ∈ q.as ++ q.bs, row.codes.length = k) ∧ outFits [(tn, pr.1)] = true ∧ MayWrite x (outWrites x [(tn, pr.1)]))) ∧
    (Performs y 0x02 ∧ y.t y.v.a = some a ∧ y.t y.v.b = some b ∧ y.t y.v.out = some tn ∧
      (let m := batchMats a b (y.val a) (y.val b)
       let pr := productRows tn y.key (y.val a).per (exactInts a b tn) m
       (∃ k, ∀ q ∈ m, ∀ row ∈ q.as ++ q.bs, row.codes.length = k) ∧ outFits [(tn, pr.1)] = true ∧ MayWrite y (outWrites y [(tn, pr.1)]))) := by
  refine ⟨⟨performs_of _ _ rfl (by decide +kernel), by decide +kernel, by decide +kernel, by decide +kernel, ⟨2, by decide +kernel⟩, by decide +kernel, ?_⟩,
    performs_of _ _ rfl (by decide +kernel), by decide +kernel, by decide +kernel, by decide +kernel, ⟨2, by decide +kernel⟩, by decide +kernel, ?_⟩
    <;> unfold MayWrite <;> decide +kernel

theorem witness_EpilogueOperationsRun :
    let a := tens 1 0xD 2 2 3 0
    let tn := tens 3 0xD 2 2 3 0
    (∀ o ∈ [(0x03, 1), (0x04, 1), (0x05, 0), (0x06, 1), (0x07, 0), (0x0F, 0)], (xThree o.1 o.2).t (xThree o.1 o.2).v.a = some a ∧
      (xThree o.1 o.2).t (xThree o.1 o.2).v.out = some tn) ∧
    (Performs (xThree 0x03 1) 0x03 ∧ (let x := xThree 0x03 1
      let r := finishRows tn (x.val a).per (ewiseRows x.v.sub ((x.val a).rows.map (TRow.elems a (x.val a).st))
        (match x.t x.v.b with | some b => (x.val b).rows.map (TRow.elems b (x.val b).st) | none => []))
      outFits [(tn, r.1)] = true ∧ MayWrite x (outWrites x [(tn, r.1)]))) ∧
    (Performs (xThree 0x04 1) 0x04 ∧ (let x := xThree 0x04 1
      let r := finishRows tn (x.val a).per ((indexed ((x.val a).rows.map (TRow.elems a (x.val a).st))).map fun l =>
        normRow x.v.sub (x.key + l.1 * 2 ^ 40) l.2)
      outFits [(tn, r.1)] = true ∧ MayWrite x (outWrites x [(tn, r.1)]))) ∧
    (Performs (xThree 0x05 0) 0x05 ∧ (let x := xThree 0x05 0
      let r := finishRows tn (x.val a).per ((indexed ((x.val a).rows.map (TRow.elems a (x.val a).st))).map fun l =>
        softmaxRow (x.key + l.1 * 2 ^ 40) x.v.aux l.2)
      outFits [(tn, r.1)] = true ∧ MayWrite x (outWrites x [(tn, r.1)]))) ∧
    (Performs (xThree 0x07 0) 0x07 ∧ (let x := xThree 0x07 0
      let cut := ((x.val a).rows.map (TRow.values a (x.val a).st)).map fun r =>
        if outlierLimit x.v tn = 0 then (r, []) else takeOutliers (outlierLimit x.v tn) tn.run r
      let r := finishExact tn (x.val a).per (cut.map (·.1))
      outFits [(tn, r.1)] = true ∧ MayWrite x (outWrites x [(tn, r.1)]))) ∧
    (Performs (xThree 0x0F 0) 0x0F ∧ (let x := xThree 0x0F 0
      let v : TVal := ⟨(x.val a).per, (x.val a).rows.map fun r => { rowIn tn (packRow a.fmt r.codes) [] [] with s1 := r.s1, s2 := r.s2 }, (x.val a).st⟩
      outFits [(tn, v)] = true ∧ MayWrite x (outWrites x [(tn, v)]))) := by
  refine ⟨by decide +kernel, ⟨performs_of _ _ rfl (by decide +kernel), by decide +kernel, ?_⟩,
    ⟨performs_of _ _ rfl (by decide +kernel), by decide +kernel, ?_⟩, ⟨performs_of _ _ rfl (by decide +kernel), by decide +kernel, ?_⟩,
    ⟨performs_of _ _ rfl (by decide +kernel), by decide +kernel, ?_⟩, performs_of _ _ rfl (by decide +kernel), by decide +kernel, ?_⟩
    <;> unfold MayWrite <;> decide +kernel

/-- REDUCE into one element a row. -/
def xRed : OpIn := opOn 0x06 1 0 0 [tens 1 0xD 2 2 3 0, tens 3 0xD 1 2 3 0] ins

theorem witness_EpilogueOperationsRun_reduce :
    let x := xRed
    let a := tens 1 0xD 2 2 3 0
    let tn := tens 3 0xD 1 2 3 0
    x.t x.v.a = some a ∧ x.t x.v.out = some tn ∧ Performs x 0x06 ∧
      (let r := finishWith tn (x.val a).per ((indexed ((x.val a).rows.map (TRow.elems a (x.val a).st))).map fun l =>
         [reduceRow x.v.sub (x.key + l.1 * 2 ^ 40) l.2])
       outFits [(tn, r.1)] = true ∧ MayWrite x (outWrites x [(tn, r.1)])) := by
  refine ⟨by decide +kernel, by decide +kernel, performs_of _ _ rfl (by decide +kernel), by decide +kernel, ?_⟩
  unfold MayWrite; decide +kernel

/-- CONVERT of a row of 128 into INT4, one outlier of each group taken out, before another operation. -/
def xOut : OpIn :=
  let x := opOn 0x07 0 1 0 [tens 1 0xD 128 1 3 0, tens 3 4 128 1 3 0] [(1, vals [0x42C80000 :: List.replicate 127 0x3F800000])]
  let o := { x.o with ops := [x.v, x.v] }
  { x with o := o, s := sP o x.r }

theorem witness_EpilogueOperationsRun_outliers :
    let x := xOut
    let a := tens 1 0xD 128 1 3 0
    let tn := tens 3 4 128 1 3 0
    x.t x.v.a = some a ∧ x.t x.v.out = some tn ∧ Performs x 0x07 ∧ x.r.op + 1 < x.o.ops.length ∧
      (let cut := ((x.val a).rows.map (TRow.values a (x.val a).st)).map fun r =>
         if outlierLimit x.v tn = 0 then (r, []) else takeOutliers (outlierLimit x.v tn) tn.run r
       let r := finishExact tn (x.val a).per (cut.map (·.1))
       (cut.flatMap (·.2)).map (·.1) = [0] ∧ outFits [(tn, r.1)] = true ∧ MayWrite x (outWrites x [(tn, r.1)])) := by
  refine ⟨by decide +kernel, by decide +kernel, performs_of _ _ rfl (by decide +kernel), by decide +kernel, by decide +kernel, by decide +kernel, ?_⟩
  unfold MayWrite; decide +kernel

/-- Rows named by tensor 2 (INT32), the output in the run or at 0x9000. -/
def named (role : Nat) : List Tensor := [tens 1 0xD 2 2 3 0, tens 2 0xE 2 1 3 0, tens 3 0xD 2 2 role 0x9000]
def xNamed (vop role : Nat) : OpIn :=
  opOn vop 0 1 0 (named role) [(1, vals [[0x3F800000, 0x40000000], [0, 0x3F800000]]), (2, vals [[1, 0]]), (3, vals [[0, 0], [0, 0]])]

theorem witness_RowOperationsRun_gather :
    let x := xNamed 0x08 3
    let a := tens 1 0xD 2 2 3 0
    let b := tens 2 0xE 2 1 3 0
    let tn := tens 3 0xD 2 2 3 0x9000
    x.t x.v.a = some a ∧ x.t x.v.out = some tn ∧ x.t x.v.b = some b ∧ Performs x 0x08 ∧ indicesOf b (x.val b) = [1, 0] ∧
      (let rows := (indicesOf b (x.val b)).filterMap fun i => (x.val a).rows[i]?
       (∀ i ∈ indicesOf b (x.val b), i < (x.val a).rows.length ∧ (a.role ≠ 3 → rangeFail x.s x.p x.r.tenant false
         (x.r.addr x.o a + i * a.stride, a.stride) = none ∧ cohHeld x.s (x.r.addr x.o a + i * a.stride) a.stride false = [])) ∧
       outFits [(tn, ⟨rows.length, rows, (x.val a).st⟩)] = true ∧ MayWrite x (outWrites x [(tn, ⟨rows.length, rows, (x.val a).st⟩)])) := by
  refine ⟨by decide +kernel, by decide +kernel, by decide +kernel, performs_of _ _ rfl (by decide +kernel), by decide +kernel, by decide +kernel,
    by decide +kernel, ?_⟩
  unfold MayWrite; decide +kernel

theorem witness_RowOperationsRun_scatter :
    ∀ role ∈ [2, 3],
    let x := xNamed 0x09 role
    let a := tens 1 0xD 2 2 3 0
    let b := tens 2 0xE 2 1 3 0
    let tn := tens 3 0xD 2 2 role 0x9000
    x.t x.v.a = some a ∧ x.t x.v.out = some tn ∧ x.t x.v.b = some b ∧ Performs x 0x09 ∧ a.d0 = tn.d0 ∧
      (let ix := indicesOf b (x.val b)
       let old := x.val tn
       let addr (i : Nat) : Nat := x.r.addr x.o tn + i * tn.stride
       let cell (i j : Nat) : Nat × FlagN := addElem (tn.fmt == 0xD) (tensorOnMills x.s x.o x.r tn (x.val a).rows.length)
         (x.key + (i * tn.d0 + j) * 2 ^ 32) (((old.rows.getD i ⟨[], [], []⟩).codes).getD j 0)
         (((ix.zip (x.val a).rows).filter (·.1 == i)).map fun e => e.2.codes.getD j 0)
       let codes (i : Nat) : List Nat := (List.range tn.d0).map fun j => (cell i j).1
       let put : TVal := { old with rows := ix.eraseDups.foldl (fun l i => l.set i ⟨codes i, [], []⟩) old.rows }
       let stores := ix.eraseDups.map fun i => (addr i, packRow tn.fmt (codes i))
       (∀ i ∈ ix, i < old.rows.length) ∧ outFits [(tn, put)] = true ∧ (∀ i ∈ ix, poisonIn x.s (addr i) tn.stride = none) ∧
         MayWrite x (stores.map fun w => (w.1, w.2.length))) := by
  intro role h
  have h2 : role = 2 ∨ role = 3 := by simpa using h
  obtain rfl | rfl := h2
  all_goals
    refine ⟨by decide +kernel, by decide +kernel, by decide +kernel, performs_of _ _ rfl (by decide +kernel), by decide +kernel, by decide +kernel,
      by decide +kernel, by decide +kernel, ?_⟩
    unfold MayWrite; decide +kernel

theorem witness_RowOperationsRun_append :
    ∀ role ∈ [2, 3],
    let x := opOn 0x0D 0 0 0 [tens 1 0xD 2 2 3 0, tens 3 0xD 2 4 role 0x9000]
      [(1, vals [[0x3F800000, 0x40000000], [0, 0x3F800000]]), (3, vals (List.replicate 4 [0, 0]))]
    let a := tens 1 0xD 2 2 3 0
    let tn := tens 3 0xD 2 4 role 0x9000
    x.t x.v.a = some a ∧ x.t x.v.out = some tn ∧ Performs x 0x0D ∧
      (let va := x.val a
       let encs := (va.rows.map (TRow.values a va.st)).map (encodeRow tn.fmt tn.u 1 tn.group num0)
       let rows := (indexed encs).foldl (fun l e => l.set (x.v.aux + e.1) ⟨e.2.1.codes, e.2.1.s1, e.2.1.s2⟩) (x.val tn).rows
       let put : TVal := { x.val tn with rows := rows }
       let stride := roundUp (tn.valBytes + tn.groups + 4 * ceilDiv tn.groups 16) 16
       let stores := (indexed encs).map fun e => (x.r.addr x.o tn + (x.v.aux + e.1) * stride,
         padTo stride (packRow tn.fmt e.2.1.codes ++ e.2.1.s1.flatMap (natLE 1) ++ e.2.1.s2.flatMap (natLE 4)))
       (∀ r ∈ va.rows, (r.values a va.st).length = tn.d0) ∧
         (role = 3 → x.v.aux + va.rows.length ≤ rowsOf x tn) ∧
         (role ≠ 3 → (x.v.aux + va.rows.length) * stride ≤ rowsOf x tn * tn.stride) ∧ outFits [(tn, put)] = true ∧
         MayWrite x (stores.map fun w => (w.1, w.2.length))) := by
  intro role h
  have h2 : role = 2 ∨ role = 3 := by simpa using h
  obtain rfl | rfl := h2
  all_goals
    refine ⟨by decide +kernel, by decide +kernel, performs_of _ _ rfl (by decide +kernel), by decide +kernel, by decide +kernel, ?_⟩
    unfold MayWrite; decide +kernel

/-- Binary codes, and their distances as INT32. -/
def xHam : OpIn := opOn 0x0A 0 0 0 [tens 1 1 32 1 3 0, tens 2 1 32 2 3 0, tens 3 0xE 2 1 3 0]
  [(1, vals [List.replicate 32 1]), (2, vals [List.replicate 32 0, List.replicate 32 1])]

theorem witness_RowOperationsRun_hamming :
    let x := xHam
    let a := tens 1 1 32 1 3 0
    let b := tens 2 1 32 2 3 0
    let tn := tens 3 0xE 2 1 3 0
    x.t x.v.a = some a ∧ x.t x.v.out = some tn ∧ x.t x.v.b = some b ∧ Performs x 0x0A ∧ a.d0 = b.d0 ∧
      (let ds := (x.val a).rows.map fun r => (x.val b).rows.map fun q =>
         (List.zipWith (fun i j => if i % 2 = j % 2 then 0 else 1) r.codes q.codes).sum
       let r := finishExact tn (x.val a).per (ds.map fun l => l.map fun d => .fin false d 0)
       ds = [[32, 0]] ∧ outFits [(tn, r.1)] = true ∧ MayWrite x (outWrites x [(tn, r.1)])) := by
  refine ⟨by decide +kernel, by decide +kernel, by decide +kernel, performs_of _ _ rfl (by decide +kernel), by decide +kernel, by decide +kernel,
    by decide +kernel, ?_⟩
  unfold MayWrite; decide +kernel

/-- The Sorter's operations: rows of two into a block of 1, and one block merged; a selection of 257 in two passes, at its first or, with the
entries of the first chosen, at its second. -/
def xPass (sel : Option Passes) (rows : Nat) : OpIn :=
  let ts := [tens 1 0xD 2 rows 3 0, tens 3 0xE 2048 rows 3 0]
  let v : VOp := ⟨0x0B, 0, 1, 0, 3, 257, 1⟩
  let r : VRun := { run1 [(1, vals (List.replicate rows [0x3F800000, 0x40000000]))] with sel := sel, rows := rows }
  ⟨sP (obj1 ts [v]) r, 0, { cmd0 0x0503 [] with phase := .running }, obj1 ts [v], r, v, 0⟩
def between : Passes := ⟨1, [], 1, [⟨0x40000000, 1, 0, 0, 0, none⟩, ⟨0x3F800000, 0, 0, 0, 0, none⟩], 0, 0, .none⟩
def xTop : OpIn := opOn 0x0B 0 1 1 [tens 1 0xD 2 2 3 0, tens 3 0xE 12 2 3 0] ins
def xMerge : OpIn := opOn 0x0C 0 1 0 [tens 1 0xE 12 1 3 0, tens 2 0xD 1 1 3 0, tens 3 0xE 12 1 3 0]
  [(1, vals [[0x10001, 0x1000, 0, 1, 1, 0, 0, 0, 0, 0x3F800000, 7, 0]]), (2, vals [[0x3F800000]])]

theorem witness_SorterTextAndTallyOperationsRun_topk :
    let x := xTop
    let a := tens 1 0xD 2 2 3 0
    let tn := tens 3 0xE 12 2 3 0
    x.t x.v.a = some a ∧ x.t x.v.out = some tn ∧ Performs x 0x0B ∧ sorterTakes x.s x.p x.r.id = true ∧ x.v.aux ≤ 256 ∧
      (let blocks := (indexed (x.val a).rows).map fun r => selectBlock (x.key + r.1 * 2 ^ 40) (x.v.dir == 1) false false (tempOf x).isSome
         ((tempOf x).getD 0) x.v.aux (scoreRow a (x.val a).st r.2)
       let v := finishRaw tn (x.val a).per (blocks.map fun b => padTo tn.valBytes (blockOut b.1))
       blockSize x.v.aux false ≤ tn.valBytes ∧ outFits [(tn, v)] = true ∧ MayWrite x (outWrites x [(tn, v)])) := by
  refine ⟨by decide +kernel, by decide +kernel, performs_of _ _ rfl (by decide +kernel), by decide +kernel, by decide +kernel, by decide +kernel,
    by decide +kernel, ?_⟩
  unfold MayWrite; decide +kernel

/-- No register is free: four selections hold one each. -/
theorem witness_SorterTextAndTallyOperationsRun_wait :
    let x := { xTop with s := part0 xTop.s fun y => { y with sels := (List.range 4).map fun i => { sel7 true with id := 20 + i } } }
    x.t x.v.a = some (tens 1 0xD 2 2 3 0) ∧ x.t x.v.out = some (tens 3 0xE 12 2 3 0) ∧ sorterTakes x.s x.p x.r.id = false := by decide +kernel

theorem witness_SorterTextAndTallyOperationsRun_passes :
    ∀ sel ∈ [none, some between],
    let x := xPass sel 1
    let a := tens 1 0xD 2 1 3 0
    let tn := tens 3 0xE 2048 1 3 0
    x.t x.v.a = some a ∧ x.t x.v.out = some tn ∧ Performs x 0x0B ∧ sorterTakes x.s x.p x.r.id = true ∧ 256 < x.v.aux ∧
      blockSize x.v.aux false ≤ tn.valBytes ∧
      (let conv (r : TRow) : FlagN := flagSum ((r.f32s a (x.val a).st).map (·.2))
       let y := x.r.sel.getD ⟨x.c.cls, [], 0, [], 0, 0, .none⟩
       let row := (x.val a).rows.getD y.blocks.length ⟨[], [], []⟩
       let z := passNext x.key ⟨x.v.dir == 1, (tempOf x).isSome, (tempOf x).getD 0, x.v.aux⟩ (scoreRow a (x.val a).st row)
         (if y.pass = 0 then { y with flags := y.flags.add (conv row) } else y)
       let v := finishRaw tn (x.val a).per (z.blocks.map (padTo tn.valBytes))
       (z.blocks.length < (x.val a).rows.length ↔ sel = none) ∧
         (sel ≠ none → outFits [(tn, v)] = true ∧ MayWrite x (outWrites x [(tn, v)]))) := by
  intro sel h
  have h2 : sel = none ∨ sel = some between := by simpa using h
  obtain rfl | rfl := h2
  all_goals
    refine ⟨by decide +kernel, by decide +kernel, performs_of _ _ rfl (by decide +kernel), by decide +kernel, by decide +kernel, by decide +kernel,
      by decide +kernel, ?_⟩
    unfold MayWrite; decide +kernel

theorem witness_SorterTextAndTallyOperationsRun_merge :
    let x := xMerge
    let a := tens 1 0xE 12 1 3 0
    let b := tens 2 0xD 1 1 3 0
    let tn := tens 3 0xE 12 1 3 0
    x.t x.v.a = some a ∧ x.t x.v.out = some tn ∧ x.t x.v.b = some b ∧ Performs x 0x0C ∧ sorterTakes x.s x.p x.r.id = true ∧
      (let temp := (tempOf x).getD 0
       let lists := (cut (max 1 (x.val a).per) (x.val a).rows).map fun rows => rows.map fun r => blockIn (packRow a.fmt r.codes)
       let merged := (indexed lists).map fun l =>
         mergeBlocks (x.key + l.1 * 2 ^ 44) (x.v.dir == 1) (l.2.any (·.payload)) (l.2.any (·.massExp)) false temp x.v.aux l.2
       let v := finishRaw tn 1 (merged.map fun b => padTo tn.valBytes (blockOut b.1))
       (∀ l ∈ lists, mergeable l = true ∧ ∀ y ∈ l, y.dirHigh = (x.v.dir == 1)) ∧
       (∀ y ∈ merged, blockSize x.v.aux y.1.payload ≤ tn.valBytes) ∧ outFits [(tn, v)] = true ∧ MayWrite x (outWrites x [(tn, v)])) := by
  refine ⟨by decide +kernel, by decide +kernel, by decide +kernel, performs_of _ _ rfl (by decide +kernel), by decide +kernel, by decide +kernel,
    by decide +kernel, by decide +kernel, ?_⟩
  unfold MayWrite; decide +kernel

/-- A stream of bytes, and a program that feeds it or works on tally 1. -/
def stream1 (mode : Nat) (st : StreamState) : TextStream := ⟨1, 0, mode, 0, [], false, [], [], [], [], st, 0, 0xFF⟩
def text0 (s : State) (l : List TextStream) : State := part0 s fun x => { x with text := { x.text with streams := l } }
def xDetok (mode : Nat) (st : StreamState) : OpIn :=
  let x := opOn 0x0E 0 1 0 [tens 1 0xE 2 1 3 0, tens 3 0xE 4 1 3 0] [(1, vals [[72, 105]])]
  { x with s := text0 x.s [stream1 mode st] }

theorem witness_SorterTextAndTallyOperationsRun_detok :
    let x := xDetok 1 .opened
    let st := stream1 1 .opened
    let a := tens 1 0xE 2 1 3 0
    let tn := tens 3 0xE 4 1 3 0
    x.t x.v.a = some a ∧ x.t x.v.out = some tn ∧ Performs x 0x0E ∧ detokWaits x.s x.p x.r.id = false ∧
      streamOf x.s x.p x.v.aux = some st ∧ st.tenant = x.r.tenant ∧ st.state = .opened ∧
      (let ids := indicesOf a (x.val a)
       (∀ i ∈ ids, i < if st.mode = 0 then 2 ^ 20 else 256) ∧
       let r := feedRun (psys x.s x.p).text.vocab st (if st.mode = 0 then ids.flatMap (natLE 4) else ids.map (BitVec.ofNat 8)) 0
       let hit := r.hit.getD (0xFFFF, 0, 0, 0)
       let v := finishRaw tn 1 [padTo tn.valBytes (natLE 1 r.final.endCode ++ natLE 1 r.final.stopIndex ++ natLE 2 hit.1 ++
         natLE 2 hit.2.1 ++ zeros 2 ++ natLE 4 r.final.queue.length ++ zeros 4)]
       st.queue.length + 64 + (if st.mode = 0 then 96 else if st.mode = 1 then 3 else 6) * ids.length ≤ 131072 ∧ 16 ≤ tn.stride ∧
         r.bad = none ∧ outFits [(tn, v)] = true ∧ MayWrite x (outWrites x [(tn, v)])) := by
  refine ⟨by decide +kernel, by decide +kernel, performs_of _ _ rfl (by decide +kernel), by decide +kernel, by decide +kernel, by decide +kernel,
    by decide +kernel, by decide +kernel, by decide +kernel, by decide +kernel, by decide +kernel, by decide +kernel, ?_⟩
  unfold MayWrite; decide +kernel

/-- A program of two tally operations, at its first, tally 1 at 3. -/
def xTally (vop : Nat) (target : Nat) (waiting : Option Nat) : OpIn :=
  let v : VOp := ⟨vop, 0, 1, 0, 0, 1, 0⟩
  let o := obj1 [tens 1 0xE 2 1 3 0] [v, v]
  let r : VRun := { run1 [(1, vals [[target, 0]])] with waiting := waiting }
  ⟨reg0 (sP o r) .tally 1 3, 0, { cmd0 0x0503 [] with phase := .running }, o, r, v, 0⟩

theorem witness_SorterTextAndTallyOperationsRun_tally :
    (∀ n ∈ [3, 4], let x := xTally 0x10 n none
      Performs x 0x10 ∧ x.t x.v.a = some (tens 1 0xE 2 1 3 0) ∧ opTallyOk x = true ∧
      (let w := (x.val (tens 1 0xE 2 1 3 0)).rows.flatMap (·.codes)
       (w.getD 0 0 + 2 ^ 32 * w.getD 1 0 ≤ (rd x.s .tally x.p (x.v.aux % 4096)).toNat ↔ n = 3))) ∧
    (∀ n ∈ [3, 4], let x := xTally 0x10 0 (some n)
      Running x.s ∧ runOf x.s x.p x.r.id = some x.r ∧ objOf x.s x.p x.r.handle = some x.o ∧ cmdOf x.s x.p x.r.ref = some x.c ∧
      x.o.ops[x.r.op]? = some x.v ∧ x.r.waiting = some n ∧ x.r.op + 1 < x.o.ops.length ∧
      (n ≤ (rd x.s .tally x.p (x.v.aux % 4096)).toNat ↔ n = 3)) ∧
    (let x := xTally 0x11 0 none; Performs x 0x11 ∧ opTallyOk x = true ∧ x.r.op + 1 < x.o.ops.length) := by
  refine ⟨?_, ?_, performs_of _ _ rfl (by decide +kernel), by decide +kernel, by decide +kernel⟩
  · intro n h
    have h2 : n = 3 ∨ n = 4 := by simpa using h
    obtain rfl | rfl := h2
    all_goals exact ⟨performs_of _ _ rfl (by decide +kernel), by decide +kernel, by decide +kernel, by decide +kernel⟩
  · intro n h
    refine ⟨rfl, ?_⟩
    revert n; decide +kernel

/-- A VTC image of one FP32 tensor of the run and one EWISE on it (Tables 8.4 to 8.6), at 0x8000. -/
def img1 : Bytes :=
  [0x56, 0x54, 0x43, 0x31] ++ natLE 2 0x100 ++ natLE 2 0 ++ natLE 8 160 ++ natLE 2 1 ++ natLE 2 1 ++ natLE 4 4096 ++ natLE 8 64 ++ natLE 8 128 ++
  zeros 8 ++ natLE 8 160 ++ natLE 2 1 ++ zeros 6 ++
  (natLE 4 1 ++ [0xD, 0, 3, 0] ++ natLE 4 2 ++ natLE 4 2 ++ natLE 4 1 ++ natLE 4 1 ++ zeros 40) ++
  (natLE 2 3 ++ natLE 2 1 ++ natLE 4 1 ++ natLE 4 0 ++ natLE 4 1 ++ zeros 16)
def sImg : State := { sT with mem := Mem.writeBytes [] 0x8000 img1 }

/-- The object with a tensor in memory, and a stream of it; the prefetchers of its Mill at work on four other streams, or idle. -/
def objM : VObj := obj1 [tens 1 0xD 2 2 1 0x9000] [⟨3, 1, 1, 0, 1, 0, 0⟩]
def pre1 : Prefetch := ⟨8, 5, 0, 1, 16, zeros 4, 0, false, 1, none⟩
def sPre (op : Nat) (full : Bool) : State :=
  part0 (sP objM { run1 [] with op := op }) fun x => { x with mill := { x.mill with
    streams := pre1 :: if full then List.replicate 4 { pre1 with id := 9, run := 7, on := some 0 } else [] } }

/-- An object being unloaded. -/
def objU : VObj := { objM with unloading := true }
def unl : Cmd := { cmd0 0x0502 (natLE 2 1) with phase := .running }

theorem witness_ProgramsAreLoadedAndRun :
    (∃ s c, Held s 0 0x0501 c ∧ (∀ x ∈ objReads (memBytes s (par c 0 8) (par c 8 8)) (par c 0 8),
        rangeFail s 0 c.tenant false x = none ∧ cohHeld s x.1 x.2 false = []) ∧
      (psys s 0).mill.objs.length < 1024 ∧
      (objIn (memBytes s (par c 0 8) (par c 8 8)) (par c 8 8) (unitsBound s 1 0 c.tenant).length 0 c.tenant (par c 0 8) []).isSome = true) ∧
    (∃ s c, Held s 0 0x0502 c ∧ objMine s 0 c = true) ∧
    (∀ r ∈ [[run1 []], []], ∃ s c, Running s ∧ objOf s 0 1 = some objU ∧ objU.unloading = true ∧ objBusy s 0 1 = !r.isEmpty ∧
      c ∈ (psys s 0).cmds ∧ c.opcode = 0x0502 ∧ par c 0 2 = 1 ∧ c.phase = .running) ∧
    (∃ s c o, Held s 0 0x0504 c ∧ objOf s 0 (par c 0 2) = some o ∧ o.tenant = c.tenant) ∧
    (∃ s c o, Held s 0 0x0503 c ∧ objOf s 0 (par c 0 2) = some o ∧ (o.ops[0]?).any (·.onQueue) = true ∧
      (psys s 0).mill.accepts o c.ref = true ∧ (psys s 0).mill.units.length = 48) ∧
    (∀ op ∈ [0, 1], ∀ full ∈ [true, false], ∃ s y r o tn, Running s ∧ (psys s 0).mill.streams.find? (·.id == 8) = some y ∧ runOf s 0 y.run = some r ∧
      objOf s 0 r.handle = some o ∧ o.tensor y.tensor = some tn ∧
      (let k := min 8 (min (o.window * o.mills.length - ringHeld (psys s 0).mill r.id) (y.total - y.data.length))
       k = 8 ∧ rangeFail s 0 r.tenant false (r.addr o tn + y.data.length, k) = none ∧
         flashMay s 0 (((cmdOf s 0 r.ref).map (·.cls)).getD 2) (r.addr o tn + y.data.length) = true ∧ cohHeld s (r.addr o tn + y.data.length) k false = []) ∧
      (prefetcher (psys s 0).mill o y = if full then none else some 0) ∧
      (r.op = y.op ∧ r.waiting = none ↔ op = 0)) ∧
    (∃ (s : State) (r : VRun), r.others (psys s 0).mill = [] ∧ inRanges (r.others (psys s 0).mill) 0x9000 = false) := by
  let u := fun (r : List VRun) (c : List Cmd) => part0 sT fun x => { x with cmds := c, mill := { x.mill with objs := [objU], runs := r } }
  refine ⟨⟨_, _, held_store sImg (cmd0 0x0501 (natLE 8 0x8000 ++ natLE 8 160)) [] _ rfl rfl rfl, by decide +kernel,
      by decide +kernel, by decide +kernel⟩,
    ⟨_, _, held_store (sP objM (run1 [])) (cmd0 0x0502 (natLE 2 1)) [] _ rfl rfl rfl, by decide +kernel⟩, ?_,
    ⟨_, _, objM, held_store (sP objM (run1 [])) (cmd0 0x0504 (natLE 2 1)) [] _ rfl rfl rfl, by decide +kernel⟩,
    ⟨_, _, objM, held_store (sP objM (run1 [])) (cmd0 0x0503 (natLE 2 1)) [] _ rfl rfl rfl, by decide +kernel⟩, ?_,
    ⟨sP objM (run1 []), run1 [], by decide +kernel⟩⟩
  · intro r h
    refine ⟨u r [unl], unl, rfl, ?_⟩
    revert r; decide +kernel
  · intro n h full hf
    refine ⟨sPre n full, pre1, { run1 [] with op := n }, objM, tens 1 0xD 2 2 1 0x9000, rfl, ?_⟩
    revert n full; decide +kernel

/-! #### Text, tables, transfers -/

theorem witness_StreamsOpenFeedAndClose :
    (∃ s c, Held s 0 0x0702 c ∧ (psys s 0).text.streams.length < 1024) ∧
    (∃ s c y, Held s 0 0x0703 c ∧ textBlocked s 0 c = false ∧ vocabWaits s 0 c = false ∧ streamOf s 0 (par c 0 2) = some y ∧
      y.state = .opened ∧ (feedRun (psys s 0).text.vocab y (c.params.drop 8) 72).bad = none) ∧
    (∃ s c y d, Held s 0 0x0703 c ∧ textBlocked s 0 c = false ∧ vocabWaits s 0 c = false ∧ streamOf s 0 (par c 0 2) = some y ∧
      y.state = .opened ∧ (feedRun (psys s 0).text.vocab y (c.params.drop 8) 72).bad = some d) ∧
    (∃ s c y, Held s 0 0x0704 c ∧ textBlocked s 0 c = false ∧ streamOf s 0 (par c 0 2) = some y ∧ y.state = .draining ∧
      ∀ a b, y.state ≠ .failed a b) ∧
    (∃ s c y, Held s 0 0x0705 c ∧ textBlocked s 0 c = false ∧ streamOf s 0 (par c 0 2) = some y ∧ y.state = .ended) ∧
    (∃ s c y, Held s 0 0x0705 c ∧ textBlocked s 0 c = false ∧ streamOf s 0 (par c 0 2) = some y ∧ y.state = .failed true 0) ∧
    utf8Ok [0x48, 0xC3, 0xA9, 0xE2, 0x82, 0xAC, 0xF0, 0x9F, 0x98, 0x80] = true := by
  let rej : TextStream := { stream1 1 .opened with options := 1 }
  refine ⟨⟨_, _, held_store s0 (cmd0 0x0702 [1]) [] _ rfl rfl rfl, by decide +kernel⟩,
    ⟨_, _, stream1 1 .opened, held_store (text0 s0 [stream1 1 .opened]) (cmd0 0x0703 (natLE 2 1 ++ zeros 6 ++ [72, 105])) [] _ rfl rfl rfl,
      by decide +kernel⟩,
    ⟨_, _, rej, ((feedRun [] rej [0xFF] 72).bad).getD 0, held_store (text0 s0 [rej]) (cmd0 0x0703 (natLE 2 1 ++ zeros 6 ++ [0xFF])) [] _ rfl rfl rfl,
      by decide +kernel⟩,
    ⟨_, _, stream1 1 .draining, held_store (text0 s0 [stream1 1 .draining]) (cmd0 0x0704 (natLE 2 1)) [] _ rfl rfl rfl, by decide +kernel,
      by decide +kernel, rfl, by intro a b h; cases h⟩,
    ⟨_, _, stream1 1 .ended, held_store (text0 s0 [stream1 1 .ended]) (cmd0 0x0705 (natLE 2 1)) [] _ rfl rfl rfl, by decide +kernel⟩,
    ⟨_, _, stream1 1 (.failed true 0), held_store (text0 s0 [stream1 1 (.failed true 0)]) (cmd0 0x0705 (natLE 2 1)) [] _ rfl rfl rfl,
      by decide +kernel⟩, by decide +kernel⟩

theorem witness_VocabulariesAndTermsAreServed :
    (∃ s c, Held s 0 0x0701 c ∧
      tableBusy s 0 c = false ∧
      cohDead s (unalias s (par c 0 8)) 0x800000 = false ∧ cohHeld s (par c 0 8) 0x800000 false = [] ∧
      poisonIn s (par c 0 8) 0x800000 = none) ∧
    (∃ s c, Held s 0 0x0706 c ∧ vocabWaits s 0 c = false) ∧ ∃ s c, Held s 0 0x0707 c :=
  ⟨⟨_, _, held_store sM (cmd0 0x0701 (natLE 8 0x800000)) [] _ rfl rfl rfl, by decide +kernel⟩,
    ⟨_, _, held_store sM (cmd0 0x0706 []) [] _ rfl rfl rfl, by decide +kernel⟩,
    ⟨_, _, held_store sM (cmd0 0x0707 []) [] _ rfl rfl rfl⟩⟩

/-- Table 3 of tenant 0: rows of four FP32 at 0x8000, all homed at partition 0, refreshed each second frame. -/
def tdesc : Bytes := natLE 2 3 ++ [0xD, 1] ++ natLE 2 4 ++ natLE 2 2 ++ natLE 8 8 ++ natLE 8 0x8000 ++ natLE 4 4 ++ zeros 4 ++ natLE 8 0x9000 ++ zeros 24
def table3 : Table := ⟨3, 0, tdesc, [⟨0, 0xFFFFF, 0, 0⟩], none, false, [0], none, [0], [], some 0, none, none, none⟩
def sTab (t : Table) : State := part0 sM fun x => { x with tables := [t] }

theorem witness_TablesAreDefinedDroppedAndRefreshed :
    (∃ s c, Held s 0 0x0602 c ∧ tableOf s 0 (par c 0 2) = none ∧ (psys s 0).tables.length < 1024 ∧ tEvery c.params ≠ 0 ∧
      (psys s 0).tables.countP (fun t => tEvery t.desc != 0) < 16) ∧
    (∃ s c, Held s 0 0x0602 c ∧ tableOf s 0 (par c 0 2) = none ∧ (psys s 0).tables.length < 1024 ∧ tEvery c.params = 0) ∧
    (∃ s c k, Held s 0 0x0603 c ∧ tableFor s 0 c.tenant (par c 0 2) = some k) ∧
    (∀ op ∈ [0x0604, 0x0603], ∃ s k c, Running s ∧ tableOf s 0 3 = some k ∧ k.closing = true ∧
      (psys s 0).cmds.any (usesTable · 3) = decide (op = 0x0604) ∧ c ∈ (psys s 0).cmds ∧ c.opcode = op ∧ par c 0 2 = 3 ∧ c.phase = .running) ∧
    (∃ s k, Running s ∧ tableOf s 0 3 = some k ∧ k.copying = some (1, 0)) ∧
    (∀ x ∈ [some (0, 0), none], ∃ s k, Running s ∧ tableOf s 0 3 = some k ∧ tEvery k.desc ≠ 0 ∧ frameNow s % tEvery k.desc = 0 ∧
      k.refreshed ≠ some (frameNow s) ∧ k.opening = none ∧ k.copying = x) := by
  let c (op : Nat) : Cmd := { cmd0 op (natLE 2 3) with phase := .running }
  refine ⟨⟨_, _, held_store sM (cmd0 0x0602 tdesc) [] _ rfl rfl rfl, by decide +kernel⟩,
    ⟨_, _, held_store sM (cmd0 0x0602 (natLE 2 4)) [] _ rfl rfl rfl, by decide +kernel⟩,
    ⟨_, _, table3, held_store (sTab table3) (cmd0 0x0603 (natLE 2 3)) [] _ rfl rfl rfl, by decide +kernel⟩, ?_,
    ⟨sTab { table3 with copying := some (1, 0) }, { table3 with copying := some (1, 0) }, rfl, by decide +kernel⟩, ?_⟩
  · intro op h
    refine ⟨store (sTab { table3 with closing := true }) [c op], { table3 with closing := true }, c op, rfl, ?_⟩
    revert op; decide +kernel
  · intro x h
    refine ⟨sTab { table3 with copying := x }, { table3 with copying := x }, rfl, ?_⟩
    revert x; decide +kernel

/-- Rows 0 and 1 of table 3 named, with their piece. -/
def rowsIn (op n : Nat) : Bytes := natLE 2 3 ++ [0, 0] ++ natLE 4 n ++ (if op = 0x0410 then zeros 8 else []) ++ natLE 8 0 ++ natLE 8 1
def rowPiece (n : Nat) : Piece := { piece7 false with entries := List.range n }
def rowCmd (op : Nat) (params : Bytes) (n : Nat) : Cmd := { cmd0 op params with pieces := [rowPiece n] }

/-- A row command of one kind, its own or forwarded, on rows that its partition holds. -/
def rowMade (op inner n : Nat) : Cmd :=
  rowCmd op (if op = 0x0606 then zeros 8 ++ natLE 2 inner ++ zeros 6 ++ rowsIn inner n else rowsIn inner n) n

theorem witness_RowCommandsRun :
    (∀ q ∈ [(0x0604, 0x0604), (0x0606, 0x0604), (0x0605, 0x0605), (0x0606, 0x0605), (0x0410, 0x0410), (0x0606, 0x0410)],
      ∃ s c, Held s 0 q.1 c ∧ rowOp c = q.2 ∧ tableOf s 0 (par c (rowOff c) 2) = some table3 ∧ c.pieces = [rowPiece 1] ∧
      (rowPiece 1).loc = true ∧ (rowPiece 1).done = none ∧ min (par c (rowOff c + 4) 4) 1024 = 1 ∧ (rowPiece 1).entries = List.range 1 ∧
      (rowPiece 1).area = [] ∧ (∀ m ∈ (psys s 0).migs, m.kind ≠ 1) ∧
      (let rows := (rowEntries table3.desc c).map (·.1)
       let n := tRowBytes table3.desc
       let at' := rows.map fun r => match (if nbit (par c (rowOff c + 2) 1) 0 then none else hotSlot table3 r) with
         | some h => hotAddr table3 h.1 h.2
         | none => rowAddr table3 r
       rows = [0] ∧ at' = [0x9000] ∧ (∀ a ∈ at', rangeFail s 0 c.tenant false (a, n) = none) ∧
         (∀ r ∈ rows, cohHeld s (rowAddr table3 r) n false = [] ∧ cohHeld s (rowAddr table3 r) n true = [] ∧
           rangeFail s 0 c.tenant true (rowAddr table3 r, n) = none ∧ poisonIn s (rowAddr table3 r) n = none) ∧
         dayFits s 0 (dayLen (rowRecord s 0 c table3 (rowEntries table3.desc c))) = true)) ∧
    poisonIn sM (rowAddr table3 1) (tRowBytes table3.desc) = none := by
  refine ⟨?_, by decide +kernel⟩
  intro q h
  refine ⟨store (sTab table3) [rowMade q.1 q.2 1], rowMade q.1 q.2 1, held_store _ _ _ _ rfl rfl rfl, ?_⟩
  revert q; decide +kernel

/-- Channel 0 set up by its registers for 64 bytes from 0x8000 to 0xA000, with a descriptor at 0xC000 for the same. -/
def ddesc : Bytes := natLE 8 0x8000 ++ natLE 8 0xA000 ++ natLE 8 64 ++ natLE 3 0xFFFFF ++ natLE 3 0xFFFFF ++ zeros 2 ++ [16] ++ zeros 31
def sDma : State :=
  { reg0 (reg0 (reg0 (reg0 (reg0 sM .dmaSrc 0 0x8000) .dmaDst 0 0xA000) .dmaCount 0 64) .dmaParts 0 0x000FFFFF000FFFFF) .dmaDesc 0 0xC000 with
    mem := Mem.writeBytes [] 0xC000 ddesc }
def run9 (srcHost : Bool) : DmaRun :=
  ⟨0, 0, 0, 1, 0x8000, 0xA000, 64, 0xFFFFF, 0xFFFFF, srcHost, false, true, false, 0, 0, false, true, 0, [], false, none, none⟩
def sRun (r : DmaRun) : State := reg0 (part0 sDma fun x => { x with dma := [r] }) .dmaStatus 0 (1 <<< 60)

theorem witness_TransfersBegin :
    (∃ s c, Held s 0 0x0601 c ∧ dmaFree s 0 c.tenant ≠ [] ∧ copySrcPart c = partId s ∧ copyDstPart c = partId s ∧
      dmaCheck s 0 { j := 0, tenant := c.tenant, cls := c.cls, src := par c 0 8, dst := par c 8 8, count := par c 16 8,
                     srcPart := copySrcPart c, dstPart := copyDstPart c, srcHost := false, dstHost := false, barrier := true,
                     tallyEn := false, swap := 0, tally := 0, chain := false, last := true, next := 0, got := [], issued := false,
                     ref := none, no := 0, fail := none } = none) ∧
    (∀ d ∈ [0, 256], let v : Word := .ofNat 64 (2 ^ 63 + 2 ^ 16 + d)
      Running sDma ∧ ctlWriteOk sDma w0 0 R.dmaCtl.desc.page 0 = true ∧ bit (rd sDma .dmaStatus 0 0) 60 = false ∧ fld v 17 16 ≠ 0 ∧
      bit v 63 = true ∧ bit v 62 = false ∧ unitServes sDma 9 0 0 = true ∧ bit v 8 = decide (d = 256) ∧
      (let s1 := (plainWrite .dmaCtl 0 0 v).run sDma
       let r := if bit v 8 then descRun 0 0 (fld v 17 16) (memBytes sDma (fld (rd sDma .dmaDesc 0 0) 49 0) 64) else regRun s1 0 0 0
       r.count = 64 ∧ r.srcPart = partId sDma ∧ dmaCheck sDma 0 r = none)) ∧
    (let a := fld (rd sDma .dmaDesc 0 0) 49 0
     a % 64 = 0 ∧ regionOf (unalias sDma a) = .loft ∧ accessNew sDma 0 0 a 64 false = .ok ∧ cohDead sDma (unalias sDma a) 64 = false ∧ poisonIn sDma a 64 = none ∧
       descOk (memBytes sDma a 64) = true) := by
  refine ⟨⟨_, _, held_store sM (cmd0 0x0601 (natLE 8 0x8000 ++ natLE 8 0xA000 ++ natLE 8 64 ++ natLE 3 0xFFFFF ++ natLE 3 0xFFFFF)) [] _ rfl rfl rfl,
    by decide +kernel⟩, ?_, by decide +kernel⟩
  intro d h
  refine ⟨rfl, ?_⟩
  revert d; decide +kernel

theorem witness_TransfersEnd :
    (∃ s r, Running s ∧ dmaOf s 0 0 = some r ∧ r.issued = false ∧ r.fail = none ∧ r.count ≠ 0 ∧ r.ref = none ∧ r.srcHost = false ∧ r.dstHost = false ∧
      r.srcPart = partId s ∧ r.dstPart = partId s ∧ (r.chain = false ∨ r.last = true) ∧ (∀ o ∈ s.sys.fab.outst, o.why ≠ .dmaRead 0 0) ∧ flashMay s 0 r.cls (unalias s r.src) = true ∧
      (r.barrier = false ∨ dmaInFlight s 0 0 = false) ∧ cohDead s (unalias s r.src) r.count = false ∧
      cohDead s (unalias s r.dst) r.count = false ∧ cohHeld s (unalias s r.src) r.count false = [] ∧
      cohHeld s (unalias s r.dst) r.count true = [] ∧ poisonIn s r.src r.count = none) ∧
    (let s := sRun (run9 false)
     let v : Word := 1 <<< 62
     Running s ∧ ctlWriteOk s w0 0 R.dmaCtl.desc.page 0 = true ∧ bit (rd s .dmaStatus 0 0) 60 = true ∧ bit v 62 = true ∧
      dmaOf s 0 0 = some (run9 false) ∧ (run9 false).fail = none ∧ dmaBusy s 0 0 = false) ∧
    (let r := { run9 true with fail := some ⟨stContextReset, 0, 0, 0⟩ }
     dmaOf (sRun r) 0 0 = some r ∧ dmaBusy (sRun r) 0 0 = false ∧ r.ref = none) ∧
    (Running (sRun (run9 true)) ∧ dmaOf (sRun (run9 true)) 0 0 = some (run9 true) ∧ (run9 true).fail = none ∧
      (run9 true).srcHost = true) :=
  ⟨⟨sRun (run9 false), run9 false, rfl, by decide +kernel⟩, ⟨rfl, by decide +kernel⟩, by decide +kernel, rfl, by decide +kernel⟩

/-! #### Stacks and flash -/

/-- Stack 0 in a state, its data changed, its control register at a value. -/
def sStk (s : State) (st : Nat) (ctl : Word) (f : StackSt → StackSt) : State :=
  reg0 (reg0 (sys0 s fun y => { y with stks := updAt y.stks 0 f }) .stkStatus 0 (.ofNat 64 (st * 2 ^ 52))) .stkCtl 0 ctl

theorem witness_StackEnginesChangeTheirLines :
    (Running sM ∧ inStack 0 0x8000 64 = true ∧ cohDead sM 0x8000 64 = false ∧ cohHeld sM 0x8000 64 false = [] ∧ cohHeld sM 0xA000 64 true = [] ∧
      access sM w0.partition (issuerT sM w0) 0x8000 64 false = .ok ∧ poisonIn sM 0x8000 64 = none ∧
      cohDead sM (unalias sM 0xA000) 64 = false ∧ access sM w0.partition (issuerT sM w0) 0xA000 64 true = .ok) ∧
    (Running sM ∧ inStack 0 0x8000 4 = true ∧ cohDead sM 0x8000 4 = false ∧ cohHeld sM 0x8000 4 true = [] ∧
      access sM w0.partition (issuerT sM w0) 0x8000 4 true = .ok ∧ poisonIn sM 0x8000 4 = none) ∧
    (∃ s, Running s ∧ inStack 0 0x8000 [(1 : Byte), 2].length = true ∧ cohHeld s 0x8000 2 true = [] ∧ cohDead s 0x8000 2 = false ∧
      access s w0.partition (issuerT s w0) 0x8000 2 true = .ok ∧ 0x8040 ∈ s.sys.poison) ∧
    (Running sM ∧ inStack 0 0x8000 128 = true ∧ cohDead sM 0x8000 128 = false ∧ cohDead sM 0x8040 128 = false ∧
      cohHeld sM 0x8000 128 false = [] ∧ cohHeld sM 0x8040 128 true = [] ∧ regionOf 0x8040 = .loft ∧ stkP (stackOf 0x8040) = stkP 0 ∧
      access sM w0.partition (issuerT sM w0) 0x8000 128 false = .ok ∧ access sM w0.partition (issuerT sM w0) 0x8040 128 true = .ok ∧
      poisonIn sM 0x8000 128 = none) ∧
    (Running sM ∧ inStack 0 0x8000 (1024 * 2) = true ∧ 0x8000 % 1024 = 0) :=
  ⟨⟨rfl, by decide +kernel⟩, ⟨rfl, by decide +kernel⟩, ⟨poison0 sM 0x8040, rfl, by decide +kernel⟩, ⟨rfl, by decide +kernel⟩, rfl, by decide +kernel⟩

theorem witness_StacksStartAndFill :
    (Running s0 ∧ stackState s0 0 = 0) ∧ (∃ r : StackResult, r.rate = none) ∧
    (∀ u ∈ [true, false], ∃ r : StackResult, r.rate = some 1 ∧ (∀ row ∈ r.failingRows, stkRows ≤ row) ∧ r.unspared = u) ∧
    (∃ s, Running s ∧ stackState s 0 = 4) ∧
    (∀ st ∈ [2, 3], ∀ v ∈ [62, 63], ∃ s, Running s ∧ stackState s 0 = st ∧ stkInUse s 0 = false ∧
      ctlWriteOk s w0 (stkP 0) R.stkCtl.desc.page (stkJ 0) = true ∧ bit (.ofNat 64 (2 ^ v)) v = true ∧ bit (.ofNat 64 (2 ^ v)) (125 - v) = false) ∧
    (∃ s, Running s ∧ (stk s 0).fill = some true) := by
  refine ⟨⟨rfl, by decide +kernel⟩, ⟨⟨none, [], false, 0⟩, rfl⟩, ?_, ⟨sStk s0 4 0 id, rfl, by decide +kernel⟩, ?_,
    ⟨sStk s0 1 0 fun x => { x with fill := some true }, rfl, by decide +kernel⟩⟩
  · intro u _
    exact ⟨⟨some 1, [], u, 40⟩, rfl, by simp, rfl⟩
  · intro st h v hv
    refine ⟨sStk s0 st 0 id, rfl, ?_⟩
    revert st v; decide +kernel

theorem witness_StacksAreKept :
    (∃ s, Running s ∧ stackState s 0 = 3 ∧ fld (lv s .stkCtl (stkP 0) (stkJ 0)) 31 16 ≠ 0) ∧
    (∃ s, Running s ∧ stackState s 0 ≠ 4 ∧ stackState s 0 ≠ 5) ∧
    ∀ n ∈ [31, 32], ∃ s, Running s ∧ stackState s 0 = 3 ∧ fld (lv s .stkCtl (stkP 0) (stkJ 0)) 39 32 ≠ 0 ∧
      fld (lv s .stkCtl (stkP 0) (stkJ 0)) 39 32 ≤ (aget (stk s 0).errs 7).getD 0 ∧ 7 ∉ (stk s 0).kept ∧ 7 ∉ (stk s 0).spared ∧
      (sparesUsed (stk s 0) (rowBank 7) < 32 ↔ n = 31) := by
  refine ⟨⟨sStk s0 3 0x10000 id, rfl, by decide +kernel⟩, ⟨s0, rfl, by decide +kernel⟩, ?_⟩
  intro n h
  refine ⟨sStk s0 3 0x800000000 fun x => { x with errs := [(7, 8)], spared := List.replicate n 4103 }, rfl, ?_⟩
  revert n; decide +kernel

/-- Channel 0 formatted, its data changed, its control register at a value. -/
def sFl (st : Nat) (f : Channel → Channel) : State :=
  reg0 (reg0 (sys0 sM fun y => { y with chans := updAt y.chans 0 f }) .flStatus 0 (.ofNat 64 (st * 2 ^ 56))) .flCtl 0 0x10000

/-- Unit 0 of channel 0 with page 0 on target 0. -/
def unit0 (slc : Nat) : FlashUnit := ⟨true, [(0, 0)], false, 0, slc⟩
def chan0 (slc : Nat) (x : Channel) : Channel := { x with native := 0x100000, units := [(0, unit0 slc)], log := { x.log with targets := 1 } }
def ing0 : Ingest := ⟨5, false, 0, 0x1000000000000, 16384, false, [], none⟩

theorem witness_FlashIsIngestedReleasedAndFormatted :
    (∃ s c, Held s 0 0x0B01 c ∧
      (let i : Ingest := { ref := c.ref, release := false, tenant := c.tenant, dst := ingDst c, bytes := ingBytes c, hot := nbit (par c 24 1) 0,
                           data := Mem.slice s.mem (unalias s (par c 0 8)) (ingBytes c), commit := none }
       i.bytes = 16384 ∧ rangeFail s 0 c.tenant false (par c 0 8, ingBytes c) = none ∧ cohHeld s (par c 0 8) (ingBytes c) false = [] ∧
         ingestBehind s 0 c = false ∧ ingestPool s 0 i = none ∧ ingestHeld s i = false)) ∧
    (∃ s c, Held s 0 0x0B02 c ∧
      (let i : Ingest := { ref := c.ref, release := true, tenant := c.tenant, dst := ingDst c, bytes := ingBytes c, hot := false, data := [],
                           commit := none }
       i.bytes = 16384 ∧ ingestBehind s 0 c = false ∧ ingestPool s 0 i = none)) ∧
    (∃ s c, Running s ∧ cmdOf s 0 c.ref = some c ∧ (psys s 0).ingests.find? (·.ref == c.ref) = some ing0 ∧ ing0.commit = none) ∧
    (∃ s c, Held s 0 0x0B03 c) ∧ (∃ s c, Held s 0 0x0B04 c) ∧
    (∃ s c, Held s 0 0x0B05 c ∧ fmtChans 0 c = [0] ∧ chanState s 0 ≠ 4) :=
  let s := sFl 2 fun x => { x with native := 0x100000 }
  ⟨⟨_, _, held_store s (cmd0 0x0B01 (natLE 8 0x8000 ++ natLE 8 0x1000000000000 ++ natLE 8 16384 ++ zeros 8)) [] _ rfl rfl rfl, by decide +kernel⟩,
    ⟨_, _, held_store s (cmd0 0x0B02 (natLE 8 0x1000000000000 ++ natLE 8 16384)) [] _ rfl rfl rfl, by decide +kernel⟩,
    ⟨part0 (store s [cmd0 0x0B01 []]) fun x => { x with ingests := [ing0] }, cmd0 0x0B01 [], rfl, by decide +kernel⟩,
    ⟨_, _, held_store s (cmd0 0x0B03 []) [] _ rfl rfl rfl⟩, ⟨_, _, held_store s (cmd0 0x0B04 []) [] _ rfl rfl rfl⟩,
    ⟨_, _, held_store s (cmd0 0x0B05 [1, 1]) [] _ rfl rfl rfl, by decide +kernel⟩⟩

/-- A shard in the Cellar from the start of the quarter, a walk that waits for the block of its node 1, and channel 0 with that read. -/
def rec9 : Bytes := ((rec7.set 4 1).set 25 0).set 30 1
def walk9 : Walk := { walk7 with rcd := rec9, flight := [flyC] }
def sRead (l : List Walk) : State := part0 (sFl 2 (chan0 4096)) fun x => { x with walks := l }

/-- Three targets that answer at a channel: two it keeps, at the highest rate both allow, and one without a profile. -/
def target0 : Target := ⟨true, 16384, 2048, 4, 4, true, 1024, 512, [3600, 2400, 1600], 3000⟩
def found0 : ChannelResult :=
  ⟨[(0, target0), (3, { target0 with rates := [2400, 1600] }), (5, { target0 with profile := false })], [3600, 3200, 2400], 9437184, 40, true⟩

theorem witness_FlashKeepsItself :
    (∃ s u, Running s ∧ aget (chan s 0).units 0 = some u ∧ gcHold s 0 = false ∧ chanState s 0 = 2 ∧ channelWork s 0 = false ∧ u.coarse = true ∧
      u.slc ≠ 0 ∧ ahas u.pages 0 = true) ∧
    (∃ s, channelWork s 0 = true) ∧
    (∀ q ∈ [(Agent.mill, 0x1000000000000), (Agent.drover, walk9.blockAt 1)], ∃ s u, Running s ∧ regionOf q.2 = .cellar ∧ channelOf s q.2 = 0 ∧
      chanUp s 0 = true ∧ aget (chan s 0).units (unitIdxOf s q.2) = some u ∧ ahas u.pages (q.2 % 0x400000 / 16384) = true ∧
      (readsFor s 0 q.1 q.2 ≠ [] ↔ q.1 = .drover) ∧
      (readsFor s 0 q.1 q.2 ≠ [] → ∃ x ∈ readsFor s 0 q.1 q.2, readTurn s (flP 0) x.1 x.2 = true)) ∧
    (∃ s, Running s ∧ (chan s 0).log.logFrame + 4194304 ≤ frameNow s ∧ (chan s 0).zq + 65536 ≤ frameNow s) ∧
    (∀ n ∈ [0, 1, 2], ∃ s, Running s ∧ chanState s 0 = n) ∧
    (keptTargets found0).length = 2 ∧ channelRate found0 = some (0, 2400) ∧
    (∃ s, Running s ∧ nbit (chan s 0).log.targets 0 = true ∧ ∃ u ∈ (chan s 0).units, ∃ g ∈ u.2.pages, g.2 = 0) := by
  refine ⟨⟨sFl 2 (chan0 4096), unit0 4096, rfl, by decide +kernel⟩, ⟨sRead [walk9], by decide +kernel⟩, ?_,
    ⟨reg0 (sFl 2 (chan0 0)) .frameCount 0 4194304, rfl, by decide +kernel⟩, ?_, by decide +kernel, by decide +kernel,
    ⟨sFl 2 (chan0 0), rfl, by decide +kernel, (0, unit0 0), by decide +kernel, (0, 0), by decide +kernel, rfl⟩⟩
  · intro q h
    refine ⟨sRead [walk9], unit0 4096, rfl, ?_⟩
    revert q; decide +kernel
  · intro n h
    refine ⟨sFl n id, rfl, ?_⟩
    revert n; decide +kernel

/-! #### The fabric and hosts -/

/-- A packet of class 1 from part 1 to a part. -/
def pk (dst hops : Nat) (body : Payload) : Packet := ⟨1, 0, 0, dst, 1, 0, 0, 3, hops, false, false, body⟩

/-- Part 0 of a group of 16: port 2 is its X+ neighbour's, part 1 is peer 0 and lists tenant 0; the port's link state is `st`, its link
layer `x`. -/
def sF (st : Nat) (x : Port) : State :=
  let fab (f : FabricSt) : FabricSt := { f with
    ports := updAt f.ports 2 (fun _ => x)
    peers0Live := [(0, 0x8000000000000001)]
    peers1Live := [(0, 0x1000000000000000)] }
  reg0 (reg0 (reg0 (sys0 sM fun y => { y with fab := fab y.fab }) .fabId 0 0x10000000) .portStatus 2 (.ofNat 64 (st * 2 ^ 56)))
    .portCfg 2 0x9000000000000000

/-- Packets delivered by port 2 and not yet taken. -/
def rx (s : State) (l : List Packet) : State := sys0 s fun y => { y with fab := { y.fab with rx := l.map fun p => (2, p) } }

def rd64 : Payload := .memRd false 0x8000 64

theorem witness_LinksTrainAndCarryFlits :
    (∀ n ∈ [0, 1], ∃ s, Running s ∧ bit (lv s .portCfg 0 2) 63 = true ∧ portLent s 2 = false ∧ fld (rd s .portStatus 0 2) 59 56 = n ∧
      bit (lv s .portCfg 0 2) 53 = false) ∧
    (∃ s, Running s ∧ fld (rd s .portStatus 0 2) 59 56 = 5 ∧ portLent s 2 = false) ∧
    (∀ b ∈ [true, false], ∃ s, Running s ∧ fld (rd s .portStatus 0 2) 59 56 = 5 ∧ portLent s 2 = false ∧
      ((portOf s 2).lastGood + 1) % 65536 = 4 ∧ (portOf s 2).awaitReplay = b) ∧
    (∀ q ∈ [(0, 5), (1, 5), (1, 127)], let s := sF 5 Port.reset
      bit (rd s .portStatus 0 2) 62 = false ∧ fld (lv s .portCfg 0 2) 62 60 ≠ 0 ∧ partId s ≠ 0xFFFFF ∧ (q.1 = partId s ↔ q.1 = 0) ∧
      (q.1 = 1 → (portFor s (pk q.1 q.2 rd64) true).isSome = true)) ∧
    (∀ n ∈ [0, 7], ∀ g ∈ [0, 9], ∃ s, Running s ∧ fld (rd s .portStatus 0 2) 59 56 = 5 ∧ portLent s 2 = false ∧
      (let x := portOf s 2
       (x.sent.reverse.dropWhile (fun f => f.1 != (g + 1) % 65536) = [] ↔ g = 9) ∧
         (g = 0 → (if x.replaySeq = g then x.replays + 1 else 1) = n + 1))) ∧
    (∀ b ∈ [true, false], ∃ s, Running s ∧ portUp s 2 = true ∧ (classFor s 2 = none ↔ b = false)) ∧
    (∃ s, Running s ∧ portUp s 2 = true ∧ classFor s 2 = some (1, [(1, 1)]) ∧ turnFor s 2 1 = some (false, 0) ∧ s.sys.fab.waiting = []) ∧
    (∃ s, Running s ∧ portUp s 2 = true ∧ (turnFor s 2 0).isSome = true) := by
  refine ⟨?_, ⟨sF 5 Port.reset, rfl, by decide +kernel⟩, ?_, by decide +kernel, ?_, ?_,
    ⟨sF 5 { Port.reset with tx := [(false, pk 1 1 rd64)] }, rfl, by decide +kernel⟩,
    ⟨sF 5 { Port.reset with tx := [(false, { pk 1 1 rd64 with cls := 0 })] }, rfl, by decide +kernel⟩⟩
  · intro n h
    refine ⟨sF n Port.reset, rfl, ?_⟩
    revert n; decide +kernel
  · intro b h
    refine ⟨sF 5 { Port.reset with lastGood := 3, awaitReplay := b }, rfl, ?_⟩
    revert b; decide +kernel
  · intro n hn g hg
    refine ⟨sF 5 { Port.reset with sent := [(1, [pk 1 1 rd64])], replays := n }, rfl, ?_⟩
    revert n g; decide +kernel
  · intro b h
    refine ⟨sF 5 { Port.reset with tx := if b then [(false, pk 1 1 rd64)] else [] }, rfl, ?_⟩
    revert b; decide +kernel

/-- A state with an awaited completion of each kind of request, tag 3. -/
def sOut (w : Why) (body : Payload) : State :=
  sys0 (sF 5 Port.reset) fun y => { y with fab := { y.fab with outst := [⟨3, w, 0, 1, pk 1 0 body, false⟩] } }

/-- Ring 4 for fabric commands: enabled, fed by the fabric, two slots; with n packets landed in it. -/
def sFabRing (n : Nat) : State :=
  part0 (reg0 (sF 5 Port.reset) .ringCfg 4 0x8800000000000001) fun x => { x with landed := List.replicate n ⟨0, 4, 0, 0, 0x8800000000000001, true, 1, 0, 0⟩ }

theorem witness_PacketsAreActedOn_requests :
    (∀ b ∈ [Payload.notice (zeros 64), .memRd false 0x8000 64, .memWr false 0x8000 [1, 2]], let s := rx (sF 5 Port.reset) [pk 0 1 b]
      (2, pk 0 1 b) ∈ s.sys.fab.rx) ∧
    (∀ b ∈ [Payload.memRd false 0x8000 64, .memWr false 0x8000 [1, 2]], let p := { pk 0 1 b with ten := 9 }
      let s := rx (sF 5 Port.reset) [p]
      Running s ∧ (2, p) ∈ s.sys.fab.rx ∧ ∀ i, peerOf s p.src = some i → peerLists s i p.ten = false) ∧
    (let p := pk 0 1 (.memRd false 0x8000 64)
     let s := rx (sF 5 Port.reset) [p]
     Running s ∧ (2, p) ∈ s.sys.fab.rx ∧ peerOf s p.src = some 0 ∧ peerLists s 0 p.ten = true ∧ regionOf 0x8000 ≠ .control ∧ p.hostSrc = false ∧
      meterFor s ((ownerOf s (unalias s 0x8000)).getD 0) p.ten p.cls.val = none ∧ peerAccess s p 0x8000 64 false = .ok ∧
      cohHeld s 0x8000 64 false = [] ∧ s.sys.coh.waits = [] ∧ poisonIn s 0x8000 64 = none) ∧
    (let p := pk 0 1 (.memWr false 0x8000 [1, 2])
     let s := rx (sF 5 Port.reset) [p]
     Running s ∧ (2, p) ∈ s.sys.fab.rx ∧ peerOf s p.src = some 0 ∧ peerLists s 0 p.ten = true ∧ regionOf 0x8000 ≠ .control ∧
      fanAt 0x8000 = none ∧ p.hostSrc = false ∧ meterFor s ((ownerOf s (unalias s 0x8000)).getD 0) p.ten p.cls.val = none ∧
      peerAccess s p 0x8000 2 true = .ok ∧ cohHeld s 0x8000 2 true = [] ∧ s.sys.coh.waits = []) := by
  refine ⟨by decide +kernel, ?_, ⟨rfl, by decide +kernel⟩, rfl, by decide +kernel⟩
  intro b h
  have h2 : b = .memRd false 0x8000 64 ∨ b = .memWr false 0x8000 [1, 2] := by simpa using h
  obtain rfl | rfl := h2
  all_goals
    refine ⟨rfl, by decide +kernel, ?_⟩
    intro i hi
    have : i = 0 := (Option.some.inj (hi.symm.trans (by decide +kernel : _ = some 0)))
    subst this; decide +kernel

theorem witness_PacketsAreActedOn_others :
    (∀ w ∈ [Why.reply 0 1 5, .credit 0 1, .dmaWrite 0 0 1, .dmaRead 0 0, .hostWindow 0],
      ∀ st ∈ [stOk, stRetry, stNotBound], let p := pk 0 1 (.compl st 0 [])
      let s := rx (sOut w rd64) [p]
      (2, p) ∈ s.sys.fab.rx ∧ ∃ o, s.sys.fab.outst.find? (fun o => o.tag == p.tag && o.dst == p.src) = some o ∧ o.why = w ∧
        o.pkt.body = .memRd false 0x8000 64) ∧
    (∀ n ∈ [1, 2], let p := pk 0 1 (.cmd (zeros 64))
      let s := rx (sFabRing n) [p]
      (2, p) ∈ s.sys.fab.rx ∧ peerOf s p.src = some 0 ∧ fabricRing s p.dstPartition = some 4 ∧
        ((psys s 0).landed.countP (·.ring == 4) < (ringSlots (rd s .ringCfg 0 4)).2 ↔ n = 1)) ∧
    (∀ g ∈ [true, false], ∀ h ∈ [true, false], let p := pk 0 1 (.credit 1 true g 0 5)
      let s := sys0 (rx (sF 5 Port.reset) [p]) fun y => { y with fab := { y.fab with held := if h then [pk 1 0 rd64] else [] } }
      (2, p) ∈ s.sys.fab.rx ∧ peerOf s p.src = some 0 ∧ s.sys.fab.held.any (heldFor p.src true 1 0) = h) ∧
    (∃ pkt : Packet, let s := sF 5 Port.reset
      let q := { mkPacket s pkt.cls.val pkt.src pkt.ten 0 (.compl stOk 0 []) with tag := pkt.tag, poison := false }
      partId s ≠ 0xFFFFF ∧ portFor s q false = some 2 ∧ nextBundle s pkt.src = some (1, 0)) ∧
    (∃ s, bit (lv s .crierCfg 0) 5 = false ∧ regionOf (unalias s (fld (lv s .crierRing 0) 49 0 + leAt (zeros 64) 0 8 % 2 ^ (fld (lv s .crierCfg 0) 4 0) * 64)) = .loft ∧
      rangeBound s 0 (unalias s (fld (lv s .crierRing 0) 49 0 + leAt (zeros 64) 0 8 % 2 ^ (fld (lv s .crierCfg 0) 4 0) * 64)) 64 = true) ∧
    (∀ n ∈ [63, 64], ∃ s c, Running s ∧ s.sys.fab.credits.find? (fun c => creditIs c 0 true 1 0) = some c ∧ c.count ≠ 0 ∧
      (c.used + 64 ≤ frameNow s ↔ n = 64)) := by
  refine ⟨by decide +kernel, by decide +kernel, by decide +kernel, ⟨pk 0 1 rd64, by decide +kernel⟩, ⟨reg0 sM .crierRing 0 0x8000, by decide +kernel⟩, ?_⟩
  intro n h
  refine ⟨reg0 (sys0 (sF 5 Port.reset) fun y => { y with fab := { y.fab with credits := [⟨0, true, 1, 0, 5, 0⟩] } }) .frameCount 0 (.ofNat 64 n),
    ⟨0, true, 1, 0, 5, 0⟩, rfl, ?_⟩
  revert n; decide +kernel

/-- The host port of part 0 up, with two logical devices, LD 0 active and bound or not. -/
def sHost (s : State) (req : Word) (bound : Bool) : State :=
  let u : Nat × BUnit := (11534336, ⟨if bound then .bound else .unbound, 0, 0, 0⟩)
  let s := sys0 s fun y => { y with bind := { y.bind with units := u :: y.bind.units } }
  reg0 (reg0 (reg0 s .hostCfg 0 0x8000000200000000) .hostStatus 0 0x2000000000000001) .secCtl 0 req

/-- Domain 1 of tenant 0: agents LD 0 of part 0, part 1, LD 0 of part 1, one dropped. -/
def dom1 : Domain := ⟨1, 0, [some 0x1000000, some 1, some 0x1000001, none], none, false, 0, 0xFF, false, 0, [], none, 0, 0, 0⟩
/-- Region 2 of 64 KiB, and its extent 3 held by agent 0. -/
def region2 : Region' := ⟨2, 0, 1, 0, 0x10000, 0x10000, false, none, none, false⟩
def ext3 (st : ExtState) : Ext := ⟨3, 2, 0, true, 0, 0x10000, 0, st, false, none, 1, 0x10000⟩
def coh0 (s : State) (f : CohSt → CohSt) : State :=
  sys0 s fun y => { y with coh := f { y.coh with doms := [dom1], regions := [region2], exts := [ext3 .active] } }
def sCoh (f : CohSt → CohSt) : State := coh0 (sF 5 Port.reset) f

theorem witness_HostsAreServed :
    (∀ b ∈ [true, false], ∀ req ∈ [0, 1], let s := sHost (sF 5 Port.reset) (.ofNat 64 req) b
      bit (rd s .hostCfg 0) 63 = true ∧ fld (rd s .hostStatus 0) 63 60 = 2 ∧ bit (rd s .hostStatus 0) 0 = true ∧
      (bit (lv s .secCtl 0) 0 = true ↔ req = 1) ∧ ((unit s 11 0).state ≠ .bound ↔ b = false) ∧ 0 = partId s % 16 ∧ 1 ≠ partId s % 16) ∧
    (∀ h ∈ [1, 2], let s := reg0 (sHost (sF 5 Port.reset) 0 true) .hostStatus 0 (.ofNat 64 (h * 2 ^ 60))
      bit (rd s .hostCfg 0) 63 = true ∧ (fld (rd s .hostStatus 0) 63 60 ≠ 2 ↔ h = 1) ∧ 1 < fld (rd s .hostCfg 0) 36 32 ∧
      fld (rd s .hostCfg 0) 36 32 ≤ 2) ∧
    (let s := sHost (sF 5 Port.reset) 0 true
     ownLine s 0 0x40 = none ∧ farLine s 0 0x40 = none) ∧
    (let s := sHost (sCoh id) 0 true
     ownLine s 0 0x40 = some ⟨0, dom1, 0, 0x10040⟩) ∧
    (∃ x, let s := sHost (sCoh fun c => { c with exts := [], hostExts := [(1, 3, 0)] }) 0 true
      ownLine s 0 0x40 = none ∧ farLine s 0 0x40 = some x ∧ x.home ≠ partId s) :=
  ⟨by decide +kernel, by decide +kernel, by decide +kernel, by decide +kernel,
    ⟨⟨1, dom1, 0, Config.extLine 1 3 0x40 / 64 * 64⟩, by decide +kernel, rfl, by decide +kernel⟩⟩

/-- A coherence packet from part 1 that agent `a` is named in. -/
def cohPk (msg : CohMsg) (a : Nat) (b : Bytes) : Packet := pk 0 1 (.coh msg .any a 0x10000 b)

theorem witness_LinesAreKeptCoherent :
    (∀ m ∈ [CohMsg.hRd, .hWr, .hCln, .biRsp], let s := rx (sCoh id) [cohPk m 2 []]
      (2, cohPk m 2 []) ∈ s.sys.fab.rx ∧ regionAt s 0x10000 = some region2 ∧ domOf s 1 = some dom1 ∧
        agentOf dom1 2 = some 0x1000001 ∧ agHost 0x1000001 = true ∧ agPart 0x1000001 = (cohPk m 2 []).src) ∧
    (let s := rx (sCoh id) [cohPk .hRd 3 []]
     (2, cohPk .hRd 3 []) ∈ s.sys.fab.rx ∧ regionAt s 0x10000 = some region2 ∧ domOf s 1 = some dom1 ∧ dom1.failed = false ∧
      agentOf dom1 3 = none) ∧
    (∀ m ∈ [CohMsg.hData, .hCmp, .biSnp], let s := rx (sCoh id) [cohPk m 0 []]
      (2, cohPk m 0 []) ∈ s.sys.fab.rx ∧ (s.sys.coh.doms.find? fun d => d.tenant == (cohPk m 0 []).ten &&
        (agentIdx d (cohPk m 0 []).src).isSome && (match agentOf d 0 with | some w => agHost w && agPart w == partId s | none => false)) = some dom1 ∧
      agentOf dom1 0 = some 0x1000000) ∧
    (∀ q ∈ [1, 9], let p := { cohPk .fail 0 [1, 0, 2] with src := q }
      let s := rx (sCoh id) [p]
      (2, p) ∈ s.sys.fab.rx ∧ domOf s (byteAt [1, 0, 2] 0) = some dom1 ∧ dom1.failed = false ∧
        ((dom1.agents.any fun w => w.map agPart == some p.src) = true ↔ q = 1)) ∧
    (let s := sCoh id
     regionAt s 0x10000 = some region2 ∧ region2.dom = dom1.id ∧ domOf s 1 = some dom1 ∧ s.sys.coh.txns = [] ∧ lineSt s 0x10000 = none ∧
      dirUsed s (lineP 0x10000) < 4194304 ∧ extAccess s region2 dom1 0 0x10000 64 false = .ok ∧ agentOf dom1 0 = some 0x1000000 ∧
      agPart 0x1000000 = partId s) ∧
    (let s := sCoh fun c => { c with dir := [(0x10000, ⟨.owned 0, 0⟩)] }
     regionAt s 0x10000 = some region2 ∧ domOf s 1 = some dom1 ∧ s.sys.coh.txns = [] ∧ lineSt s 0x10000 = some (.owned 0) ∧
      extAccess s region2 dom1 0 0x10000 64 true = .ok ∧ 0 ∈ holdersOf (lineSt s 0x10000)) ∧
    (∀ n ∈ [15, 16], let x : Snoop := ⟨0, true, some 0⟩
      let s := reg0 (reg0 (sCoh fun c => { c with txns := [⟨0x10000, .recall true false, true, [x], none⟩] }) .cohCtl 0 16) .frameCount 0 (.ofNat 64 n)
      ((s.sys.coh.txns.find? fun t => t.line == 0x10000 && t.begun).bind fun t => t.snoops.find? fun n => n.agent == 0) = some x ∧
        regionAt s 0x10000 = some region2 ∧ domOf s 1 = some dom1 ∧ dom1.failed = false ∧
        (frameNow s < 0 + fld (lv s .cohCtl (lineP 0x10000)) 7 0 ↔ n = 15)) := by
  refine ⟨by decide +kernel, by decide +kernel, by decide +kernel, by decide +kernel, by decide +kernel, by decide +kernel, by decide +kernel⟩

theorem witness_DomainsAndRegionsAreKept :
    (∃ s c, Held s 0 0x0801 c) ∧ (∃ s c, Held s 0 0x0802 c ∧ domOf s (par c 0 1) = some dom1 ∧ dom1.failed = false) ∧
    (∃ s c, Held s 0 0x0803 c ∧ domOf s (par c 0 1) = some dom1 ∧ (∀ w ∈ (psys s 0).walks, w.ref ≠ c.ref) ∧
      (armEntries c).filterMap (fun e => (regOf s e.1).map (·, e.2 == 1)) = [(region2, true)]) ∧
    (∃ s d, Running s ∧ domOf s 1 = some d ∧ d.arming = some (0, 5)) ∧
    (∀ b ∈ [true, false], ∃ s c d, Held s 0 0x0804 c ∧ domOf s (par c 0 1) = some d ∧ d.failed = b) ∧
    (∃ s c, Held s 0 0x0805 c ∧ regTaken s 7 = false) ∧
    (∃ s c, Held s 0 0x0806 c ∧ regOf s (par c 0 2) = some region2 ∧ (∀ w ∈ (psys s 0).walks, w.ref ≠ c.ref)) ∧
    (∀ b ∈ [true, false], ∃ s r, r.opening = none ∧ r.freeing.isSome = true ∧ regOf s r.id = some r ∧ regionUsed s r = b) := by
  let arm : Domain := { dom1 with arming := some (0, 5), keep := 7 }
  let r : Region' := { region2 with freeing := some 6 }
  refine ⟨⟨_, _, held_store (sCoh id) (cmd0 0x0801 []) [] _ rfl rfl rfl⟩,
    ⟨_, _, held_store (sCoh id) (cmd0 0x0802 [1]) [] _ rfl rfl rfl, by decide +kernel⟩,
    ⟨_, _, held_store (sCoh id) (cmd0 0x0803 ([1, 0] ++ natLE 2 1 ++ zeros 4 ++ natLE 8 7 ++ natLE 2 2 ++ [1] ++ zeros 5)) [] _ rfl rfl rfl,
      by decide +kernel⟩,
    ⟨sCoh fun c => { c with doms := [arm] }, arm, rfl, by decide +kernel⟩, ?_,
    ⟨_, _, held_store (sCoh id) (cmd0 0x0805 []) [] _ rfl rfl rfl, by decide +kernel⟩,
    ⟨_, _, held_store (sCoh id) (cmd0 0x0806 (natLE 2 2)) [] _ rfl rfl rfl, by decide +kernel⟩, ?_⟩
  · intro b h
    refine ⟨_, _, { dom1 with failed := b }, held_store (sCoh fun c => { c with doms := [{ dom1 with failed := b }] }) (cmd0 0x0804 [1]) [] _ rfl rfl rfl, ?_⟩
    revert b; decide +kernel
  · intro b h
    refine ⟨sCoh fun c => { c with regions := [r], txns := if b then [⟨0x10000, .recall true false, true, [], none⟩] else [] }, r, ?_⟩
    revert b; decide +kernel

theorem witness_ExtentsComeAndGo :
    (∃ s c, Held s 0 0x0807 c ∧ (∀ w ∈ (psys s 0).walks, w.ref ≠ c.ref) ∧ extOf s 7 = none) ∧
    (∀ f ∈ [0, 1], ∀ st ∈ [ExtState.offered, .active], ∃ s c e, Held s 0 0x0808 c ∧ extNow s (par c 0 2) = some e ∧ e.st = st ∧
      (nbit (par c 2 1) 0 = true ↔ f = 1) ∧ (∀ w ∈ (psys s 0).walks, w.ref ≠ c.ref)) ∧
    (∀ st ∈ [ExtState.offered, .releasing], ∃ s e, Running s ∧ extNow s 3 = some e ∧ extFacts s e = some (region2, dom1, 0x1000000) ∧
      agHost 0x1000000 = true ∧ agLd 0x1000000 = 0 ∧ e.st = st) ∧
    (∃ s e, Running s ∧ extNow s 3 = some e ∧ extFacts s e = some (region2, dom1, 0x1000000) ∧ e.st = .releasing ∧ e.released = true ∧
      s.sys.coh.txns = [] ∧ s.sys.coh.waits = [] ∧ (∀ x ∈ s.sys.coh.dir, extHolds region2 e x.1 = true → e.holder ∉ holdersOf (some x.2.st))) ∧
    (∀ n ∈ [63, 64], ∃ s e, Running s ∧ extOf s 3 = some e ∧ e.st = .revoked 0 ∧ (0 + 64 ≤ frameNow s ↔ n = 64)) ∧
    (∀ i ∈ [3, 4], ∃ s c, Held s 0 0x0809 c ∧ (extNow s (par c 0 2) = none ↔ i = 4)) := by
  refine ⟨⟨_, _, held_store (sCoh id) (cmd0 0x0807 []) [] _ rfl rfl rfl, by decide +kernel⟩, ?_, ?_,
    ⟨sCoh fun c => { c with exts := [{ ext3 .releasing with released := true }] }, { ext3 .releasing with released := true }, rfl, by decide +kernel⟩,
    ?_, ?_⟩
  · intro f hf st h
    refine ⟨_, _, ext3 st, held_store (sCoh fun c => { c with exts := [ext3 st] }) (cmd0 0x0808 (natLE 2 3 ++ natLE 1 f)) [] _ rfl rfl rfl, ?_⟩
    have h2 : st = .offered ∨ st = .active := by simpa using h
    obtain rfl | rfl := h2
    all_goals (clear h; revert f; decide +kernel)
  · intro st h
    have h2 : st = .offered ∨ st = .releasing := by simpa using h
    obtain rfl | rfl := h2
    · exact ⟨sCoh fun c => { c with exts := [ext3 .offered] }, ext3 .offered, rfl, by decide +kernel⟩
    · exact ⟨sCoh fun c => { c with exts := [ext3 .releasing] }, ext3 .releasing, rfl, by decide +kernel⟩
  · intro n h
    refine ⟨reg0 (sCoh fun c => { c with exts := [ext3 (.revoked 0)] }) .frameCount 0 (.ofNat 64 n), ext3 (.revoked 0), rfl, ?_⟩
    revert n; decide +kernel
  · intro i h
    refine ⟨_, _, held_store (sCoh id) (cmd0 0x0809 (natLE 2 i)) [] _ rfl rfl rfl, ?_⟩
    revert i; decide +kernel

/-- A re-binding of Mill 0 whose drain ends in frame 10, and the Mill in a state. -/
def rebind0 : Rebind := ⟨0, 5, false, 3, [(1, 0, 0)], 0, 10, false, 0⟩
def sBind (st : UnitState) (frame : Nat) : State :=
  reg0 (sys0 s0 fun y => { y with bind := { y.bind with units := [(1048576, ⟨st, 0, 0, 0⟩)], rebinds := [rebind0] } }) .frameCount 0 (.ofNat 64 frame)

theorem witness_UnitsAreBound :
    (∃ s c, Held s 0 0x0A01 c ∧ rebindOf s 0 c.ref = none ∧ bindUnits c = [(1, 0, 0)] ∧ (1, 0) ∉ s.fuse.disabled) ∧
    (∀ n ∈ [9, 10], Running (sBind .draining n) ∧ rebindOf (sBind .draining n) 0 rebind0.ref = some rebind0 ∧
      (rebind0.drained = false ∧ rebind0.drainEnd ≤ frameNow (sBind .draining n) ↔ n = 10)) ∧
    (∀ b ∈ [true, false], let s := sBind (if b then .draining else .bound) 0
      Running s ∧ ((unit s 1 0).state = .draining ∧ unitIdle s 1 0 = true ↔ b = true)) ∧
    (∀ b ∈ [true, false], let s := sBind (if b then .scrubbing else .draining) 0
      Running s ∧ rebindOf s 0 rebind0.ref = some rebind0 ∧ (allScrubbed s rebind0 = true ↔ b = true)) ∧
    (∃ s c, Held s 0 0x0A02 c) ∧ ∃ s c, Held s 0 0x0A03 c := by
  refine ⟨⟨_, _, held_store s0 (cmd0 0x0A01 (natLE 2 3 ++ natLE 2 1 ++ zeros 4 ++ natLE 8 0x0400000000000001)) [] _ rfl rfl rfl,
    by decide +kernel⟩, ?_, ?_, ?_, ⟨_, _, held_store s0 (cmd0 0x0A02 []) [] _ rfl rfl rfl⟩, ⟨_, _, held_store s0 (cmd0 0x0A03 []) [] _ rfl rfl rfl⟩⟩
  · intro n h
    refine ⟨rfl, ?_⟩
    revert n; decide +kernel
  · intro b h
    refine ⟨rfl, ?_⟩
    revert b; decide +kernel
  · intro b h
    refine ⟨rfl, ?_⟩
    revert b; decide +kernel

/-- A map packet of part 1's change 4, which this part holds or keeps. -/
def mapPk (m : MapMsg) (e : Nat) : Packet := pk 0 1 (.map m 4 e [])
def held4 : HeldMap := ⟨1, 4, [], 0, none, false, false⟩
def sMap (h : List HeldMap) (k : List Keeping) (frame : Nat) (l : List Packet) : State :=
  reg0 (rx (sys0 (sF 5 Port.reset) fun y => { y with bind := { y.bind with heldMaps := h, keeping := k } }) l) .frameCount 0 (.ofNat 64 frame)

theorem witness_MapChangesAreAgreed :
    (∀ m ∈ [MapMsg.prep, .ack, .commit, .defer, .abort], ∀ e ∈ [5, 6], let s := sMap [held4] [⟨4, [], [1], [], 0, 0, 0, false, none⟩] 5 [mapPk m e]
      (2, mapPk m e) ∈ s.sys.fab.rx ∧ heldOf s (mapPk m e).src 4 = some held4 ∧ (e ≤ frameNow s ↔ e = 5)) ∧
    (∀ a ∈ [1, 0], ∃ s c, Held s 0 0x0A04 c ∧ heldOf s (par c 0 3) (par c 4 4) = some held4 ∧ (par c 8 1 = 1 ↔ a = 1)) ∧
    (∀ n ∈ [63, 64], let s := sMap [held4] [] n []
      Running s ∧ heldOf s 1 4 = some held4 ∧ (held4.committed = false ∧ held4.epoch.getD held4.arrived + 64 ≤ frameNow s ↔ n = 64)) ∧
    (∀ a ∈ [[1], []], ∀ d ∈ [7, 8], let k : Keeping := ⟨4, [], [1], a, 0, 0, d, false, none⟩
      k.driven = false ∧ k.epoch = 0 ∧ (k.audience.all (k.acks.contains ·) = true ↔ a = [1]) ∧ (k.defers < 8 ↔ d = 7)) := by
  refine ⟨?_, ?_, ?_, by decide +kernel⟩
  · intro m hm e he
    have h2 : m = .prep ∨ m = .ack ∨ m = .commit ∨ m = .defer ∨ m = .abort := by simpa using hm
    clear hm
    obtain rfl | rfl | rfl | rfl | rfl := h2
    all_goals (revert e; decide +kernel)
  · intro a h
    refine ⟨_, _, held_store (sMap [held4] [] 5 []) (cmd0 0x0A04 (natLE 3 1 ++ zeros 1 ++ natLE 4 4 ++ natLE 1 a)) [] _ rfl rfl rfl, ?_⟩
    revert a; decide +kernel
  · intro n h
    refine ⟨rfl, ?_⟩
    revert n; decide +kernel

/-! #### Faults, resets, security, power, sideband, Utertil -/

theorem witness_FaultsAreRecordedAndReset :
    (∀ n ∈ [1, 2, 3, 4, 5, 6], ∃ s c, Held s 0 0x0902 c ∧ par c 0 1 = n ∧ engineOf (par c 2 1) = some .mill) ∧
    (∀ q ∈ [(EngineKind.mill, 0), (.stewardCore, 0)], engineExists q.1 q.2 = true) ∧
    (∀ q ∈ [(true, (0 : Fin 8)), (true, 1), (false, 0)], (q.1 && q.2 == 0) = true ↔ q = (true, 0)) ∧ Running s0 := by
  refine ⟨?_, by decide +kernel, by decide +kernel, rfl⟩
  intro n h
  refine ⟨_, _, held_store s0 (cmd0 0x0902 [.ofNat 8 n, 0, 1]) [] _ rfl rfl rfl, ?_⟩
  revert n; decide +kernel

/-- A dump of a partition being mirrored. -/
def sDump (d : Dump) : State := part0 s0 fun x => { x with faults := { x.faults with dump := some d, mirroring := true } }

theorem witness_FaultRecordsAndDumpsAreRead :
    (∃ s c, Held s 0 0x0901 c) ∧ (∀ d, Running (sDump d) ∧ (psys (sDump d) 0).faults.mirroring = true ∧
      (psys (sDump d) 0).faults.dump = some d) ∧ (∃ s c, Held s 0 0x0903 c) ∧ ∃ s c, Held s 0 0x0904 c :=
  ⟨⟨_, _, held_store s0 (cmd0 0x0901 []) [] _ rfl rfl rfl⟩, fun _ => ⟨rfl, rfl, rfl⟩, ⟨_, _, held_store s0 (cmd0 0x0903 []) [] _ rfl rfl rfl⟩,
    ⟨_, _, held_store s0 (cmd0 0x0904 []) [] _ rfl rfl rfl⟩⟩

theorem witness_PartResetsKeepWhatTheyMust :
    s0.sys.coh.doms = [] ∧ (∀ b ∈ [true, false], ∃ s, Running s ∧ s.sys.sec.cold = b ∧ s.sys.sec.ready = false) ∧
    (∃ s c, Held s 0 0x0905 c) ∧ ∃ r : SelfTestResult, r.failed = [(1, 0)] ∧ unitExists 1 0 = true := by
  refine ⟨by decide +kernel, ?_, ⟨_, _, held_store s0 (cmd0 0x0905 []) [] _ rfl rfl rfl⟩, ⟨⟨[(1, 0)], 0, 0, false⟩, rfl, by decide +kernel⟩⟩
  intro b h
  refine ⟨sys0 s0 fun y => { y with sec := { y.sec with cold := b } }, rfl, ?_⟩
  revert b; decide +kernel

/-- The security block changed, its status register at a value. -/
def sSec (st : Word) (f : SecSt → SecSt) : State := reg0 (sys0 sM fun y => { y with sec := f y.sec }) .secStatus 0 st

/-- Every stack FAILED and every channel READY. -/
def sUp (s : State) : State :=
  let stks := (List.range 24).foldl (fun g k => RegFile.put g .stkStatus (toP (k / 6)) (k % 6) 0x50000000000000) s.regs
  { s with regs := (List.range 32).foldl (fun g k => RegFile.put g .flStatus (toP (k / 8)) (k % 8) 0x200000000000000) stks }

theorem witness_ImagesAreVerifiedAndBooted :
    (∀ n ∈ [0, 1], ∃ s, Running s ∧ bootStage s = n ∧ s.sys.sec.booted = [] ∧ imageOk s.fuse s.sys.sec s.sys.sec.slot 2 = false) ∧
    (∃ s, Running s ∧ bootStage s = 1 ∧ s.sys.sec.booted ≠ []) ∧
    (∃ s, Running s ∧ bootStage s = 2 ∧ s.sys.sec.ready = false ∧ startedUp s = true) ∧
    (∀ v ∈ [62, 63], ∀ b ∈ [60, 61], ∃ s, Running s ∧ issuerTenant s w0 = some 0 ∧ bit (.ofNat 64 (2 ^ v)) v = true ∧
      bit (.ofNat 64 (2 ^ v)) (125 - v) = false ∧ (bit (rd s .secStatus 0) 60 = true ↔ b = 60) ∧ (bit (rd s .secStatus 0) 61 = true ↔ b = 61)) ∧
    (∃ s, Running s ∧ s.sys.sec.staging = some (0x8000, 4096)) ∧
    (∀ x ∈ [IdeState.secure, .insecure], ∃ s, Running s ∧ (ideOf s 1).state = x) := by
  refine ⟨?_, ⟨sSec 0x100000000000000 fun x => { x with booted := [⟨1, false, 1⟩] }, rfl, by decide +kernel⟩,
    ⟨sUp (sSec 0x200000000000000 id), rfl, by decide +kernel⟩, ?_, ⟨sSec 0 fun x => { x with staging := some (0x8000, 4096) }, rfl, by decide +kernel⟩, ?_⟩
  · intro n h
    refine ⟨sSec (.ofNat 64 (n * 2 ^ 56)) id, rfl, ?_⟩
    revert n; decide +kernel
  · intro v hv b hb
    refine ⟨sSec (.ofNat 64 (2 ^ b)) id, rfl, ?_⟩
    revert v b; decide +kernel
  · intro x h
    have h2 : x = .secure ∨ x = .insecure := by simpa using h
    obtain rfl | rfl := h2
    · exact ⟨sSec 0 fun y => { y with ide := updAt y.ide 1 fun _ => ⟨.secure, []⟩ }, rfl, by decide +kernel⟩
    · exact ⟨sSec 0 fun y => { y with ide := updAt y.ide 1 fun _ => ⟨.insecure, []⟩ }, rfl, by decide +kernel⟩

/-- A connection over DOE, with a session. -/
def sSpdm (c : SpdmConn) (f : SecSt → SecSt) : State :=
  sHost (sSec 0 fun x => f { x with connDoe := c, sessions := [⟨.doe, 4, true, 0⟩], ide := updAt x.ide 2 fun _ => ⟨.keyed, []⟩ }) 0 true

theorem witness_SpdmRequestsAreAnswered :
    (∀ c ∈ [SpdmConn.none, .version, .capabilities, .ready], transportUp (sSpdm c id) .doe = true ∧ connOf (sSpdm c id) .doe = c) ∧
    (transportUp s0 .sideband = true ∧ connOf s0 .sideband = .none) ∧
    (let s := sSpdm .ready id
     (∀ msg, ((measBlocks s (Config.spdmMeasIndex msg)).flatMap (·.2)).length ≤ 4096) ∧
      s.sys.sec.sessions.countP (·.t == .doe) < sessionLimit .doe ∧
      (∀ o ∈ [true, false], let s := sSpdm .ready fun x => { x with sessions := [⟨.doe, 4, o, 0⟩] }
        sessionOf s .doe 4 = some ⟨.doe, 4, o, 0⟩) ∧
      (List.replicate 32 (0 : Byte)).length = 32 ∧ (ideOf s 2).state = .keyed) ∧
    (let s := sSpdm .ready fun x => { x with large := [⟨.doe, 0, 0, [1]⟩], chunks := [⟨.doe, 3, 1, [1]⟩] }
     (s.sys.sec.large.find? fun c => c.t == .doe && c.handle == 0) = some ⟨.doe, 0, 0, [1]⟩ ∧
      (s.sys.sec.chunks.find? fun c => c.t == .doe) = some ⟨.doe, 3, 1, [1]⟩) := by
  refine ⟨?_, by decide +kernel, ⟨?_, by decide +kernel, by decide +kernel, by decide, by decide +kernel⟩, by decide +kernel⟩
  · intro c h
    have h2 : c = .none ∨ c = .version ∨ c = .capabilities ∨ c = .ready := by simpa using h
    clear h
    obtain rfl | rfl | rfl | rfl := h2 <;> decide +kernel
  · intro msg
    have h : (sSpdm .ready id).sys.sec.meas = [] := rfl
    unfold measBlocks
    rw [h]
    cases Config.spdmMeasIndex msg <;> simp [indexed]

/-- The pins and the power state changed. -/
def sPin (f : PinSt → PinSt) : State := sys0 s0 fun y => { y with pin := f y.pin }
def sPwr (f : PwrSt → PwrSt) : State := sys0 sM fun y => { y with pwr := f y.pwr }

theorem witness_PinsAndPowerStates :
    (∀ b ∈ [true, false], (sPin fun x => { x with pwrGood := b }).sys.pin.pwrGood = b) ∧
    (∀ j ∈ [105, 104], let s := reg0 s0 .thermCfg 0 0x695F5F
      Running s ∧ (fld (rd s .thermCfg 0) 23 16 ≤ j ↔ j = 105)) ∧
    (∀ j ∈ [95, 94, 92, 91], let warn := fld (lv (reg0 s0 .thermCfg 0 0x695F5F) .thermCfg 0) 7 0
      (warn ≤ j ↔ j = 95) ∧ (j + 3 < warn ↔ j = 91)) ∧
    (sPin fun x => { x with auxUp := false }).sys.pin.auxUp = false ∧
    (let s := sPwr fun x => { x with want := some 1 }
     Running s ∧ s.sys.pwr.going = none ∧ s.sys.pwr.want = some 1 ∧ s.sys.pwr.state ≠ 2) ∧
    (∀ w ∈ [2, 3], let s := sPwr fun x => { x with want := some w }
      Running s ∧ s.sys.pwr.going = none ∧ s.sys.pwr.want = some w ∧ s.sys.pwr.state ≠ 2) ∧
    (∀ b ∈ [true, false], let s := part0 (sPwr fun x => { x with going := some 2 }) fun x =>
        { x with mill := { x.mill with runs := if b then [] else [run1 []] } }
      Running s ∧ s.sys.pwr.going = some 2 ∧ (drained s = true ↔ b = true) ∧ stackState s 0 = 3) ∧
    (let s := sPwr fun x => { x with state := 2, dark := true }
     Running s ∧ s.sys.pwr.going = none ∧ s.sys.pwr.state = 2 ∧ s.sys.pwr.dark = true ∧ s.sys.pwr.cycle = none) ∧
    (∀ n ∈ [1, 2], let s := sPwr fun x => { x with state := n, want := some 0 }
      Running s ∧ s.sys.pwr.going = none ∧ s.sys.pwr.state = n ∧ s.sys.pwr.want = some 0) ∧
    (∀ b ∈ [3, 4], let s := sStk (sPwr fun x => { x with going := some 0 }) b 0 id
      Running s ∧ s.sys.pwr.going = some 0 ∧ ((List.range 24).all (fun k => stackState s k != 4) = true ↔ b = 3)) := by
  refine ⟨by decide +kernel, ?_, by decide +kernel, rfl, ⟨rfl, by decide +kernel⟩, ?_, ?_, ⟨rfl, by decide +kernel⟩, ?_, ?_⟩
  all_goals
    intro n h
    refine ⟨rfl, ?_⟩
    revert n; decide +kernel

theorem witness_TheSidebandAnswers :
    s0.sys.pin.auxUp = true ∧
    (∃ (s : State) (c : Cmd), s.sys.pwr.cycle = some ⟨2, 1, some (0, c.ref)⟩ ∧ cmdOf s 0 c.ref = some c) ∧
    (∀ n ∈ [8, 9], ∃ s : State, s.sys.pwr.cycle = some ⟨3, n, none⟩) :=
  ⟨rfl, ⟨store (sPwr fun x => { x with cycle := some ⟨2, 1, some (0, 5)⟩ }) [cmd0 0x0902 []], cmd0 0x0902 [], by decide +kernel⟩,
    fun n _ => ⟨sPwr fun x => { x with cycle := some ⟨3, n, none⟩ }, rfl⟩⟩

/-- A Utertil ring at address 0 that is on and awake, with these memory bytes, two IDs live. -/
def sUt (m : Mem) (c : List Cmd) (scan : Option (Nat × List (Nat × Nat))) : State :=
  { reg0 (reg0 (part0 sM fun x => { x with cmds := c, ut := { x.ut with awake := true, scan := scan } }) .utCtl 0 0x8000000000000000) .utStatus 0 2 with
    mem := m }
def utc (op : Nat) (b : Bytes) : Cmd := cmd0 op b

theorem held_ut (m : Mem) (c : Cmd) (scan : Option (Nat × List (Nat × Nat))) (op : Nat) (h : c.opcode = op ∧ c.phase = .admitted) :
    Held (sUt m [c] scan) 0 op c := by
  refine ⟨rfl, ?_, h.1, h.2⟩
  show (psys ((Upd.part 0 _).run sM) 0).cmds.find? _ = _
  rw [psys_part, if_pos rfl]
  simp

theorem witness_UtertilRingsAndTables :
    (Running s0 ∧ issuerTenant s0 w0 = some 0) ∧
    (let s := sUt [] [] none
     Running s ∧ utOn s 0 = true ∧ issuerTenant s w0 = some 0 ∧ regionOf (utBaseOf s 0) = .loft ∧
      access s 0 0 (utBaseOf s 0) 8 true = .ok ∧ (psys s 0).ut.stopped = false ∧ (psys s 0).ut.awake = true ∧ utNext s 0 = .idle) ∧
    utNext (sUt [(0, 1)] [] none) 0 = .bad ∧
    (∀ op ∈ [4, 0], ∀ r ∈ [0, 1], let s := sUt ((7, 2) :: (if r = 0 then [] else [(31, 1)]) ++ (0x1001, 2) :: (if op = 0 then [] else [(0x1002, 4)])) [] none
      Running s ∧ ∃ h, utNext s 0 = .packet h 2 ∧ byteAt h 2 = op ∧ (utFits s 0 (utNeed op 0) = true ↔ r = 0)) ∧
    (∀ b ∈ [true, false], ∀ full ∈ [true, false], ∃ s c, Held s 0 0x0F01 c ∧ registerLeft (psys s 0) c.cls = !full ∧ c.params.length = 40 ∧ rangeHolds s c.tenant (utBaseOf s 0) 0x40000000 = true ∧
      0 < utK c ∧ utK c ≤ 100 ∧ utScanned s 0 c.ref = b ∧ poisonIn s (utCodeAddr s 0 0) (32 * utHigh s 0) = none ∧ stackOf (utBaseOf s 0) = 0 ∧
      (List.range (utHigh s 0)).filter (fun i => utIdState s 0 i == 1) = [0, 1]) ∧
    (∃ s c, Held s 0 0x0F02 c ∧ rangeHolds s c.tenant (utBaseOf s 0) 0x40000000 = true ∧ utField c 16 2 = 1 ∧ c.params.length = 48 ∧
      (∀ i, i < 1 → utInsertId c i ≠ 0xFFFFFF ∧ utIdState s 0 (utInsertId c i) ≠ 2) ∧ (psys s 0).committedN + 1 ≤ 4096) ∧
    (∃ s c, Held s 0 0x0F03 c ∧ rangeHolds s c.tenant (utBaseOf s 0) 0x40000000 = true ∧ utField c 16 2 = 1 ∧
      c.params.length + 16 = roundUp (24 + 4 * 1) 8 ∧ (∀ i, i < 1 → utDeleteId c i ≠ 0xFFFFFF) ∧ (psys s 0).committedN + 1 ≤ 4096) ∧
    (∃ s, bit (lv s .utCtl 0) 63 = true ∧ bit (rd s .utCtl 0) 63 = false) ∧
    (∃ s c, Held s 0 0x0F04 c) ∧ (∃ s c, Held s 0 0x0F80 c) ∧ regionOf (utBaseOf s0 0) = .loft := by
  refine ⟨⟨rfl, by decide +kernel⟩, ⟨rfl, by decide +kernel⟩, by decide +kernel, ?_, ?_,
    ⟨_, _, held_ut [] (utc 0x0F02 ([0, 1] ++ zeros 6 ++ [0, 0, 1] ++ zeros 37)) none _ ⟨rfl, rfl⟩, by decide +kernel⟩,
    ⟨_, _, held_ut [] (utc 0x0F03 ([0, 1] ++ zeros 7 ++ [0, 0, 1] ++ zeros 4)) none _ ⟨rfl, rfl⟩, by decide +kernel⟩,
    ⟨{ s0 with live := RegFile.put s0.live .utCtl 0 0 0x8000000000000000 }, by decide +kernel⟩,
    ⟨_, _, held_ut [] (utc 0x0F04 []) none _ ⟨rfl, rfl⟩⟩, ⟨_, _, held_ut [] (utc 0x0F80 []) none _ ⟨rfl, rfl⟩⟩, by decide +kernel⟩
  · intro op ho r hr
    refine ⟨rfl, utPacket (sUt ((7, 2) :: (if r = 0 then [] else [(31, 1)]) ++ (0x1001, 2) :: (if op = 0 then [] else [(0x1002, 4)])) [] none) 0 16, ?_⟩
    revert op r; decide +kernel
  · intro b h full hf
    refine ⟨part0 (sUt [(0x201000, 5)] [utc 0x0F01 ([0, 1] ++ zeros 38)] (if b then some (5, []) else none)) fun x =>
      { x with sels := if full then (List.range 4).map fun i => { sel7 true with id := 20 + i } else [] },
      utc 0x0F01 ([0, 1] ++ zeros 38), ⟨rfl, ?_, rfl, rfl⟩, ?_⟩
    all_goals revert b full; decide +kernel

/-! ### Ill-formed commands are refused -/

/-- An issuer of a tenant that cannot exist, a Bell packet and a header with one field too wide. -/
def w9 : Issuer := ⟨.steward, 0, 4096⟩
def okBell : BellInfo := ⟨1, 16, 0, 0, 0x10, 1, 256000⟩
def badBells : List BellInfo := [{ okBell with frame := 2 ^ 48 }, { okBell with period := 512 }, { okBell with applyAt := 2 ^ 48 },
  { okBell with periodNext := 512 }, { okBell with source := 2 ^ 20 }, { okBell with bhops := 256 }, { okBell with due := 2 ^ 32 }]
def badBodies : List Payload := [.memRd false (2 ^ 64) 64, .memRd false 0 0, .memRd false 0 1025, .memWr false (2 ^ 64) [0], .memWr false 0 [],
  .memWr false 0 (zeros 1025), .cmd (zeros 63), .cmd (zeros 4161), .notice (zeros 63), .bell { okBell with frame := 2 ^ 48 }]
def okPk : Packet := ⟨1, 0, 0, 0, 1, 0, 0, 3, 1, false, false, .memRd false 0x8000 64⟩
def badPackets : List Packet := [{ okPk with dst := 2 ^ 20 }, { okPk with src := 2 ^ 20 }, { okPk with ten := 4096 }, { okPk with ld := 16 },
  { okPk with tag := 65536 }, { okPk with hops := 129 }] ++ badBodies.map fun b => { okPk with body := b }
def sense0 : FrameSense := ⟨40, 100, [], [], [], []⟩

theorem test_wf_bells : okBell.wf = true ∧ badBells.all (fun b => !b.wf && !(Instr.bellPacket 2 b 0).wf) = true := by decide +kernel

theorem test_wf_packets : okPk.wf = true ∧ badPackets.all (fun q => !q.wf) = true ∧
    badPackets.all (fun q => [Instr.memRd 2 q, .memWr 2 q, .compl 2 q, .cmd 2 q, .credit 2 q, .notice 2 q, .hRd 2 q, .hWr 2 q, .hCln 2 q,
      .hData 2 q, .hCmp 2 q, .biSnp 2 q, .biRsp 2 q, .fail 2 q, .prep 2 q, .ack 2 q, .commit 2 q, .defer 2 q, .abort 2 q].all
      fun i => !i.wf) = true ∧
    (badPackets.take 6).all (fun q => !(Instr.flitRx 2 true 0 [q]).wf) = true := by decide +kernel

theorem test_wf_issuers : ([Instr.frameCtlWrite w9 0, .frameApplyWrite w9 0, .numClrCounts w9 0 0, .driftCtlWrite w9 0 false 0, .hostEnWrite w9 0,
    .ringCfgWrite w9 0 0 0, .registerWrite w9 0x30000000000 [0], .slotWrite w9 0 0 [0], .stackGather 0 w9 [0] 64 0, .stackAdd 0 w9 0 true [0],
    .stackWrite 0 w9 0 [0], .stackMove 0 w9 0 64 64].all fun i => !i.wf) = true := by decide +kernel

theorem test_wf_others : ([Instr.bellStep (some (2 ^ 48)) sense0, .bellStep (some 1) { sense0 with junction := 256 },
    .bellStep (some 1) { sense0 with power := 4096 }, .bellStep none { sense0 with junction := 256 }, .bellStep none { sense0 with power := 4096 },
    .registerWrite w0 0x2FFFFFFFFFF [0], .registerWrite w0 0x30003FFFFFF [0, 0], .registerWrite w0 0x30000000000 [], .slotWrite w0 0 0x3FFFFF [0, 0],
    .slotWrite w0 0 0 [], .fanoutReply (2 ^ 20) 0 0 0 0 [0], .fanoutReply 1 0 0 4096 0 [0], .fanoutReply 1 0 0 0 0 [], .fanoutReply 1 0 0 0 0x20000 [0],
    .sorterBlock 0 0 [], .sorterBlock 0 0 (List.replicate 33 ⟨0, 0, 0, 0, 0, none⟩), .stackGather 0 w0 [0] 0 0, .stackGather 0 w0 [0] 2049 0,
    .stackGather 0 w0 (List.replicate 1025 0) 64 0, .stackAdd 0 w0 2 true [0], .stackAdd 0 w0 4 true [], .stackWrite 0 w0 0 [],
    .stackMove 0 w0 0 64 0, .stackZero 0 512 1, .stackZero 0 1024 0, .garbageCollection 0 0 256, .flitRx 2 true 65536 [], .replayRequest 2 65536,
    .creditReturnUnused 4096 false 0 0, .hostWindowWrite 0 true true 0x3FFFFFFF 2 [], .hostWindowWrite 0 true false 0xFFFFFFF 0 [0, 0],
    .hostWindowWrite 0 true true 0 0 [], .requestReissue 65536, .replyComplTimeout 65536, .resetEscalation 0 0 .mill 0 0,
    .resetEscalation 4 0 .mill 0 0, .sbCmd 65536 0 (zeros 64), .sbCmd 0 0 (zeros 63), .sbCmd 0 0 (zeros 4161), .sbImageWrite 65536 0 0 [],
    .sbImageWrite 0 2 0 [], .sbImageWrite 0 0 0 (zeros 4097), .sbImageDone 65536 0, .sbImageDone 0 2, .sbPstate 65536 0, .sbPstate 0 4,
    .hostCxlMemRequest 0 true .clnEvct (2 ^ 44)].all fun i => !i.wf) = true := by decide +kernel

/-! ### The spec's worked examples -/

/-- Table 6.8: worked conversions. 2.5 to INT4; −2.5 to INT4; 5.0 and 0.25 to FP4; 1.00390625 to BF16; 16,777,217 to FP32. -/
theorem test_conversions_round_ties_away :
    convert 4 false (.fin false 5 (-1)) = (3, .none) ∧ convert 4 false (.fin true 5 (-1)) = (0xD, .none) ∧
    convert 5 false (.fin false 5 0) = (7, .none) ∧ convert 5 false (.fin false 1 (-2)) = (1, .none) ∧
    convert 0xC false (f32 0x3F808000) = (0x3F81, .none) ∧ convert 0xD false (decodeNum 0xE false 16777217).1 = (0x4B800001, .none) := by
  decide +kernel

/-- Table 6.8, the rest: 2⁻¹⁰ to FP8A; 65,520 to FP16 (SAT); −0.3 to INT8U (FLUSH); NaN to FP6B (NAN_LOST); 0.75 to SCL8. -/
theorem test_conversions_at_the_ends :
    convert 9 false (.fin false 1 (-10)) = (1, .none) ∧ convert 0xB false (.fin false 65520 0) = (0x7BFF, { sat := 1 }) ∧
    convert 8 true (f32 0xBE99999A) = (0, { flush := 1 }) ∧ convert 7 false (.nan false) = (0, { nanLost := 1 }) ∧
    convert 0xF false (.fin false 3 (-2)) = (0x7F, .none) := by decide +kernel

/-- "Some examples" after R206: INT4 7 to FP4 saturates to 6; FP6A 28 to FP6B to 7.5; FP6A 0.0625 to FP4 flushes; FP6B 1.125 to FP8B is 1.25. -/
theorem test_conversions_between_narrow_formats :
    convert 5 false (decodeNum 4 false 7).1 = (7, { sat := 1 }) ∧ convert 7 false (decodeNum 6 false 0x1F).1 = (0x1F, { sat := 1 }) ∧
    convert 5 false (decodeNum 6 false 1).1 = (0, { flush := 1 }) ∧
    decodeNum 0xA false (convert 0xA false (decodeNum 7 false 9).1).1 = (.fin false 5 (-2), false) := by decide +kernel

/-- Chapter 7's example of R235: 16,777,216 + 1 + 1 is 16,777,220 in one order and 16,777,218 in the other. -/
theorem test_fp32_sums_round_at_each_add :
    (f32Add (f32Add 0x4B800000 0x3F800000).1 0x3F800000).1 = 0x4B800002 ∧ (f32Add 0x4B800000 (f32Add 0x3F800000 0x3F800000).1).1 = 0x4B800001 := by
  decide +kernel

/-- Table 6.15's example: four FP6A codes pack to 0E F9 01. -/
theorem test_fp6_packing : packRow 6 [0x0E, 0x24, 0x1F, 0] = [0x0E, 0xF9, 0x01] ∧ elemAt 6 [0x0E, 0xF9, 0x01] 2 = 0x1F := by decide +kernel

/-- The worked encoding of chapter 7: groups whose largest magnitudes are 3.375 and 0.875. -/
theorem test_two_level_encoding :
    let pad (l : List Machine.Num) : List Machine.Num := l ++ List.replicate 62 num0
    let e := (encodeBlock 4 false [pad [.fin false 27 (-3), .fin true 5 (-2)], pad [.fin false 7 (-3), .fin true 3 (-4)]]).1
    e.s1 = [0x7E, 0x6F] ∧ e.codes.take 2 = [7, 0xD] ∧ (e.codes.drop 64).take 2 = [7, 0xF] := by decide +kernel

/-- Shard 2 of the worked address of chapter 3. -/
def shard2 : Bytes := natLE 2 7 ++ natLE 2 2 ++ [0, 6, 0, 0] ++ natLE 8 800000000 ++ natLE 8 200000000 ++ natLE 8 0x1000000000 ++
  natLE 8 0x2000000000 ++ zeros 24 ++ (List.range 6).flatMap (fun j => natLE 8 (j * 0x1000000000)) ++
  (List.range 6).flatMap fun j => natLE 8 (j * 0x1000000000 + 0xC000000000)

theorem test_worked_address :
    codeAddr shard2 128 917532406 = 0x4000000000 + 0x95733F00 ∧ tagAddr shard2 128 917532406 = 0x10000000000 + 0x255CCFC ∧
    nodeAddr shard2 32 128 917532406 = 0x1000000000 + 0x6213A1740 ∧
    refineAddr shard2 (refineRecBytes 1 64 768) 917532406 = 0x2000000000 + 0xAF230E060 ∧ refineRecBytes 1 64 768 = 400 ∧
    blockBytes 32 128 = 4608 := by decide +kernel

/-- The worked address of chapter 12: o = 0x7E_193D_4C00 in P2's quarter with w = 8 is channel F20, unit index 16,140. -/
theorem test_worked_flash_address :
    let s := sys0 s0 fun y => { y with chans := Vector.ofFn fun _ => { Channel.empty with w := 8 } }
    channelOf s 0x1807E193D4C00 = 20 ∧ unitIdxOf s 0x1807E193D4C00 = 16140 ∧ 0x1807E193D4C00 % 0x400000 / 16384 = 245 := by decide +kernel

/-- Tables 5.5 to 5.7: two result lists merged into four. -/
def ent (node shard score : Nat) : Entry := ⟨.ofNat 32 score, node, 0, 0xF1D, shard, none⟩
def list0 : Block := ⟨4, true, false, false, false, 0, 0, 64, 0x43198000, 0x450FD000, 0, 0,
  [ent 917532406 2 0x42250000, ent 412009118 1 0x421A0000, ent 1204771030 3 0x42170000, ent 96300415 0 0x42100000]⟩
def list1 : Block := ⟨4, true, false, false, false, 0, 0, 64, 0x431B0000, 0x450EF800, 0, 0,
  [ent 917532406 2 0x42230000, ent 633810277 1 0x421A0000, ent 412009118 1 0x42180000, ent 1520004991 3 0x42170000]⟩

theorem test_merge_of_two_lists :
    let b := (mergeBlocks 0 true false false false 0 4 [list0, list1]).1
    b.entries.map (·.node) = [917532406, 412009118, 633810277, 1204771030] ∧ b.presented = 126 ∧ b.dups = 2 ∧ b.tied = 1 ∧ b.trunc = false := by
  decide +kernel

/-- Chapter 9's worked example as bytes: "Total: 1 284,50 " is emitted with E2 82 pending; then AC 3C 2F 66 3E gives the euro sign and a match. -/
theorem test_stop_string :
    let st : TextStream := ⟨1, 0, 1, 2, [[0x3C, 0x2F, 0x66, 0x3E]], false, [], [], [], [], .opened, 0, 0xFF⟩
    let a := (feedRun [] st [0x54, 0x6F, 0x74, 0x61, 0x6C, 0x3A, 0x20, 0x31, 0x20, 0x32, 0x38, 0x34, 0x2C, 0x35, 0x30, 0x20, 0xE2, 0x82] 72).final
    let b := (feedRun [] { a with queue := [] } [0xAC, 0x3C, 0x2F, 0x66, 0x3E, 0x0A, 0x54, 0x56, 0x41] 72).final
    a.queue.length = 16 ∧ a.pending = [0xE2, 0x82] ∧ a.held = [] ∧ b.queue = [0xE2, 0x82, 0xAC] ∧ b.held = [] ∧ b.endCode = 1 ∧ b.stopIndex = 0 := by
  decide +kernel

/-- Table 2.16: the header of the example IDENTIFY. -/
theorem test_identify_header :
    let p : Bytes := [2, 1, 1, 0, 1, 0, 0, 0, 7, 0, 0, 0, 0, 0, 0, 0, 0, 0x70, 0x56, 0x34, 0x12, 0, 0, 0, 0x20, 0, 0x80, 0, 0x20, 0, 0, 0, 0, 0] ++
      zeros 28 ++ [0x58, 0x56]
    let c := cmdFrom p 1 0 0 0 false 0 0
    p.length = 64 ∧ headerBad p = false ∧ c.opcode = 0x0102 ∧ c.cls = 1 ∧ c.timeout = 64 ∧ c.seq = 7 ∧ c.replyAddr = 0x1234567000 ∧
      c.replyHost = true ∧ c.replyPart = 0x20 ∧ c.bodyMax = 32 := by decide +kernel

/-- Chapter 21's worked packet, at offset 0 of the ring, and the space of its quarter. -/
theorem test_utertil_packet :
    let s := reg0 (reg0 s0 .utCtl 0 0x8000000000000000) .utBase 0 0
    let bs : Bytes := [0, 7, 1, 0, 0, 0, 0x2B, 0x1C, 0, 1, 0, 0, 0, 0, 0, 0] ++ [0, 10, 1] ++ zeros 37
    let s := { s with mem := Mem.writeBytes (Mem.writeBytes [] 0x1000 bs) 7 [7] }
    utNext s 0 = .packet (bs.take 16) 7 ∧ utNeed 1 10 = 13 ∧ unalias s 0x1F000001000 = 0x1000 := by decide +kernel

/-! ### Single commands -/

/-- FRAME_CTL_WRITE (R30): the part becomes a Bell source with period 16. -/
theorem test_frame_ctl : (match exec (.frameCtlWrite w0 0x1000010) s0 with | .next t => rd t .frameCtl 0 | _ => 0) = 0x1000010 := by decide +kernel

/-- STACK_ZERO: a row of ones becomes zeros, the byte after it stays. -/
theorem test_stack_zero : (match exec (.stackZero 0 0x8000 1) { sM with mem := [(0x8000, 1), (0x83FF, 2), (0x8400, 3)] } with
    | .next t => t.mem | _ => []) = [(0x8400, 3)] := by decide +kernel

/-- STACK_ADD: 16,777,216.0 + 1.0 rounds away to 16,777,218.0 (R201). -/
theorem test_stack_add : (match exec (.stackAdd 0 w0 0x8000 true [0x3F800000]) { sM with mem := Mem.writeBytes [] 0x8000 (natLE 4 0x4B800000) } with
    | .next t => memLE t 0x8000 4 | _ => 0) = 0x4B800001 := by decide +kernel

/-- NOP (R67): it is answered and leaves the command store. -/
theorem test_nop_leaves : (match exec (.nop 0 5) (store s0 [cmd0 0x0101 []]) with | .next t => (psys t 0).cmds | _ => [cmd0 0 []]) = [] := by
  decide +kernel

/-- STACK_MOVE forward over itself keeps the source's bytes (R375). -/
theorem test_stack_move_overlap : (match exec (.stackMove 0 w0 0x8000 0x8001 3) { sM with mem := [(0x8000, 1), (0x8001, 2), (0x8002, 3)] } with
    | .next t => t.mem | _ => []) = [(0x8000, 1), (0x8001, 1), (0x8002, 2), (0x8003, 3)] := by decide +kernel

/-- An uncorrectable SRAM error without an engine resets the partition: ring 0 is off (Table 18.4). -/
theorem test_partition_reset : (match exec (.sramUncorrectable 0 3 8 none) (reg0 s0 .ringCfg 0 0x8000000000000003) with
    | .next t => (bit (rd t .ringCfg 0 0) 63, (psys t 0).faults.records.map (·.cause)) | _ => (true, [])) = (false, [0x0B]) := by decide +kernel
end Sys2Proof.Tests
end

section
/-!
What a software write of one register comes to: the registers and memories a change leaves as they were, what the written register
reads afterwards, and the gate of R488 for the fabric manager.
-/

namespace Sys2Proof.Safety

open Sys2Proof.Machine

theorem RegsKept.refl (s : State) (b : R → Fin 4 → Nat → Prop) : RegsKept s s b := fun _ _ _ _ => rfl

/-- A register set leaves every register but its own copies; a part-level register is one for all partitions. -/
theorem regsKept_reg (s : State) (r : R) (p : Fin 4) (i : Nat) (v : Word) :
    RegsKept s ((Upd.reg r p i v).run s) fun x q j => x = r ∧ j = i ∧ (q = p ∨ r.desc.part = true) := by
  refine fun x q j hne => rd_reg_other s v fun hkey => hne ?_
  obtain rfl : x = r := congrArg RegKey.r hkey
  refine ⟨rfl, congrArg RegKey.i hkey, ?_⟩
  by_cases hpart : x.desc.part = true
  · exact .inr hpart
  · exact .inl (by simpa [regKey, hpart] using congrArg RegKey.p hkey)

/-- Registers kept so far stay kept past a change of a register whose copies are all excepted. -/
theorem RegsKept.reg_excepted {s t : State} {b : R → Fin 4 → Nat → Prop} (h : RegsKept s t b) {r : R} {p : Fin 4} {i : Nat} {v : Word}
    (hb : ∀ q, b r q i) : RegsKept s ((Upd.reg r p i v).run t) b := by
  refine fun x q j hne => (regsKept_reg t r p i v x q j ?_).trans (h x q j hne)
  rintro ⟨rfl, rfl, -⟩
  exact hne (hb q)

/-- The same for a partition's register, where that partition's copy is excepted. -/
theorem RegsKept.reg_excepted_partition {s t : State} {b : R → Fin 4 → Nat → Prop} (h : RegsKept s t b) {r : R} {p : Fin 4} {i : Nat}
    {v : Word} (hpart : r.desc.part = false) (hb : b r p i) : RegsKept s ((Upd.reg r p i v).run t) b := by
  refine fun x q j hne => (regsKept_reg t r p i v x q j ?_).trans (h x q j hne)
  rintro ⟨rfl, rfl, rfl | hall⟩
  · exact hne hb
  · simp [hpart] at hall

/-- A value's coming into force changes no register as it reads. -/
theorem RegsKept.goLive {s t : State} {b : R → Fin 4 → Nat → Prop} (h : RegsKept s t b) {r : R} {p : Fin 4} {i : Nat} :
    RegsKept s ((Upd.goLive r p i).run t) b := h

end Sys2Proof.Safety

namespace Sys2Proof.Machine

open Sys2Proof.Safety

/-! ### Software writes (Table 0.6) -/

@[simp] theorem plainWrite_run (r : R) (p : Fin 4) (i : Nat) (v : Word) (s : State) :
    (plainWrite r p i v).run s = (Upd.reg r p i (swWrite r (rd s r p i) v)).run s := rfl

@[simp] theorem nowWrite_run (r : R) (p : Fin 4) (i : Nat) (v : Word) (s : State) :
    (nowWrite r p i v).run s = (Upd.goLive r p i).run ((Upd.reg r p i (swWrite r (rd s r p i) v)).run s) := rfl

theorem rd_plainWrite_same (s : State) (r : R) (p : Fin 4) (i : Nat) (v : Word) :
    rd ((plainWrite r p i v).run s) r p i = swWrite r (rd s r p i) v := by
  rw [plainWrite_run, rd_reg_same, swWrite_defined]

theorem rd_nowWrite_same (s : State) (r : R) (p : Fin 4) (i : Nat) (v : Word) :
    rd ((nowWrite r p i v).run s) r p i = swWrite r (rd s r p i) v := rd_plainWrite_same s r p i v

/-- A write in force at once leaves every register of another name. -/
theorem regsKept_nowWrite (s : State) (r : R) (p : Fin 4) (i : Nat) (v : Word) :
    RegsKept s ((nowWrite r p i v).run s) fun x _ _ => x = r := by
  rw [nowWrite_run]
  exact ((RegsKept.refl s _).reg_excepted fun _ => rfl).goLive

/-- A register with RW bits only takes them from the value written. -/
theorem swWrite_of_rw_only {r : R} (old v : Word) (hro : r.desc.ro = 0) (hw1c : r.desc.w1c = 0) :
    swWrite r old v = v &&& r.desc.rw := by
  simp [swWrite, hro, hw1c]

/-- A bit that only a 1 written to it clears. -/
theorem bit_swWrite_w1c {r : R} (old v : Word) {j : Nat} (hj : j < 64) (hrw : bit r.desc.rw j = false)
    (hro : bit r.desc.ro j = false) (hw1c : bit r.desc.w1c j = true) :
    bit (swWrite r old v) j = (bit old j && !(bit v j)) := by
  unfold bit at *
  simp only [swWrite, BitVec.getLsbD_or, BitVec.getLsbD_and, BitVec.getLsbD_not, hrw, hro, hw1c, hj, Bool.and_false, Bool.or_false,
    Bool.false_or, Bool.and_true, decide_true, Bool.true_and]

/-- A bit that the register holds reads 1 once it is set. -/
theorem bit_regSetBit_same (s : State) (r : R) (p : Fin 4) (i : Nat) {b : Nat} (hb : b < 64) (hdef : bit r.defined b = true) :
    bit (rd ((regSetBit r p i b).run s) r p i) b = true := by
  rw [regSetBit_run, rd_reg_same, bit_and, bit_setBit _ _ _ _ hb]
  simp [hdef]

/-! ### The gate of R488 -/

/-- The fabric manager may write every page. -/
theorem tenantMayWrite_manager (s : State) (p : Fin 4) (page i : Nat) : tenantMayWrite s (some 0) p page i = true := rfl

/-- A register write by the fabric manager is performed. -/
theorem ctlReg_go_manager {s : State} {w : Issuer} (hrun : Running s) (hten : issuerTenant s w = some 0) (p : Fin 4) (r : R) (i : Nat)
    (k : Upd) : (ctlReg w p r i k).go s = .next (k.run s) := by
  rw [go_run hrun]
  simp [ctlReg, ctlWriteOk, hten, tenantMayWrite_manager]

/-! ### What each block makes of a write -/

theorem frameCtlSet_good (s : State) {v : Word} (h : 4 ≤ fld v 8 0 ∧ fld v 8 0 ≤ 256) :
    (frameCtlSet v).run s = (nowWrite .frameCtl 0 0 v).run s := by
  simp only [frameCtlSet, Upd.read_run, if_pos h]

theorem frameCtlSet_bad (s : State) {v : Word} (h : ¬ (4 ≤ fld v 8 0 ∧ fld v 8 0 ≤ 256)) :
    (frameCtlSet v).run s
      = (regSetBit .frameStatus 0 0 16).run ((nowWrite .frameCtl 0 0 (setFld v 8 0 (fld (rd s .frameCtl 0) 8 0))).run s) := by
  simp only [frameCtlSet, Upd.read_run, if_neg h, Upd.seq_cons, Upd.seq_one]

theorem frameApplySet_late {s : State} {v : Word} (hsrc : bit (rd s .frameCtl 0) 24 = true) (hsoon : fld v 47 0 < frameNow s + 8) :
    (frameApplySet v).run s = (regSetBit .frameStatus 0 0 16).run s := by
  simp [frameApplySet, hsrc, hsoon]

theorem frameApplySet_taken {s : State} {v : Word} (h : bit (rd s .frameCtl 0) 24 = false ∨ frameNow s + 8 ≤ fld v 47 0) :
    (frameApplySet v).run s
      = (Upd.sys fun y => { y with bell := { y.bell with armed := true } }).run ((nowWrite .frameApply 0 0 v).run s) := by
  have hlate : (bit (rd s .frameCtl 0) 24 && decide (fld v 47 0 < frameNow s + 8)) = false := by
    rcases h with h | h
    · simp [h]
    · simp [Nat.not_lt.mpr h]
  simp only [frameApplySet, Upd.read_run, hlate, Bool.false_eq_true, if_false, Upd.seq_cons, Upd.seq_one]

theorem numFlagsSet_clear (s : State) (p : Fin 4) {v : Word} (h : bit v 63 = true) :
    (numFlagsSet p v).run s
      = (Upd.reg .numCount1 p 0 0).run ((Upd.reg .numCount0 p 0 0).run ((nowWrite .numFlags p 0 v).run s)) := by
  simp [numFlagsSet, h]

theorem driftSet_tau_good (p : Fin 4) {v : Word} (hpos : fld v 31 0 ≠ 0) (hsign : bit v 31 = false)
    (hfin : f32Finite (fld v 31 0) = true) : driftSet p true v = plainWrite .driftTau p 0 v := by
  simp [driftSet, checkedWrite, hpos, hsign, hfin]

theorem hostCfgSet_good {s : State} {v : Word} (hallow : s.fuse.hostAllow = true) (hlo : 1 ≤ fld v 36 32) (hhi : fld v 36 32 ≤ 16)
    (hsame : bit v 63 = bit (rd s .hostCfg 0) 63) : (hostCfgSet v).run s = (nowWrite .hostCfg 0 0 v).run s := by
  have hzero : fld v 36 32 ≠ 0 := Nat.ne_of_gt hlo
  simp [hostCfgSet, checkedWrite, hallow, hzero, Nat.not_lt.mpr hhi, hsame]

/-- The registers that take their RW bits at the next Bell without a check of their block. -/
def plainRegs : List R := [.millCtl, .batchThresh, .flCtl, .crierDest, .crierRing]

theorem regSet_plain {r : R} (h : r ∈ plainRegs) (steward manager : Bool) (p : Fin 4) (i : Nat) (v : Word) :
    regSet steward manager r p i v = plainWrite r p i v := by
  simp only [plainRegs, List.mem_cons, List.not_mem_nil, or_false] at h
  rcases h with rfl | rfl | rfl | rfl | rfl <;> rfl

/-! ### A write at an offset of the control space (R317, R318) -/

/-- The register pages are neither of a command window nor reserved. -/
theorem registerPage_not_window_nor_reserved {page : Nat} (hlo : 1 ≤ page) (hhi : page ≤ 0x18) :
    ¬ (0x40 ≤ page ∧ page < 0x80) ∧ ¬ (page = 0 ∨ 0x18 < page) := by omega

/-- A REGISTER_WRITE in the control row is a write at its offset there. (The offset is a variable: the kernel, comparing the two
sides, would else count down the literal subtracted.) -/
theorem cmdRegisterWrite_run {s : State} {w : Issuer} {addr off : Nat} {data : Bytes} (hreg : regionOf addr = .control)
    (hoff : addr - 0x30000000000 = off) :
    (cmdRegisterWrite w addr data).run s = (ctlWrite (accessorOf s w) off data).run s := by
  have hctl : (regionOf addr == .control) = true := beq_iff_eq.mpr hreg
  rw [cmdRegisterWrite, hctl, hoff, Upd.when_true, Upd.read_run]

section
variable {a : Accessor} {off : Nat} (hten : a.tenant = some 0) (hlo : 1 ≤ off % 0x1000000 / 0x10000)
  (hhi : off % 0x1000000 / 0x10000 ≤ 0x18)
include hten hlo hhi

/-- The fabric manager's write of 8 aligned bytes at a register acts on that register. -/
theorem ctlWrite_register (s : State) {data : Bytes} {r : R} {i : Nat} (hal : off % 0x1000000 % 8 = 0) (hlen : data.length = 8)
    (hat : regAt (off % 0x1000000) = some (r, i)) :
    (ctlWrite a off data).run s
      = (regSet (a.agent == .steward) true r (toP (off / 0x1000000)) i (BitVec.ofNat 64 (leNat data))).run s := by
  obtain ⟨hwin, hpage⟩ := registerPage_not_window_nor_reserved hlo hhi
  have hsize : ¬ (data.length ≠ 8 ∨ off % 0x1000000 % 8 ≠ 0) := by simp [hlen, hal]
  simp only [ctlWrite, if_neg hwin, Upd.read_run, hten, tenantMayWrite_manager, if_neg hpage, if_neg hsize, Bool.not_true,
    Bool.false_eq_true, if_false, hat, beq_self_eq_true]

/-- Its write of another size, or at an unaligned offset, is recorded. -/
theorem ctlWrite_bad_size (s : State) {data : Bytes} (hbad : off % 0x1000000 % 8 ≠ 0 ∨ data.length ≠ 8) :
    (ctlWrite a off data).run s = (memErr .ctlSize (ctlErrBlock a) (sourceCode a.agent) (0x30000000000 + off)).run s := by
  obtain ⟨hwin, hpage⟩ := registerPage_not_window_nor_reserved hlo hhi
  simp only [ctlWrite, if_neg hwin, Upd.read_run, hten, tenantMayWrite_manager, if_neg hpage, if_pos hbad.symm, Bool.not_true,
    Bool.false_eq_true, if_false]

end

/-- A record of a wrong size: its flag and its count. -/
theorem memErr_ctlSize (s : State) (q : Fin 4) (source addr : Nat) :
    let t := (memErr .ctlSize q source addr).run s
    bit (rd t .memErrStatus q) 60 = true ∧
      fld (rd t .memErrCount q) 15 0 = satAdd 16 (fld (rd s .memErrCount q) 15 0) 1 ∧ t.sys = s.sys ∧ MemoriesKept s t ∧
      RegsKept s t (fun r x _ => x = q ∧ (r = .memErrStatus ∨ r = .memErrCount ∨ r = .memErrAddr)) := by
  have hrun : (memErr .ctlSize q source addr).run s
      = (regMod .memErrAddr q 0 fun w => setFld (setFld w 63 60 source) 49 0 addr).run
          ((regCount .memErrCount q 0 15 0 1).run ((regSetBit .memErrStatus q 0 60).run s)) := rfl
  rw [hrun]
  refine ⟨?_, ?_, rfl, ⟨rfl, rfl, rfl⟩, ?_⟩
  · rw [regMod_run, rd_reg_other _ _ (regKey_r (by decide)), regCount_run, rd_reg_other _ _ (regKey_r (by decide))]
    exact bit_regSetBit_same s .memErrStatus q 0 (by decide) (by decide)
  · have hheld : ∀ j, j < 16 → R.memErrCount.defined.getLsbD j = true := by decide
    rw [regMod_run, rd_reg_other _ _ (regKey_r (by decide)), regCount_run, rd_reg_same, regSetBit_run,
      rd_reg_other _ _ (regKey_r (by decide)), fld_and _ _ _ _ (by decide) fun j _ hj => hheld j (by omega),
      fld_setFld_same _ _ _ _ (by decide) (by decide)]
    exact Nat.mod_eq_of_lt (Nat.lt_of_le_of_lt (Nat.min_le_right _ _) (by decide))
  · rw [regMod_run, regCount_run, regSetBit_run]
    exact (((RegsKept.refl s _).reg_excepted_partition rfl ⟨rfl, .inl rfl⟩).reg_excepted_partition rfl ⟨rfl, .inr (.inl rfl)⟩)
      |>.reg_excepted_partition rfl ⟨rfl, .inr (.inr rfl)⟩

end Sys2Proof.Machine
end

section
/-!
The register rows as commands of the fabric manager, one theorem per outcome of a row, and the obligation assembled from them.
-/

namespace Sys2Proof.Machine

open Sys2Proof.Safety

section
variable {s : State} {w : Issuer} {v : Word} (hrun : Running s) (hten : issuerTenant s w = some 0)
include hrun hten

/-! ### The rows' outcomes -/

theorem exec_frameCtlWrite : exec (.frameCtlWrite w v) s = .next ((frameCtlSet v).run s) := ctlReg_go_manager hrun hten 0 .frameCtl 0 _

theorem exec_frameApplyWrite : exec (.frameApplyWrite w v) s = .next ((frameApplySet v).run s) :=
  ctlReg_go_manager hrun hten 0 .frameApply 0 _

theorem exec_numClrCounts (p : Fin 4) : exec (.numClrCounts w p v) s = .next ((numFlagsSet p v).run s) :=
  ctlReg_go_manager hrun hten p .numFlags 0 _

theorem exec_driftCtlWrite (p : Fin 4) (tau : Bool) : exec (.driftCtlWrite w p tau v) s = .next ((driftSet p tau v).run s) :=
  ctlReg_go_manager hrun hten p .driftCtl 0 _

theorem exec_hostEnWrite : exec (.hostEnWrite w v) s = .next ((hostCfgSet v).run s) := ctlReg_go_manager hrun hten 0 .hostCfg 0 _

omit hten in
theorem exec_registerWrite {addr : Nat} (hreg : regionOf addr = .control) (data : Bytes) :
    exec (.registerWrite w addr data) s = .next ((ctlWrite (accessorOf s w) (addr - 0x30000000000) data).run s) := by
  have harm : exec (.registerWrite w addr data) s = execRegisterWrite w addr data s := rfl
  rw [harm, execRegisterWrite, go_run hrun, cmdRegisterWrite_run hreg rfl]

/-! ### FRAME_CTL and FRAME_APPLY (R30, R32) -/

theorem frameCtlWrite_takes_period (h : 4 ≤ fld v 8 0 ∧ fld v 8 0 ≤ 256) : ∃ t, exec (.frameCtlWrite w v) s = .next t ∧
    rd t .frameCtl 0 = swWrite .frameCtl (rd s .frameCtl 0) v ∧
    RegsKept s t (fun r _ _ => r = .frameCtl) ∧ MemoriesKept s t ∧ t.sys = s.sys := by
  refine ⟨_, exec_frameCtlWrite hrun hten, ?_⟩
  rw [frameCtlSet_good s h]
  exact ⟨rd_nowWrite_same s .frameCtl 0 0 v, regsKept_nowWrite s .frameCtl 0 0 v, ⟨rfl, rfl, rfl⟩, rfl⟩

theorem frameCtlWrite_discards_period (h : ¬ (4 ≤ fld v 8 0 ∧ fld v 8 0 ≤ 256)) : ∃ t, exec (.frameCtlWrite w v) s = .next t ∧
    fld (rd t .frameCtl 0) 8 0 = fld (rd s .frameCtl 0) 8 0 ∧ bit (rd t .frameCtl 0) 24 = bit v 24 ∧
    bit (rd t .frameStatus 0) 16 = true ∧
    RegsKept s t (fun r _ _ => r = .frameCtl ∨ r = .frameStatus) ∧ MemoriesKept s t ∧ t.sys = s.sys := by
  refine ⟨_, exec_frameCtlWrite hrun hten, ?_⟩
  rw [frameCtlSet_bad s h]
  have hrd (u : State) (x : Word) : rd ((regSetBit .frameStatus 0 0 16).run ((nowWrite .frameCtl 0 0 x).run u)) .frameCtl 0
      = x &&& R.frameCtl.desc.rw := by
    rw [regSetBit_run, rd_reg_other _ _ (regKey_r (by decide)), rd_nowWrite_same, swWrite_of_rw_only _ _ rfl rfl]
  refine ⟨?_, ?_, bit_regSetBit_same _ .frameStatus 0 0 (by decide) (by decide), ?_, ⟨rfl, rfl, rfl⟩, rfl⟩
  · have htaken : ∀ j, j < 9 → R.frameCtl.desc.rw.getLsbD j = true := by decide
    rw [hrd, fld_and _ _ _ _ (by decide) fun j _ hj => htaken j (by omega), fld_setFld_same _ _ _ _ (by decide) (by decide)]
    simp [fld]
  · rw [hrd, bit_and, bit_setFld _ _ _ _ _ (by decide) (by decide)]
    simp [show bit R.frameCtl.desc.rw 24 = true by decide]
  · rw [regSetBit_run, nowWrite_run]
    exact ((RegsKept.refl s _).reg_excepted fun _ => .inl rfl).goLive.reg_excepted fun _ => .inr rfl

theorem frameApplyWrite_refuses_soon (hsrc : bit (rd s .frameCtl 0) 24 = true) (hsoon : fld v 47 0 < frameNow s + 8) :
    ∃ t, exec (.frameApplyWrite w v) s = .next t ∧ bit (rd t .frameStatus 0) 16 = true ∧
      RegsKept s t (fun r _ _ => r = .frameStatus) ∧ MemoriesKept s t ∧ t.sys = s.sys := by
  refine ⟨_, exec_frameApplyWrite hrun hten, ?_⟩
  rw [frameApplySet_late hsrc hsoon]
  refine ⟨bit_regSetBit_same s .frameStatus 0 0 (by decide) (by decide), ?_, ⟨rfl, rfl, rfl⟩, rfl⟩
  rw [regSetBit_run]
  exact (RegsKept.refl s _).reg_excepted fun _ => rfl

theorem frameApplyWrite_arms (h : bit (rd s .frameCtl 0) 24 = false ∨ frameNow s + 8 ≤ fld v 47 0) :
    ∃ t, exec (.frameApplyWrite w v) s = .next t ∧
      rd t .frameApply 0 = swWrite .frameApply (rd s .frameApply 0) v ∧ t.sys.bell.armed = true ∧
      RegsKept s t (fun r _ _ => r = .frameApply) ∧ MemoriesKept s t := by
  refine ⟨_, exec_frameApplyWrite hrun hten, ?_⟩
  rw [frameApplySet_taken h]
  exact ⟨rd_nowWrite_same s .frameApply 0 0 v, rfl, regsKept_nowWrite s .frameApply 0 0 v, rfl, rfl, rfl⟩

/-! ### NUM_FLAGS, DRIFT_TAU and HOST_CFG (R210, R246, R442) -/

theorem numClrCounts_clears (h : bit v 63 = true) (p : Fin 4) : ∃ t, exec (.numClrCounts w p v) s = .next t ∧
    rd t .numCount0 p = 0 ∧ rd t .numCount1 p = 0 ∧
    (∀ b, b < 5 → bit (rd t .numFlags p) b = (bit (rd s .numFlags p) b && !(bit v b))) ∧
    RegsKept s t (fun r q _ => q = p ∧ (r = .numFlags ∨ r = .numCount0 ∨ r = .numCount1)) ∧ MemoriesKept s t := by
  refine ⟨_, exec_numClrCounts hrun hten p, ?_⟩
  rw [numFlagsSet_clear s p h]
  refine ⟨?_, ?_, fun b hb => ?_, ?_, rfl, rfl, rfl⟩
  · rw [rd_reg_other _ _ (regKey_r (by decide)), rd_reg_same]
    exact BitVec.zero_and
  · rw [rd_reg_same]
    exact BitVec.zero_and
  · have hmasks : bit R.numFlags.desc.rw b = false ∧ bit R.numFlags.desc.ro b = false ∧ bit R.numFlags.desc.w1c b = true := by
      revert b; decide
    obtain ⟨hrw, hro, hw1c⟩ := hmasks
    rw [rd_reg_other _ _ (regKey_r (by decide)), rd_reg_other _ _ (regKey_r (by decide)), rd_nowWrite_same]
    exact bit_swWrite_w1c _ _ (by omega) hrw hro hw1c
  · rw [nowWrite_run]
    exact (((RegsKept.refl s _).reg_excepted_partition rfl ⟨rfl, .inl rfl⟩).goLive.reg_excepted_partition rfl ⟨rfl, .inr (.inl rfl)⟩)
      |>.reg_excepted_partition rfl ⟨rfl, .inr (.inr rfl)⟩

theorem driftCtlWrite_takes_tau (hpos : fld v 31 0 ≠ 0) (hsign : bit v 31 = false) (hfin : f32Finite (fld v 31 0) = true)
    (p : Fin 4) : ∃ t, exec (.driftCtlWrite w p true v) s = .next t ∧
      rd t .driftTau p = swWrite .driftTau (rd s .driftTau p) v ∧ RegsKept s t (fun r q _ => q = p ∧ r = .driftTau) ∧
      MemoriesKept s t ∧ t.sys = s.sys := by
  refine ⟨_, exec_driftCtlWrite hrun hten p true, ?_⟩
  rw [driftSet_tau_good p hpos hsign hfin]
  refine ⟨rd_plainWrite_same s .driftTau p 0 v, ?_, ⟨rfl, rfl, rfl⟩, rfl⟩
  rw [plainWrite_run]
  exact (RegsKept.refl s _).reg_excepted_partition rfl ⟨rfl, rfl⟩

theorem hostEnWrite_takes_count (hallow : s.fuse.hostAllow = true) (hlo : 1 ≤ fld v 36 32) (hhi : fld v 36 32 ≤ 16)
    (hsame : bit v 63 = bit (rd s .hostCfg 0) 63) : ∃ t, exec (.hostEnWrite w v) s = .next t ∧
      rd t .hostCfg 0 = swWrite .hostCfg (rd s .hostCfg 0) v ∧
      RegsKept s t (fun r _ _ => r = .hostCfg) ∧ MemoriesKept s t ∧ t.sys = s.sys := by
  refine ⟨_, exec_hostEnWrite hrun hten, ?_⟩
  rw [hostCfgSet_good hallow hlo hhi hsame]
  exact ⟨rd_nowWrite_same s .hostCfg 0 0 v, regsKept_nowWrite s .hostCfg 0 0 v, ⟨rfl, rfl, rfl⟩, rfl⟩

/-! ### REGISTER_WRITE (R318) -/

section
variable {addr : Nat} {data : Bytes} (hreg : regionOf addr = .control)
  (hlo : 1 ≤ (addr - 0x30000000000) % 0x1000000 / 0x10000) (hhi : (addr - 0x30000000000) % 0x1000000 / 0x10000 ≤ 0x18)
include hreg hlo hhi

theorem registerWrite_takes_plain {r : R} {i : Nat} (hal : (addr - 0x30000000000) % 0x1000000 % 8 = 0) (hlen : data.length = 8)
    (hat : regAt ((addr - 0x30000000000) % 0x1000000) = some (r, i)) (hplain : r ∈ plainRegs) :
    let p := toP ((addr - 0x30000000000) / 0x1000000)
    ∃ t, exec (.registerWrite w addr data) s = .next t ∧ rd t r p i = swWrite r (rd s r p i) (BitVec.ofNat 64 (leNat data)) ∧
      t.live = s.live ∧ t.sys = s.sys ∧ MemoriesKept s t ∧
      RegsKept s t (fun x q j => x = r ∧ j = i ∧ (q = p ∨ r.desc.part = true)) := by
  intro p
  refine ⟨_, exec_registerWrite hrun hreg data, ?_⟩
  rw [ctlWrite_register (a := accessorOf s w) hten hlo hhi s hal hlen hat, regSet_plain hplain]
  exact ⟨rd_plainWrite_same s r p i _, rfl, rfl, ⟨rfl, rfl, rfl⟩, regsKept_reg s r p i _⟩

theorem registerWrite_records_bad_size (hbad : (addr - 0x30000000000) % 0x1000000 % 8 ≠ 0 ∨ data.length ≠ 8) :
    ∃ q t, exec (.registerWrite w addr data) s = .next t ∧ bit (rd t .memErrStatus q) 60 = true ∧
      fld (rd t .memErrCount q) 15 0 = satAdd 16 (fld (rd s .memErrCount q) 15 0) 1 ∧ t.sys = s.sys ∧ MemoriesKept s t ∧
      RegsKept s t (fun r x _ => x = q ∧ (r = .memErrStatus ∨ r = .memErrCount ∨ r = .memErrAddr)) := by
  refine ⟨ctlErrBlock (accessorOf s w), _, exec_registerWrite hrun hreg data, ?_⟩
  rw [ctlWrite_bad_size (a := accessorOf s w) hten hlo hhi s hbad]
  exact memErr_ctlSize s _ _ _

end
end

/-- Settles O6: each row's outcome by its own theorem. -/
theorem registerRowsTakeTheirWrites : Obligations.RegisterRowsTakeTheirWrites := by
  intro s w v hrun hten
  exact ⟨frameCtlWrite_takes_period hrun hten, frameCtlWrite_discards_period hrun hten, frameApplyWrite_refuses_soon hrun hten,
    frameApplyWrite_arms hrun hten, numClrCounts_clears hrun hten, driftCtlWrite_takes_tau hrun hten,
    hostEnWrite_takes_count hrun hten, fun addr data hreg hlo hhi =>
      ⟨fun r i hal hlen hat hplain => registerWrite_takes_plain hrun hten hreg hlo hhi hal hlen hat hplain,
        registerWrite_records_bad_size hrun hten hreg hlo hhi⟩⟩

end Sys2Proof.Machine
end

section
/-!
Byte fields, and the plain commands: what the body of IDENTIFY reads at each offset of Table 2.10, what the store holds once a command
has been ended before its time, and the outcome of each of the four rows.
-/

namespace Sys2Proof.Machine

open Sys2Proof.Safety

/-! ### Little-endian fields (R8) -/

@[simp] theorem length_natLE (n v : Nat) : (natLE n v).length = n := by
  induction n generalizing v with
  | zero => rfl
  | succ n ih => simp only [natLE, List.length_cons, ih]

/-- A number read back from its bytes. -/
theorem leNat_natLE (n v : Nat) : leNat (natLE n v) = v % 256 ^ n := by
  induction n generalizing v with
  | zero => rw [Nat.pow_zero, Nat.mod_one, natLE, leNat]
  | succ n ih => rw [natLE, leNat, ih, Nat.pow_succ', Nat.mod_mul, BitVec.toNat_ofNat]

/-- A field that is the whole byte string. -/
theorem leAt_natLE (n v : Nat) : leAt (natLE n v) 0 n = v % 256 ^ n := by
  rw [leAt, List.drop_zero, List.take_of_length_le (Nat.le_of_eq (length_natLE n v)), leNat_natLE]

/-- A field within the first of two byte strings. -/
theorem leAt_append_left {a : Bytes} (b : Bytes) {off n : Nat} (h : off + n ≤ a.length) : leAt (a ++ b) off n = leAt a off n := by
  rw [leAt, leAt, List.drop_append_of_le_length (by omega), List.take_append_of_le_length (by rw [List.length_drop]; omega)]

/-- A field within the second. -/
theorem leAt_append_right {a : Bytes} (b : Bytes) {off n : Nat} (h : a.length ≤ off) :
    leAt (a ++ b) off n = leAt b (off - a.length) n := by
  rw [leAt, leAt, List.drop_append, List.drop_of_length_le h, List.nil_append]

/-- A field that begins where a byte string ends. -/
theorem leAt_append_natLE {a : Bytes} {off : Nat} (n v : Nat) (h : a.length = off) : leAt (a ++ natLE n v) off n = v % 256 ^ n := by
  rw [leAt_append_right _ (Nat.le_of_eq h), h, Nat.sub_self, leAt_natLE]

theorem fld_lt (w : Word) (hi lo : Nat) : fld w hi lo < 2 ^ (hi - lo + 1) := Nat.mod_lt _ (Nat.two_pow_pos _)

/-! ### NOP and IDENTIFY (R84, R66) -/

section
variable {s : State} {p : Fin 4} {c : Cmd}

theorem exec_nop (h : Held s p 0x0101 c) : exec (.nop p c.ref) s = .next ((postReply p c stOk 0 []).run s) :=
  withCmd_go h fun c => postPlain p c stOk 0

theorem exec_identify (h : Held s p 0x0102 c) :
    exec (.identify p c.ref) s = .next ((postReply p c stOk 0 (identifyBytes s p c)).run s) :=
  withCmd_go h fun c => .read fun s => postReply p c stOk 0 (identifyBytes s p c)

end

theorem length_identifyBytes (s : State) (p : Fin 4) (c : Cmd) : (identifyBytes s p c).length = 32 := by
  simp only [identifyBytes, zeros, List.length_append, List.length_cons, List.length_nil, length_natLE, List.length_replicate]

/-- The fields of Table 2.10, each within its width. -/
theorem identifyBytes_fields (s : State) (p : Fin 4) {c : Cmd} (hring : c.ring < 32) :
    leAt (identifyBytes s p c) 9 1 = p.val ∧ leAt (identifyBytes s p c) 10 3 = partId s ∧
    leAt (identifyBytes s p c) 14 2 = bellUs s ∧ leAt (identifyBytes s p c) 16 6 = frameNow s ∧
    leAt (identifyBytes s p c) 22 2 = c.ring ∧ leAt (identifyBytes s p c) 28 2 = c.tenant % 65536 := by
  have hp : p.val % 256 ^ 1 = p.val := Nat.mod_eq_of_lt (by omega)
  have hpart : partId s % 256 ^ 3 = partId s := Nat.mod_eq_of_lt (Nat.lt_trans (fld_lt _ 19 0) (by decide))
  have hbell : bellUs s % 256 ^ 2 = bellUs s := Nat.mod_eq_of_lt (Nat.lt_trans (fld_lt _ 8 0) (by decide))
  have hframe : frameNow s % 256 ^ 6 = frameNow s := Nat.mod_eq_of_lt (Nat.lt_of_lt_of_eq (fld_lt _ 47 0) (by decide))
  have hring' : c.ring % 256 ^ 2 = c.ring := Nat.mod_eq_of_lt (by omega)
  have htenant : c.tenant % 256 ^ 2 = c.tenant % 65536 := rfl
  simp only [identifyBytes, if_pos hring]
  refine ⟨?_, ?_, ?_, ?_, ?_, ?_⟩
  all_goals
    simp (disch := simp only [zeros, List.length_append, List.length_cons, List.length_nil, length_natLE, List.length_replicate,
      Nat.reduceAdd, Nat.reduceLeDiff]) only [leAt_append_left, leAt_append_natLE, hp, hpart, hbell, hframe, hring', htenant]

/-! ### The store once a command has been ended before its time -/

/-- The store once a status is posted: all but the commands of its reference. -/
theorem mem_postReply_cmds {p : Fin 4} {c : Cmd} {status detail : Nat} {body : Bytes} {ref effect : Nat} {s : State} {x : Cmd} :
    x ∈ (psys ((postReply p c status detail body ref effect).run s) p).cmds ↔ x ∈ (psys s p).cmds ∧ x.ref ≠ c.ref := by
  rw [postReply_part PSys.cmds (fun _ => rfl), if_pos rfl]
  simp only [PSys.posted, List.mem_filter, bne_iff_ne]

theorem when_run (b : Bool) (u : Upd) (s : State) : (Upd.when b u).run s = if b then u.run s else s := by cases b <;> rfl

/-- What the journal's upkeep adds to the store is a remainder, of ring 36 (R165, log entry 91). -/
theorem mem_ghost_cmds {p : Fin 4} {c x : Cmd} {s : State} (h : x ∈ (psys ((ghost p c).run s) p).cmds) :
    x ∈ (psys s p).cmds ∨ x.ring = 36 := by
  have hjournal (u : State) (frame : Nat) (results : Bytes) :
      (psys ((journalPut p c frame results).run u) p).cmds = (psys u p).cmds := by rw [journalPut, psys_part, if_pos rfl]
  rw [ghost, Upd.read_run, when_run] at h
  split at h
  · rw [Upd.seq_cons, Upd.seq_cons, Upd.seq_one, when_run] at h
    split at h
    · rw [psys_part, if_pos rfl, List.mem_append, List.mem_singleton, hjournal] at h
      exact h.imp_right fun hx => by rw [hx]
    · rw [hjournal] at h
      exact .inl h
  · exact .inl h

/-- Ending a command early closes with its status and its journal's upkeep. -/
theorem endEarly_run (p : Fin 4) (c : Cmd) (status : Nat) (r : FaultRec) (s : State) : ∃ u ref,
    (endEarly p c status r).run s = (ghost p c).run ((postReply p c status 0 [] ref).run u) := by
  simp only [endEarly, Upd.read_run, Upd.seq_cons, Upd.seq_one]
  exact ⟨_, _, rfl⟩

/-- A command ended before its time leaves in the store at most its remainder. -/
theorem ring_eq_of_mem_endEarly_cmds {p : Fin 4} {c x : Cmd} {status : Nat} {r : FaultRec} {s : State}
    (h : x ∈ (psys ((endEarly p c status r).run s) p).cmds) (href : x.ref = c.ref) : x.ring = 36 := by
  obtain ⟨u, ref, hrun⟩ := endEarly_run p c status r s
  rw [hrun] at h
  rcases mem_ghost_cmds h with hposted | hring
  · exact absurd href (mem_postReply_cmds.mp hposted).2
  · exact hring

/-! ### CANCEL and COMMAND_TIMEOUT (R67, R25) -/

section
variable {s : State} {p : Fin 4} {c d : Cmd}

theorem exec_cancel_found (h : Held s p 0x0103 c)
    (hfind : (psys s p).cmds.find? (fun d => d.ring == c.ring && d.seq == par c 0 8 && d.ref != c.ref) = some d) :
    ∃ r, exec (.cancel p c.ref) s = .next ((postPlain p c stOk 1).run ((endEarly p d stContextReset r).run s)) := by
  have harm : exec (.cancel p c.ref) s = (cmdCancel p c.ref).go s := rfl
  refine ⟨{ faultBase 0x05 1 with detail := natLE 3 (if c.steward then c.srcPart else partId s) }, ?_⟩
  simp only [harm, cmdCancel, withCmd_go h, Upd.read_run, hfind, Upd.seq_cons, Upd.seq_one]

theorem exec_cancel_none (h : Held s p 0x0103 c)
    (hfind : (psys s p).cmds.find? (fun d => d.ring == c.ring && d.seq == par c 0 8 && d.ref != c.ref) = none) :
    exec (.cancel p c.ref) s = .next ((postReply p c stOk 0 []).run s) := by
  have harm : exec (.cancel p c.ref) s = (cmdCancel p c.ref).go s := rfl
  simp only [harm, cmdCancel, withCmd_go h, Upd.read_run, hfind, postPlain]

/-- Of a ring's commands a timeout is due from Bell f + t + 1 on. -/
theorem timeoutDue_of_ring_lt (hring : c.ring < 35) (n : Nat) : timeoutDue n c = decide (c.accFrame + c.timeout + 1 ≤ n) := by
  have h35 : (c.ring != 35) = true := bne_iff_ne.mpr (by omega)
  have h36 : (c.ring != 36) = true := bne_iff_ne.mpr (by omega)
  simp only [timeoutDue, h35, h36, Bool.true_and, Nat.lt_iff_add_one_le]

theorem exec_commandTimeout (hrun : Running s) (hcmd : cmdOf s p c.ref = some c) (hring : c.ring < 35) :
    exec (.commandTimeout p c.ref) s = .next (if c.accFrame + c.timeout + 1 ≤ frameNow s
      then (endEarly p c stTimeout (faultBase 0x01 1)).run s else s) := by
  refine (go_run hrun _).trans ?_
  rw [cmdCommandTimeout, Upd.read_run, hcmd]
  dsimp only
  rw [timeoutDue_of_ring_lt hring]
  by_cases hdue : c.accFrame + c.timeout + 1 ≤ frameNow s
  · rw [if_pos hdue, decide_eq_true hdue, Upd.when_true, timeOut]
  · rw [if_neg hdue, decide_eq_false hdue, Upd.when_false]

end

/-- Settles O14: each row's outcome, and the store left by a command ended early. -/
theorem plainCommandsEndAndAreEnded : Obligations.PlainCommandsEndAndAreEnded := by
  refine ⟨⟨fun s p c h => exec_nop h, fun s p c h => exec_identify h, fun s p c hring =>
    ⟨length_identifyBytes s p c, rfl, identifyBytes_fields s p hring⟩⟩, ?_, fun s p c h hfind => exec_cancel_none h hfind, ?_⟩
  · intro s p c d h hfind
    obtain ⟨r, hexec⟩ := exec_cancel_found h hfind
    exact ⟨_, hexec, postPlain_gone _ _ _ _ _, fun x hx href => ring_eq_of_mem_endEarly_cmds (mem_postReply_cmds.mp hx).1 href, r, rfl⟩
  · intro s p c hrun hcmd hring
    rw [exec_commandTimeout hrun hcmd hring]
    split
    · exact ⟨_, rfl, fun x hx href => ring_eq_of_mem_endEarly_cmds hx href, rfl⟩
    · rfl

end Sys2Proof.Machine
end

section
/-!
The text unit's vocabulary table, its lookups and its hashes: what counting, charging and posting leave of a partition's data, the two
ends of VOCAB_LOAD on an image it may read, and the replies of TERM_LOOKUP and NGRAM_HASH.
-/

namespace Sys2Proof.Machine

open Sys2Proof.Safety

/-! ### What counting, charging and posting leave -/

/-- The Ledger is no partition's. -/
theorem psys_ledger (tenant i n : Nat) (s : State) (q : Fin 4) : psys ((ledger tenant i n).run s) q = psys s q := by
  unfold ledger
  split
  · rfl
  · rfl

theorem psys_chargeRead (u : State) (tenant a n : Nat) (s : State) (q : Fin 4) :
    psys ((chargeRead u tenant a n).run s) q = psys s q := by
  unfold chargeRead
  split
  · exact psys_ledger _ _ _ _ _
  · exact psys_ledger _ _ _ _ _
  · rfl

theorem memoriesKept_ledger (tenant i n : Nat) (s : State) : MemoriesKept s ((ledger tenant i n).run s) := by
  unfold ledger
  split
  · exact ⟨rfl, rfl, rfl⟩
  · exact ⟨rfl, rfl, rfl⟩

/-- Posting a status leaves the text unit as it was. -/
theorem text_postReply (p : Fin 4) (c : Cmd) (status detail : Nat) (body : Bytes) (ref effect : Nat) (s : State) (q : Fin 4) :
    (psys ((postReply p c status detail body ref effect).run s) q).text = (psys s q).text := by
  rw [postReply_part PSys.text (fun _ => rfl)]
  split
  · rfl
  · rfl

theorem text_textMod (p : Fin 4) (f : TextSt → TextSt) (s : State) : (psys ((textMod p f).run s) p).text = f (psys s p).text := by
  have hopen : psys ((textMod p f).run s) p = psys ((Upd.part p fun y => { y with text := f y.text }).run s) p := rfl
  rw [hopen, psys_part, if_pos rfl]

/-- An access to a range of which no host holds a line in its way is made at once (R466). -/
theorem cohGate_run_of_cohHeld_nil {s : State} {a n : Nat} {write : Bool} (h : cohHeld s a n write = []) (u : Upd) :
    (cohGate [(a, n, write)] u).run s = u.run s := by
  simp only [cohGate, Upd.read_run, List.flatMap_cons, List.flatMap_nil, h, List.map_nil, List.append_nil, List.isEmpty_nil, if_true]

/-! ### VOCAB_LOAD (R303, R304) -/

/-- The end of a VOCAB_LOAD, by the first bad entry of its image. -/
def vocabLoadEnd (s : State) (p : Fin 4) (c : Cmd) (img : Mem) : Option Nat → Upd
  | some i => .seq [chargeRead s c.tenant (par c 0 8) 0x800000, postReply p c stBadParam 0 (natLE 4 i ++ zeros 4)]
  | none => .seq [chargeRead s c.tenant (par c 0 8) 0x800000, textMod p fun t => { t with vocabNext := some img },
      postReply p c stOk 0 (natLE 4 0xFFFFFFFF ++ zeros 4) 0 (frameNow s + 1)]

/-- The table of the next Bell after a VOCAB_LOAD, by the first bad entry of its image. -/
def nextVocab (s : State) (p : Fin 4) (img : Mem) : Option Nat → Option Mem
  | some _ => (psys s p).text.vocabNext
  | none => some img

section
variable {s : State} {p : Fin 4} {c : Cmd}

/-- A VOCAB_LOAD that need not wait, on memory it may read, verifies its image. -/
theorem exec_vocabLoad (h : Held s p 0x0701 c) (hbusy : tableBusy s p c = false)
    (hdead : cohDead s (unalias s (par c 0 8)) 0x800000 = false) (hheld : cohHeld s (par c 0 8) 0x800000 false = [])
    (hpoison : poisonIn s (par c 0 8) 0x800000 = none) {img : Mem}
    (himg : Mem.slice (if regionOf (unalias s (par c 0 8)) = .cellar then s.cellar else s.mem) (unalias s (par c 0 8)) 0x800000 = img)
    {first : Option Nat} (hfirst : (List.range 524288).find? (vocabBad img) = first) :
    exec (.vocabLoad p c.ref) s = .next ((vocabLoadEnd s p c img first).run s) := by
  have harm : exec (.vocabLoad p c.ref) s = (cmdVocabLoad p c.ref).go s := rfl
  rw [harm, cmdVocabLoad, withCmd_go h, Upd.read_run, hbusy, hdead, if_neg Bool.false_ne_true, if_neg Bool.false_ne_true,
    cohGate_run_of_cohHeld_nil hheld, hpoison]
  -- A variable for the 2 ^ 19 entry numbers keeps the kernel from searching them where the matches reduce.
  obtain ⟨entries, hentries⟩ : ∃ entries, List.range 524288 = entries := ⟨_, rfl⟩
  rw [hentries] at hfirst ⊢
  simp only [himg, hfirst]
  cases first with
  | some i => rfl
  | none => rfl

theorem vocabLoadEnd_ended (img : Mem) (first : Option Nat) : Ended ((vocabLoadEnd s p c img first).run s) p c := by
  cases first with
  | some i =>
    simp only [vocabLoadEnd, Upd.seq_cons, Upd.seq_one]
    exact postReply_ended ..
  | none =>
    simp only [vocabLoadEnd, Upd.seq_cons, Upd.seq_one]
    exact postReply_ended ..

/-- Of the text unit a load changes the table of the next Bell alone. -/
theorem text_vocabLoadEnd (img : Mem) (first : Option Nat) :
    (psys ((vocabLoadEnd s p c img first).run s) p).text = { (psys s p).text with vocabNext := nextVocab s p img first } := by
  cases first with
  | some i =>
    simp only [vocabLoadEnd, nextVocab, Upd.seq_cons, Upd.seq_one, text_postReply, psys_chargeRead]
  | none =>
    simp only [vocabLoadEnd, nextVocab, Upd.seq_cons, Upd.seq_one, text_postReply, text_textMod, psys_chargeRead]

/-! ### TERM_LOOKUP and NGRAM_HASH (R305, R306) -/

/-- The words of a TERM_LOOKUP's reply, looked up in the table in force. -/
def termWords (s : State) (p : Fin 4) (c : Cmd) : List Nat :=
  (termsOf c.params (par c 2 2) 8).map fun t =>
    (termId (psys s p).text.vocab (if nbit (par c 0 1) 0 then foldCase t.2 else t.2)).getD 0xFFFFFFFF

theorem exec_termLookup (h : Held s p 0x0706 c) (hwaits : vocabWaits s p c = false) :
    exec (.termLookup p c.ref) s = .next ((postReply p c stOk 0 ((termWords s p c).flatMap (natLE 4))).run
      ((ledger c.tenant 11 (4 * (termWords s p c).length)).run s)) := by
  have harm : exec (.termLookup p c.ref) s = (cmdTermLookup p c.ref).go s := rfl
  simp only [harm, cmdTermLookup, withCmd_go h, Upd.read_run, hwaits, Bool.false_eq_true, if_false, Upd.seq_cons, Upd.seq_one, termWords]

end

/-- Counting replacements and output bytes, as NGRAM_HASH does before its reply, leaves the memories. -/
theorem memoriesKept_ledger_regCount (p : Fin 4) (tenant replaced emitted : Nat) (s : State) :
    MemoriesKept s ((ledger tenant 11 emitted).run ((regCount .textCount0 p 0 63 32 replaced).run s)) :=
  memoriesKept_ledger tenant 11 emitted ((regCount .textCount0 p 0 63 32 replaced).run s)

/-- Settles O35: a load by the first bad entry of its image, a lookup in the table in force, and a hash whose counts leave the memories. -/
theorem vocabulariesAndTermsAreServed : Obligations.VocabulariesAndTermsAreServed := by
  refine ⟨?_, fun s p c h hwaits => exec_termLookup h hwaits, ?_⟩
  · intro s p c h hbusy hdead hheld hpoison img
    obtain ⟨first, hfirst⟩ : ∃ first, (List.range 524288).find? (vocabBad img) = first := ⟨_, rfl⟩
    have htext := text_vocabLoadEnd (s := s) (p := p) (c := c) img first
    refine ⟨_, exec_vocabLoad h hbusy hdead hheld hpoison (img := img) rfl hfirst, vocabLoadEnd_ended _ _, by rw [htext], ?_⟩
    rw [htext, hfirst]
    cases first with
    | some i => rfl
    | none => rfl
  · intro s p c h data chars bs distinct entries fit
    have harm : exec (.ngramHash p c.ref) s = (cmdNgramHash p c.ref).go s := rfl
    refine ⟨_, ?_, memoriesKept_ledger_regCount p c.tenant (utf8Chars (if nbit (par c 0 1) 0 then foldCase data else data)).2
      (8 + min fit entries.length) s⟩
    simp only [harm, cmdNgramHash, withCmd_go h, Upd.seq_cons, Upd.seq_one]
    rfl

end Sys2Proof.Machine
end

section
/-!
Faults as they are read: the records of FAULT_READ, and the dump of a partition mirrored, read and released.
-/

namespace Sys2Proof.Machine

open Sys2Proof.Safety

/-! ### What the parts of a dump command leave -/

theorem faults_faultMod (p : Fin 4) (f : FaultSt → FaultSt) (s : State) :
    (psys ((faultMod p f).run s) p).faults = f (psys s p).faults := by
  rw [faultMod, psys_part, if_pos rfl]

/-- Posting a status leaves every partition's records and dumps as they were. -/
theorem faults_postReply (p : Fin 4) (c : Cmd) (status detail : Nat) (body : Bytes) (ref effect : Nat) (s : State) (q : Fin 4) :
    (psys ((postReply p c status detail body ref effect).run s) q).faults = (psys s q).faults := by
  rw [postReply_part PSys.faults (fun _ => rfl)]
  split
  · rfl
  · rfl

/-- A bit cleared in a register reads 0. -/
theorem bit_regMod_clear_same (s : State) (r : R) (p : Fin 4) (i : Nat) {b : Nat} (hb : b < 64) :
    bit (rd ((regMod r p i fun w => setBit w b false).run s) r p i) b = false := by
  rw [regMod_run, rd_reg_same, bit_and, bit_setBit _ _ _ _ hb, if_pos rfl, Bool.false_and]

/-! ### FAULT_READ (R512) -/

/-- What FAULT_READ returns of the record of an index: the record while the ring holds it and the reader may see it, else INDEX alone. -/
def faultEntry (s : State) (q : Fin 4) (c : Cmd) (index : Nat) : Bytes :=
  match (psys s q).faults.records.find? (·.index == index) with
  | some r => if c.tenant = 0 ∨ r.tenant = c.tenant then faultBytes r else natLE 4 index ++ zeros 124
  | none => natLE 4 index ++ zeros 124

section
variable {s : State} {p : Fin 4} {c : Cmd}

theorem exec_faultRead (h : Held s p 0x0901 c) {q : Fin 4} (hq : toP (par c 0 4 / 2 ^ 30) = q) :
    exec (.faultRead p c.ref) s = .next ((postReply p c stOk 0 ((List.range (par c 4 2)).flatMap fun i =>
      faultEntry s q c (q.val * 2 ^ 30 + seqAfter (par c 0 4 % 2 ^ 30) i))).run s) := by
  subst hq
  exact withCmd_go h _

/-! ### DUMP_READ and DUMP_CLEAR (R520) -/

/-- The dump that DUMP_READ names by its SOURCE: the Loft copy or the mirror. -/
def dumpSource (s : State) (q : Fin 4) (c : Cmd) : Option Dump :=
  if par c 1 1 = 0 then (psys s q).faults.dump else (psys s q).faults.mirror

theorem exec_dumpRead_some (h : Held s p 0x0903 c) {q : Fin 4} (hq : toP (par c 0 1) = q) {d : Dump} (hd : dumpSource s q c = some d) :
    exec (.dumpRead p c.ref) s
      = .next ((postReply p c stOk 0 ((List.range (par c 4 4)).map fun i => dumpByte q d (par c 8 8 + i))).run s) := by
  have harm : exec (.dumpRead p c.ref) s = (cmdDumpRead p c.ref).go s := rfl
  rw [dumpSource] at hd
  simp only [harm, cmdDumpRead, withCmd_go h, Upd.read_run, hq, hd]

theorem exec_dumpRead_none (h : Held s p 0x0903 c) {q : Fin 4} (hq : toP (par c 0 1) = q) (hd : dumpSource s q c = none) :
    exec (.dumpRead p c.ref) s = .next ((postReply p c stShort 0 []).run s) := by
  have harm : exec (.dumpRead p c.ref) s = (cmdDumpRead p c.ref).go s := rfl
  rw [dumpSource] at hd
  simp only [harm, cmdDumpRead, withCmd_go h, Upd.read_run, hq, hd, postPlain]

/-- The release of a partition's Loft copy. -/
def dumpRelease (q : Fin 4) : Upd :=
  .seq [faultMod q fun f => { f with dump := none, mirroring := false }, regMod .faultStatus q 0 fun w => setBit w 63 false]

theorem exec_dumpClear (h : Held s p 0x0904 c) {q : Fin 4} (hq : toP (par c 0 1) = q) :
    exec (.dumpClear p c.ref) s = .next ((postPlain p c stOk 0).run ((dumpRelease q).run s)) := by
  subst hq
  exact withCmd_go h _

theorem faults_dumpRelease (q : Fin 4) :
    (psys ((dumpRelease q).run s) q).faults = { (psys s q).faults with dump := none, mirroring := false } :=
  faults_faultMod q (fun f => { f with dump := none, mirroring := false }) s

theorem bit_dumpRelease (q : Fin 4) : bit (rd ((dumpRelease q).run s) .faultStatus q) 63 = false := by
  rw [dumpRelease, Upd.seq_cons, Upd.seq_one]
  exact bit_regMod_clear_same _ .faultStatus q 0 (by decide)

/-! ### DUMP_MIRROR (R519) -/

/-- The first write of a new mirror makes the old one invalid. -/
def mirrorBegin (p : Fin 4) : Upd :=
  .seq [faultMod p fun f => { f with mirror := none }, regMod .faultStatus p 0 fun w => setBit w 61 false]

/-- The mirror's header, written last, completes it. -/
def mirrorEnd (p : Fin 4) : Upd :=
  .seq [faultMod p fun f => { f with mirror := f.dump, mirroring := false }, regSetBit .faultStatus p 0 61]

theorem exec_dumpMirror (hrun : Running s) (hmirroring : (psys s p).faults.mirroring = true) {d : Dump}
    (hdump : (psys s p).faults.dump = some d) (done : Bool) :
    exec (.dumpMirror p done) s = .next ((if done then mirrorEnd p else mirrorBegin p).run s) := by
  refine (go_run hrun _).trans ?_
  simp only [cmdDumpMirror, Upd.read_run, hmirroring, hdump, Option.isSome_some, Bool.and_true, Upd.when_true, mirrorEnd, mirrorBegin]

end

theorem memoriesKept_mirrorBegin (p : Fin 4) (s : State) : MemoriesKept s ((mirrorBegin p).run s) := ⟨rfl, rfl, rfl⟩

theorem faults_mirrorBegin (p : Fin 4) (s : State) :
    (psys ((mirrorBegin p).run s) p).faults = { (psys s p).faults with mirror := none } :=
  faults_faultMod p (fun f => { f with mirror := none }) s

theorem bit_mirrorBegin (p : Fin 4) (s : State) : bit (rd ((mirrorBegin p).run s) .faultStatus p) 61 = false := by
  rw [mirrorBegin, Upd.seq_cons, Upd.seq_one]
  exact bit_regMod_clear_same _ .faultStatus p 0 (by decide)

theorem memoriesKept_mirrorEnd (p : Fin 4) (s : State) : MemoriesKept s ((mirrorEnd p).run s) := ⟨rfl, rfl, rfl⟩

theorem faults_mirrorEnd (p : Fin 4) (s : State) :
    (psys ((mirrorEnd p).run s) p).faults = { (psys s p).faults with mirror := (psys s p).faults.dump, mirroring := false } :=
  faults_faultMod p (fun f => { f with mirror := f.dump, mirroring := false }) s

theorem bit_mirrorEnd (p : Fin 4) (s : State) : bit (rd ((mirrorEnd p).run s) .faultStatus p) 61 = true := by
  rw [mirrorEnd, Upd.seq_cons, Upd.seq_one]
  exact bit_regSetBit_same _ .faultStatus p 0 (by decide) (by decide)

/-- Settles O54: the records by their entries, the mirror by its two writes, the dump by its source and its release. -/
theorem faultRecordsAndDumpsAreRead : Obligations.FaultRecordsAndDumpsAreRead := by
  refine ⟨fun s p c h => exec_faultRead h rfl, ?_, ?_, ?_⟩
  · intro s p d hrun hmirroring hdump
    have hexec := exec_dumpMirror hrun hmirroring hdump
    refine ⟨⟨_, hexec false, memoriesKept_mirrorBegin p s, faults_mirrorBegin p s, bit_mirrorBegin p s⟩,
      ⟨_, hexec true, memoriesKept_mirrorEnd p s, ?_, bit_mirrorEnd p s⟩⟩
    rw [← hdump]
    exact faults_mirrorEnd p s
  · intro s p c h q
    change exec (.dumpRead p c.ref) s = .next (match dumpSource s q c with | some d => _ | none => _)
    split
    next d hd => exact exec_dumpRead_some h rfl hd
    next hd => exact exec_dumpRead_none h rfl hd
  · intro s p c h q
    have hfaults := (faults_postReply p c stOk 0 [] 0 0 ((dumpRelease q).run s) q).trans (faults_dumpRelease q)
    refine ⟨_, exec_dumpClear h rfl, postPlain_gone _ _ _ _ _, ?_, ?_, ?_⟩
    · rw [postPlain, hfaults]
    · rw [postPlain, hfaults]
    · rw [postPlain, postReply_rd _ _ _ _ _ _ _ _ (by decide)]
      exact bit_dumpRelease q

end Sys2Proof.Machine
end
